-- ==== Sys2Proof/Word.lean ====
section
/-!
DEFINITION. Word types of the K9410 model: bytes, 32- and 64-bit registers, lane vectors, positions.
Everything with a meaning of its own (bit-field helpers, byte order) stands under Machine/, not here.
-/

namespace Sys2Proof

/-- One byte (R80). -/
abbrev Byte := BitVec 8
/-- A 32-bit register, lane image or lane mask. -/
abbrev W32 := BitVec 32
/-- A 64-bit register or effective address. -/
abbrev W64 := BitVec 64
/-- A position: word address × 2 + slot (R103), 56 bits. -/
abbrev Pos := BitVec 56
/-- One value per lane of a warp (R25: 32 lanes). -/
abbrev Lanes (α : Type) := Vector α 32
/-- A set of lanes, bit l for lane l. -/
abbrev Mask := BitVec 32
/-- A 256-byte record, byte i in bits 8i+7:8i (R3, R363, R454). -/
abbrev Rec256 := BitVec 2048

end Sys2Proof
end

