-- ==== Sys2Proof/Syntax.lean ====
section
/-!
DEFINITION. Syntax: the operand forms and the one inductive `Instr` (05_encoding_and_opcode_map.md R107-R127).
A field of an encoding appears here under its own type (register number, type code, rounding attribute);
raw bits remain only where the spec gives raw bits (immediates, offsets, hint payloads).
-/

namespace Sys2Proof

/-- The sixteen types, in the order of their codes (R109). -/
inductive Ty where
  | i8 | i16 | i32 | i64 | n8 | n16 | n32 | n64 | f16 | bf16 | f32 | f64 | e4m3 | e5m2 | si8 | t2
  deriving DecidableEq, Repr

/-- The rounding attributes (R58). -/
inductive Rm where
  | rne | rtz | rup | rdn | odd
  deriving DecidableEq, Repr

/-- Scopes (R81). -/
inductive Scope where
  | warp | block | gang | die | package | system
  deriving DecidableEq, Repr

/-- Memory orders (R82). -/
inductive Ord where
  | rlx | acq | rel | ar
  deriving DecidableEq, Repr

/-- A register operand selected by SX: general register or scalar (R108). -/
inductive Src where
  | g (r : Fin 64)
  | s (r : Fin 32)
  deriving DecidableEq, Repr

/-- The operand of an extended LA form: general, scalar or IMM32 (R117). -/
inductive XSrc where
  | g (r : Fin 64)
  | s (r : Fin 32)
  | imm (v : W32)
  deriving DecidableEq, Repr

/-- The operand that stands where G stands: general register or IMM32 (R117). -/
inductive GSrc where
  | g (r : Fin 64)
  | imm (v : W32)
  deriving DecidableEq, Repr

/-- REG with its selector RS or RD (R108). -/
inductive RegSel where
  | g (r : Fin 64)
  | s (r : Fin 32)
  deriving DecidableEq, Repr

/-- A guard with GE = 1: predicate and inversion (R118). -/
structure Guard where
  p : Fin 8
  n : Bool
  deriving DecidableEq, Repr

/-- Format LA, long, one operand, with rounding. -/
structure La where
  b : Bool
  a : Fin 8
  src : Src
  t : Ty
  rm : Rm
  deriving DecidableEq, Repr

/-- Format LA, extended, one operand, with rounding. -/
structure LaX where
  b : Bool
  a : Fin 8
  src : XSrc
  t : Ty
  rm : Rm
  grd : Option Guard
  deriving DecidableEq, Repr

/-- Format LA, long, one operand, RM zero. -/
structure Ln where
  b : Bool
  a : Fin 8
  src : Src
  t : Ty
  deriving DecidableEq, Repr

/-- Format LA, extended, one operand, RM zero. -/
structure LnX where
  b : Bool
  a : Fin 8
  src : XSrc
  t : Ty
  grd : Option Guard
  deriving DecidableEq, Repr

/-- Format LA with two operands (MAC, MADD): G then S, SX = 1 (R108, R186). -/
structure La2 where
  b : Bool
  a : Fin 8
  g : Fin 64
  t : Ty
  rm : Rm
  s : Fin 32
  deriving DecidableEq, Repr

/-- Extended MAC and MADD. -/
structure La2X where
  b : Bool
  a : Fin 8
  src : GSrc
  t : Ty
  rm : Rm
  s : Fin 32
  grd : Option Guard
  deriving DecidableEq, Repr

/-- Format LI (R110). -/
structure Li where
  b : Bool
  a : Fin 8
  t : Ty
  imm : BitVec 15
  deriving DecidableEq, Repr

/-- Format LI of a shift: amount 0 to 63 (R110). -/
structure LiShift where
  b : Bool
  a : Fin 8
  t : Ty
  n : BitVec 6
  deriving DecidableEq, Repr

/-- Major 0x09 unary, long (R187). -/
structure Un where
  b : Bool
  a : Fin 8
  g : Fin 64
  t : Ty
  deriving DecidableEq, Repr

/-- Major 0x09 unary, extended. -/
structure UnX where
  b : Bool
  a : Fin 8
  src : GSrc
  t : Ty
  grd : Option Guard
  deriving DecidableEq, Repr

/-- BFI, long (R193). -/
structure BfiOp where
  b : Bool
  a : Fin 8
  g : Fin 64
  t : Ty
  s : Fin 32
  deriving DecidableEq, Repr

/-- BFI, extended. -/
structure BfiOpX where
  b : Bool
  a : Fin 8
  src : GSrc
  t : Ty
  s : Fin 32
  grd : Option Guard
  deriving DecidableEq, Repr

/-- Conditions of CMP, in the order of their codes (R194). -/
inductive Cond where
  | eq | ne | lt | le | gt | ge | ord | unord
  deriving DecidableEq, Repr

/-- CMP, long. -/
structure CmpOp where
  b : Bool
  a : Fin 8
  g : Fin 64
  t : Ty
  d : Fin 8
  c : Cond
  deriving DecidableEq, Repr

/-- CMP, extended. -/
structure CmpOpX where
  b : Bool
  a : Fin 8
  src : GSrc
  t : Ty
  d : Fin 8
  c : Cond
  grd : Option Guard
  deriving DecidableEq, Repr

/-- SEL, long (R195). -/
structure SelOp where
  b : Bool
  a : Fin 8
  g : Fin 64
  t : Ty
  p : Fin 8
  n : Bool
  deriving DecidableEq, Repr

/-- SEL, extended. -/
structure SelOpX where
  b : Bool
  a : Fin 8
  src : GSrc
  t : Ty
  p : Fin 8
  n : Bool
  grd : Option Guard
  deriving DecidableEq, Repr

/-- SATM of CVT (R196). -/
inductive Sat where
  | dflt | sat | nsat
  deriving DecidableEq, Repr

/-- CVT, long: destination type t, source type src (R196). -/
structure CvtOp where
  b : Bool
  a : Fin 8
  g : Fin 64
  t : Ty
  rm : Rm
  from_ : Ty
  sat : Sat
  deriving DecidableEq, Repr

/-- CVT, extended: `ol` is the OLM of outlier capture (R119, R198). -/
structure CvtOpX where
  b : Bool
  a : Fin 8
  src : GSrc
  t : Ty
  rm : Rm
  from_ : Ty
  sat : Sat
  ol : Option (Fin 16)
  grd : Option Guard
  deriving DecidableEq, Repr

/-- The functions of XFN, in the order of MINOR (R199). -/
inductive Xf where
  | rcp | rsqrt | sqrt | exp2 | log2 | sinpi | cospi | tanh | tos24
  deriving DecidableEq, Repr

/-- XFN, long. -/
structure XfnOp where
  b : Bool
  a : Fin 8
  t : Ty
  rm : Rm
  f : Xf
  deriving DecidableEq, Repr

/-- XFN, extended. -/
structure XfnOpX where
  b : Bool
  a : Fin 8
  t : Ty
  rm : Rm
  f : Xf
  grd : Option Guard
  deriving DecidableEq, Repr

/-- EMIT, long (R201). -/
structure EmitOp where
  b : Bool
  a : Fin 8
  g : Fin 64
  t : Ty
  deriving DecidableEq, Repr

/-- EMIT, extended. -/
structure EmitOpX where
  b : Bool
  a : Fin 8
  g : Fin 64
  t : Ty
  grd : Option Guard
  deriving DecidableEq, Repr

/-- EMITP, long (R202). -/
structure EmitpOp where
  b : Bool
  a : Fin 8
  t : Ty
  d : Fin 8
  deriving DecidableEq, Repr

/-- EMITP, extended. -/
structure EmitpOpX where
  b : Bool
  a : Fin 8
  t : Ty
  d : Fin 8
  grd : Option Guard
  deriving DecidableEq, Repr

/-- EMITS, long (R203). -/
structure EmitsOp where
  b : Bool
  a : Fin 8
  t : Ty
  d : Fin 32
  deriving DecidableEq, Repr

/-- EMITS, extended. -/
structure EmitsOpX where
  b : Bool
  a : Fin 8
  t : Ty
  d : Fin 32
  grd : Option Guard
  deriving DecidableEq, Repr

/-- SNOP in one half of a short pair. `slot` is the half it stands in, `other` the 14 bits of the
other half (R102, R113). -/
structure SnopOp where
  b : Bool
  slot : Bool
  other : BitVec 14
  deriving DecidableEq, Repr

/-- A short op with its half of the pair and the 14 bits of the other half (R113). -/
structure ShortOp where
  b : Bool
  slot : Bool
  other : BitVec 14
  a : Fin 8
  g : Fin 64
  deriving DecidableEq, Repr

/-- SYSR and SYSW, format LY (R176, R177). -/
structure SysOp where
  b : Bool
  r : RegSel
  sreg : BitVec 12
  deriving DecidableEq, Repr

/-- The memory operand of format LM without offset (R112). `idx` is G with its scale when GX = 1. -/
structure MemOperand where
  s : Fin 32
  idx : Option (Fin 64 × Fin 4)
  sp : Bool
  deriving DecidableEq, Repr

/-- LM, long (R120). -/
structure Lm where
  b : Bool
  a : Fin 8
  t : Ty
  m : MemOperand
  deriving DecidableEq, Repr

/-- LM, extended with CM (R116). -/
structure LmX where
  b : Bool
  a : Fin 8
  t : Ty
  m : MemOperand
  off : BitVec 18
  ord : Ord
  sc : Scope
  xd : Bool
  grd : Option Guard
  deriving DecidableEq, Repr

/-- ATOM and WAITA: LM, extended with CQ; `aop` is the operation or condition (R252, R254). -/
structure LmQ where
  b : Bool
  a : Fin 8
  t : Ty
  m : MemOperand
  off : BitVec 16
  ord : Ord
  sc : Scope
  aop : BitVec 4
  grd : Option Guard
  deriving DecidableEq, Repr

/-- SHFL modes (R229). -/
inductive ShflMode where
  | idx | up | down | xor
  deriving DecidableEq, Repr

/-- Reduction operations of REDUCE, SCAN, REDT and the value barriers (R230, R348). -/
inductive RedOp where
  | add | min | max | and | or | xor | mini | maxi
  deriving DecidableEq, Repr

/-- REDUCE: `dest` is the scalar of the scalar form, none for the broadcast form (R230). -/
structure ReduceOp where
  b : Bool
  a : Fin 8
  t : Ty
  mask : Option (Fin 8)
  dest : Option (Fin 32)
  op : RedOp
  deriving DecidableEq, Repr

/-- SCAN (R232). -/
structure ScanOp where
  b : Bool
  a : Fin 8
  t : Ty
  mask : Option (Fin 8)
  exclusive : Bool
  op : RedOp
  deriving DecidableEq, Repr

/-- The condition of BRA: PRED = 8, or a predicate with N (R207). -/
inductive BraCond where
  | always
  | pred (p : Fin 8) (n : Bool)
  deriving DecidableEq, Repr

/-- Operand B of LS (R127). -/
inductive SOperand where
  | s (r : Fin 32)
  | imm (v : BitVec 11)
  deriving DecidableEq, Repr

/-- Operand B of LZ (R127). -/
inductive ZOperand where
  | s (r : Fin 32)
  | imm (v : BitVec 10)
  deriving DecidableEq, Repr

/-- Format LS, long. -/
structure LsOp where
  b : Bool
  d : Fin 32
  a : Fin 32
  o : SOperand
  deriving DecidableEq, Repr

/-- Format LS, extended with CS. -/
structure LsOpX where
  b : Bool
  d : Fin 32
  a : Fin 32
  imm : BitVec 30
  deriving DecidableEq, Repr

/-- Conditions of SCMP (R129). -/
inductive ScmpCond where
  | eq | ne | lt | le | gt | ge | ltu | geu
  deriving DecidableEq, Repr

/-- TY of the value barriers (R350). -/
inductive BarTy where
  | i64 | n64 | f64
  deriving DecidableEq, Repr

/-- COPY, COPYM, GATH, SCAT (R328). -/
structure CopyOp where
  b : Bool
  d : Fin 32
  f : Fin 32
  l : Fin 32
  bo : Bool
  k : Fin 64
  deriving DecidableEq, Repr

/-- A resident warp: package core index and slot. -/
structure WarpRef where
  core : Nat
  slot : Nat
  deriving DecidableEq, Repr

/-- A fragment of a resident warp, by the model's identity of the fragment within its warp. -/
structure FragRef where
  core : Nat
  slot : Nat
  uid : Nat
  deriving DecidableEq, Repr

/-- A launch queue of a virtual interface (R360). -/
structure QueueRef where
  vi : Nat
  q : Nat
  deriving DecidableEq, Repr

/-- Fields of the vendor-specific capability besides MQTAIL and RECOVER (R448). -/
inductive CapField where
  | rootAddr | doorbell
  deriving DecidableEq, Repr

/-- The instruction set and the steps of the device: one constructor per row of spec/opcode_table.json,
in the table's order. -/
inductive Instr where
  /-- ADD: Long-form ADD adds a register or scalar operand to the accumulator, rounding floats by RM. (R184) -/
  | add (o : La)
  /-- ADD_LI: ADD with a 15-bit immediate taken by R110. (R185) -/
  | addLi (o : Li)
  /-- ADD_EXT: Extended ADD with guard or 32-bit immediate continuation. (R184) -/
  | addExt (o : LaX)
  /-- SUB: Subtracts the operand from the accumulator. (R184) -/
  | sub (o : La)
  /-- SUB_EXT: Extended SUB. (R184) -/
  | subExt (o : LaX)
  /-- MUL: Multiplies the accumulator by the operand. (R184) -/
  | mul (o : La)
  /-- MUL_EXT: Extended MUL, the only form for immediates. (R184) -/
  | mulExt (o : LaX)
  /-- MIN: Sets the accumulator to the smaller of it and the operand. (R184) -/
  | min (o : Ln)
  /-- MIN_EXT: Extended MIN. (R184) -/
  | minExt (o : LnX)
  /-- MAX: Sets the accumulator to the larger of it and the operand. (R184) -/
  | max (o : Ln)
  /-- MAX_EXT: Extended MAX. (R184) -/
  | maxExt (o : LnX)
  /-- MAC: Fused a + B × C with one rounding. (R186) -/
  | mac (o : La2)
  /-- MAC_EXT: Extended MAC. (R186) -/
  | macExt (o : La2X)
  /-- MADD: Fused a × B + C with one rounding. (R186) -/
  | madd (o : La2)
  /-- MADD_EXT: Extended MADD. (R186) -/
  | maddExt (o : La2X)
  /-- MOV: Copies the operand's register image into the accumulator. (R184) -/
  | mov (o : Ln)
  /-- MOV_LI: MOV with a 15-bit immediate. (R185) -/
  | movLi (o : Li)
  /-- MOV_EXT: Extended MOV. (R184) -/
  | movExt (o : LnX)
  /-- NEG: Negates the operand into the accumulator. (R187) -/
  | neg (o : Un)
  /-- NEG_EXT: Extended NEG. (R187) -/
  | negExt (o : UnX)
  /-- ABS: Absolute value of the operand into the accumulator. (R187) -/
  | abs (o : Un)
  /-- ABS_EXT: Extended ABS. (R187) -/
  | absExt (o : UnX)
  /-- NOT: Inverts every bit of the operand into the accumulator. (R187) -/
  | not (o : Un)
  /-- NOT_EXT: Extended NOT. (R187) -/
  | notExt (o : UnX)
  /-- POPC: Counts the 1 bits of the operand. (R187) -/
  | popc (o : Un)
  /-- POPC_EXT: Extended POPC. (R187) -/
  | popcExt (o : UnX)
  /-- CLZ: Counts leading zero bits of the operand. (R187) -/
  | clz (o : Un)
  /-- CLZ_EXT: Extended CLZ. (R187) -/
  | clzExt (o : UnX)
  /-- BREV: Reverses the bits of the operand. (R187) -/
  | brev (o : Un)
  /-- BREV_EXT: Extended BREV. (R187) -/
  | brevExt (o : UnX)
  /-- DIV: Integer division, DIVZERO splitting lanes with a zero divisor. (R188) -/
  | div (o : Ln)
  /-- DIV_EXT: Extended DIV. (R188) -/
  | divExt (o : LnX)
  /-- REM: Integer remainder with the dividend's sign. (R188) -/
  | rem (o : Ln)
  /-- REM_EXT: Extended REM. (R188) -/
  | remExt (o : LnX)
  /-- FDIV: Floating-point division rounded once. (R189) -/
  | fdiv (o : La)
  /-- FDIV_EXT: Extended FDIV. (R189) -/
  | fdivExt (o : LaX)
  /-- CMP: Compares accumulator and operand into a predicate bit per lane. (R194) -/
  | cmp (o : CmpOp)
  /-- CMP_EXT: Extended CMP, for immediates. (R194) -/
  | cmpExt (o : CmpOpX)
  /-- SEL: Moves the operand into the accumulator where the predicate selects. (R195) -/
  | sel (o : SelOp)
  /-- SEL_EXT: Extended SEL. (R195) -/
  | selExt (o : SelOpX)
  /-- CVT: Converts the accumulator in place between formats. (R197) -/
  | cvt (o : CvtOp)
  /-- CVT_EXT: Extended CVT, including outlier capture with its bounded header add. (R198) -/
  | cvtExt (o : CvtOpX)
  /-- AND: Bitwise AND into the accumulator. (R190) -/
  | and (o : Ln)
  /-- AND_LI: AND with a 15-bit immediate. (R185) -/
  | andLi (o : Li)
  /-- AND_EXT: Extended AND. (R190) -/
  | andExt (o : LnX)
  /-- OR: Bitwise OR into the accumulator. (R190) -/
  | or (o : Ln)
  /-- OR_LI: OR with a 15-bit immediate. (R185) -/
  | orLi (o : Li)
  /-- OR_EXT: Extended OR. (R190) -/
  | orExt (o : LnX)
  /-- XOR: Bitwise XOR into the accumulator. (R190) -/
  | xor (o : Ln)
  /-- XOR_LI: XOR with a 15-bit immediate. (R185) -/
  | xorLi (o : Li)
  /-- XOR_EXT: Extended XOR. (R190) -/
  | xorExt (o : LnX)
  /-- ANDN: Accumulator AND NOT operand. (R190) -/
  | andn (o : Ln)
  /-- ANDN_EXT: Extended ANDN. (R190) -/
  | andnExt (o : LnX)
  /-- SHL: Shifts the accumulator left. (R191) -/
  | shl (o : Ln)
  /-- SHL_LI: SHL by an immediate amount 0–63. (R185) -/
  | shlLi (o : LiShift)
  /-- SHL_EXT: Extended SHL. (R191) -/
  | shlExt (o : LnX)
  /-- SHR: Logical right shift of the accumulator. (R191) -/
  | shr (o : Ln)
  /-- SHR_LI: SHR by an immediate amount. (R185) -/
  | shrLi (o : LiShift)
  /-- SHR_EXT: Extended SHR. (R191) -/
  | shrExt (o : LnX)
  /-- SAR: Arithmetic right shift of the accumulator. (R191) -/
  | sar (o : Ln)
  /-- SAR_LI: SAR by an immediate amount. (R185) -/
  | sarLi (o : LiShift)
  /-- SAR_EXT: Extended SAR. (R191) -/
  | sarExt (o : LnX)
  /-- BFE: Extracts a bit field of the accumulator. (R192) -/
  | bfe (o : Ln)
  /-- BFE_EXT: Extended BFE. (R192) -/
  | bfeExt (o : LnX)
  /-- BFI: Inserts a bit field of B into the accumulator. (R193) -/
  | bfi (o : BfiOp)
  /-- BFI_EXT: Extended BFI. (R193) -/
  | bfiExt (o : BfiOpX)
  /-- XFN: Correctly rounded transcendental function of the accumulator. (R199) -/
  | xfn (o : XfnOp)
  /-- XFN_EXT: Extended XFN with a guard. (R199) -/
  | xfnExt (o : XfnOpX)
  /-- EMIT: Writes the accumulator's image to a general register and sets presence. (R201) -/
  | emit (o : EmitOp)
  /-- EMIT_EXT: Extended EMIT with a guard. (R201) -/
  | emitExt (o : EmitOpX)
  /-- EMITP: Writes a predicate bit per lane from whether the accumulator is nonzero. (R202) -/
  | emitp (o : EmitpOp)
  /-- EMITP_EXT: Extended EMITP. (R202) -/
  | emitpExt (o : EmitpOpX)
  /-- EMITS: Writes the lowest active lane's accumulator to a scalar. (R203) -/
  | emits (o : EmitsOp)
  /-- EMITS_EXT: Extended EMITS. (R203) -/
  | emitsExt (o : EmitsOpX)
  /-- SNOP: Short no-op occupying one position. (R113) -/
  | snop (o : SnopOp)
  /-- SHORT_ADD_F32: Short form of ADD.F32 a, g. (R113) -/
  | shortAddF32 (o : ShortOp)
  /-- SHORT_SUB_F32: Short form of SUB.F32 a, g. (R113) -/
  | shortSubF32 (o : ShortOp)
  /-- SHORT_MUL_F32: Short form of MUL.F32 a, g. (R113) -/
  | shortMulF32 (o : ShortOp)
  /-- SHORT_MIN_F32: Short form of MIN.F32 a, g. (R113) -/
  | shortMinF32 (o : ShortOp)
  /-- SHORT_MAX_F32: Short form of MAX.F32 a, g. (R113) -/
  | shortMaxF32 (o : ShortOp)
  /-- SHORT_MOV_F32: Short form of MOV.F32 a, g. (R113) -/
  | shortMovF32 (o : ShortOp)
  /-- SHORT_NEG_F32: Short form of NEG.F32 a, g. (R113) -/
  | shortNegF32 (o : ShortOp)
  /-- SHORT_ADD_I32: Short form of ADD.I32 a, g. (R113) -/
  | shortAddI32 (o : ShortOp)
  /-- SHORT_SUB_I32: Short form of SUB.I32 a, g. (R113) -/
  | shortSubI32 (o : ShortOp)
  /-- SHORT_MUL_I32: Short form of MUL.I32 a, g. (R113) -/
  | shortMulI32 (o : ShortOp)
  /-- SHORT_MIN_I32: Short form of MIN.I32 a, g. (R113) -/
  | shortMinI32 (o : ShortOp)
  /-- SHORT_MAX_I32: Short form of MAX.I32 a, g. (R113) -/
  | shortMaxI32 (o : ShortOp)
  /-- SHORT_MIN_N32: Short form of MIN.N32 a, g. (R113) -/
  | shortMinN32 (o : ShortOp)
  /-- SHORT_MAX_N32: Short form of MAX.N32 a, g. (R113) -/
  | shortMaxN32 (o : ShortOp)
  /-- SHORT_AND_N32: Short form of AND.N32 a, g. (R113) -/
  | shortAndN32 (o : ShortOp)
  /-- SHORT_OR_N32: Short form of OR.N32 a, g. (R113) -/
  | shortOrN32 (o : ShortOp)
  /-- SHORT_XOR_N32: Short form of XOR.N32 a, g. (R113) -/
  | shortXorN32 (o : ShortOp)
  /-- SHORT_ANDN_N32: Short form of ANDN.N32 a, g. (R113) -/
  | shortAndnN32 (o : ShortOp)
  /-- SHORT_SHL_N32: Short form of SHL.N32 a, g. (R113) -/
  | shortShlN32 (o : ShortOp)
  /-- SHORT_SHR_N32: Short form of SHR.N32 a, g. (R113) -/
  | shortShrN32 (o : ShortOp)
  /-- SHORT_SAR_I32: Short form of SAR.I32 a, g. (R113) -/
  | shortSarI32 (o : ShortOp)
  /-- SHORT_POPC_N32: Short form of POPC.N32 a, g. (R113) -/
  | shortPopcN32 (o : ShortOp)
  /-- SHORT_CLZ_N32: Short form of CLZ.N32 a, g. (R113) -/
  | shortClzN32 (o : ShortOp)
  /-- SHORT_ADD_F64: Short form of ADD.F64 a, g. (R113) -/
  | shortAddF64 (o : ShortOp)
  /-- SHORT_MUL_F64: Short form of MUL.F64 a, g. (R113) -/
  | shortMulF64 (o : ShortOp)
  /-- SHORT_ADD_I64: Short form of ADD.I64 a, g. (R113) -/
  | shortAddI64 (o : ShortOp)
  /-- SHORT_EMIT: Short form of EMIT g, a. (R113) -/
  | shortEmit (o : ShortOp)
  /-- SHORT_EMIT_N64: Short form of EMIT.N64 g, a. (R113) -/
  | shortEmitN64 (o : ShortOp)
  /-- SYSR: Reads a system register into a general or scalar register. (R176) -/
  | sysr (o : SysOp)
  /-- SYSW: Writes a system register by the access codes of its fields. (R177) -/
  | sysw (o : SysOp)
  /-- LRATIO_WRITE: A write to LRATIO.REQ starts an LCLK ratio change with its drain. (R161) -/
  | lratioWrite (v : W64)
  /-- TRAP_VEC_WRITE: A write to TRAP.VEC is checked against the target bitmap or removes the handler. (R143) -/
  | trapVecWrite (v : W64)
  /-- PHINT: Pre-emption point with liveness maps; takes the warp for saving when a request stands. (R398) -/
  | phint (g m : Fin 32)
  /-- PHINT_ALL: Pre-emption point naming all state live. (R398) -/
  | phintAll
  /-- BOEXP: Announces bytes on a barrier object and, unless .NA, counts an arrival. (R323) -/
  | boexp (b : Bool) (a c : Fin 32) (na : Bool)
  /-- BOWAIT: Waits until a barrier object's phase differs from n. (R323) -/
  | bowait (b : Bool) (d a : Fin 32) (n : Bool)
  /-- TLWAIT: Waits until a timeline counter reaches a value and acquires. (R325) -/
  | tlwait (b : Bool) (d h v : Fin 32)
  /-- TLREAD: Reads a timeline counter relaxed. (R325) -/
  | tlread (b : Bool) (d h : Fin 32)
  /-- CGRP: Writes a group descriptor into a group slot of the die level. (R347) -/
  | cgrp (b : Bool) (c : Fin 32) (n : Fin 16)
  /-- LD: Long-form relaxed load into the accumulator. (R249) -/
  | ld (o : Lm)
  /-- LD_EXT: Extended LD with offset, order, scope and guard. (R249) -/
  | ldExt (o : LmX)
  /-- ST: Long-form relaxed .G store from the accumulator. (R249) -/
  | st (o : Lm)
  /-- ST_EXT: Extended ST with offset, order, scope, cross-die bit and guard. (R249) -/
  | stExt (o : LmX)
  /-- LDNT: Non-temporal load that allocates no line. (R250) -/
  | ldnt (o : Lm)
  /-- LDNT_EXT: Extended LDNT. (R250) -/
  | ldntExt (o : LmX)
  /-- STNT: Non-temporal store gathered only by DRAIN. (R250) -/
  | stnt (o : Lm)
  /-- STNT_EXT: Extended STNT. (R250) -/
  | stntExt (o : LmX)
  /-- ATOM: Indivisible read-modify-write at the home or an exclusive L1. (R253) -/
  | atom (o : LmQ)
  /-- WAITA: Waits until each lane's location satisfies a comparison. (R254) -/
  | waita (o : LmQ)
  /-- DRAIN: Completes when earlier STNTs are performed and visible to the scope. (R251) -/
  | drain (b : Bool) (sc : Scope)
  /-- FENCE: Completes when earlier writes are visible to the scope. (R251) -/
  | fence (b : Bool) (sc : Scope)
  /-- BAR: Arrives at and waits on the block barrier. (R256) -/
  | bar (b : Bool)
  /-- BAR_ARRIVE: Arrives at the block barrier without waiting. (R256) -/
  | barArrive (b : Bool)
  /-- BAR_WAIT: Waits for the block barrier episode of the earlier arrival. (R259) -/
  | barWait (b : Bool)
  /-- BAR_GANG: Arrives at and waits on the gang barrier. (R256) -/
  | barGang (b : Bool)
  /-- BAR_ARRIVE_GANG: Arrives at the gang barrier. (R256) -/
  | barArriveGang (b : Bool)
  /-- BAR_WAIT_GANG: Waits on the gang barrier episode. (R259) -/
  | barWaitGang (b : Bool)
  /-- BAR_LVL: Arrives and waits at the barrier whose level a scalar gives. (R256) -/
  | barLvl (b : Bool) (s : Fin 32)
  /-- BAR_ARRIVE_LVL: Arrives at the barrier of a register-chosen level. (R256) -/
  | barArriveLvl (b : Bool) (s : Fin 32)
  /-- BAR_WAIT_LVL: Waits on the barrier of a register-chosen level. (R259) -/
  | barWaitLvl (b : Bool) (s : Fin 32)
  /-- BAR_NAMED: Arrives and waits at a named barrier with a warp count. (R257) -/
  | barNamed (b : Bool) (index : Fin 128) (count : Fin 17)
  /-- BAR_ARRIVE_NAMED: Arrives at a named barrier. (R257) -/
  | barArriveNamed (b : Bool) (index : Fin 128) (count : Fin 17)
  /-- BAR_WAIT_NAMED: Waits on a named barrier episode. (R259) -/
  | barWaitNamed (b : Bool) (index : Fin 128) (count : Fin 17)
  /-- BANKMODE_CACHE: Returns an SRAM bank to CACHE mode. (R245) -/
  | bankmodeCache (b : Bool) (n : Fin 12)
  /-- BANKMODE_SCRATCH: Switches an SRAM bank to SCRATCH mode held by the block. (R245) -/
  | bankmodeScratch (b : Bool) (n : Fin 12)
  /-- BANKMODE_FIFO: Switches an SRAM bank to FIFO mode held by the block. (R245) -/
  | bankmodeFifo (b : Bool) (n : Fin 12)
  /-- SPMAP: Writes a scratchpad window table entry after checking it. (R241) -/
  | spmap (b : Bool) (s : Fin 32) (w : Fin 16)
  /-- VOTE_ALL: Sets a predicate when the source is set in all active lanes. (R228) -/
  | voteAll (b : Bool) (d s : Fin 8)
  /-- VOTE_ANY: Sets a predicate when the source is set in some active lane. (R228) -/
  | voteAny (b : Bool) (d s : Fin 8)
  /-- VOTE_BALLOT: Writes the predicate mask of active lanes to a scalar. (R228) -/
  | voteBallot (b : Bool) (d : Fin 32) (s : Fin 8)
  /-- VOTE_EQ: Sets a predicate when the accumulator agrees in all active lanes. (R228) -/
  | voteEq (b : Bool) (a : Fin 8) (t : Ty) (d : Fin 8)
  /-- SHFL: Exchanges accumulator values between lanes. (R229) -/
  | shfl (b : Bool) (a : Fin 8) (src : Src) (t : Ty) (m : ShflMode)
  /-- REDUCE: Reduces the accumulator over the lanes into a scalar or broadcast. (R230) -/
  | reduce (o : ReduceOp)
  /-- SCAN: Prefix reduction of the accumulator across lanes. (R232) -/
  | scan (o : ScanOp)
  /-- BRA: Uniform branch moving the whole fragment. (R207) -/
  | bra (b : Bool) (c : BraCond) (off : BitVec 17)
  /-- BRA_EXT: BRA with a 30-bit offset continuation. (R207) -/
  | braExt (b : Bool) (c : BraCond) (off : BitVec 30)
  /-- BRX: Indirect uniform branch checked against the target bitmap. (R209) -/
  | brx (b : Bool) (r : RegSel)
  /-- BRD: Divergent branch that arms a rejoin register and may split the fragment. (R210) -/
  | brd (b : Bool) (p : Fin 8) (n : Bool) (off : BitVec 17)
  /-- BRD_EXT: BRD with a 30-bit offset continuation. (R210) -/
  | brdExt (b : Bool) (p : Fin 8) (n : Bool) (off : BitVec 30)
  /-- JOIN: Arrives at a rejoin register and waits for all member lanes. (R212) -/
  | join (b : Bool) (j : Fin 8)
  /-- CALL: Convergent call pushing the return word. (R217) -/
  | call (b : Bool) (off : BitVec 17)
  /-- CALL_EXT: CALL with a 30-bit offset continuation. (R217) -/
  | callExt (b : Bool) (off : BitVec 30)
  /-- RET: Convergent return popping the return stack. (R218) -/
  | ret (b : Bool)
  /-- EXIT: Retires the fragment's lanes after STNTs and global points settle. (R219) -/
  | exit (b : Bool)
  /-- PBLK: Predicate block covering the next positions with a pattern. (R121) -/
  | pblk (b : Bool) (p : Fin 8) (pat : BitVec 8) (cntM1 : Fin 8)
  /-- BRK: Breakpoint stopping the fragment or raising SOFTTRAP. (R221) -/
  | brk (b : Bool) (code : BitVec 12)
  /-- TRAP: Raises SOFTTRAP with a code. (R222) -/
  | trap (b : Bool) (code : BitVec 12)
  /-- RETH: Leaves handler mode and replays the faulting instruction. (R173) -/
  | reth (b : Bool)
  /-- RETH_SKIP: Leaves handler mode skipping the faulting instruction in TRAP.LANES. (R173) -/
  | rethSkip (b : Bool)
  /-- FRESUME: Service resumes a parked fragment named by core, slot, entry and SEQ. (R225) -/
  | fresume (b : Bool) (r : Fin 32)
  /-- FKILL: Service retires the lanes of a parked fragment. (R226) -/
  | fkill (b : Bool) (r : Fin 32)
  /-- ICINV: Invalidates code-store copies of a range on all dies. (R431) -/
  | icinv (b : Bool) (a l : Fin 32)
  /-- VINV: Writes back and drops cached copies and translations of a page range. (R429) -/
  | vinv (b : Bool) (a l : Fin 32)
  /-- VINV_AS: VINV for another address space under the fault-service grant. (R428) -/
  | vinvAs (b : Bool) (a l n : Fin 32)
  /-- CFLUSH: Writes back dirty copies of a line range, leaving them clean. (R430) -/
  | cflush (b : Bool) (a l : Fin 32)
  /-- CFLUSH_INV: Writes back and then drops every copy of a line range. (R427) -/
  | cflushInv (b : Bool) (a l : Fin 32)
  /-- RANGE_ACK_COMPLETE: ICINV, VINV or CFLUSH completes when every die has acknowledged. (R428) -/
  | rangeAckComplete (id : Nat)
  /-- SADD: Scalar add. (R128) -/
  | sadd (o : LsOp)
  /-- SADD_EXT: SADD with a 30-bit immediate. (R128) -/
  | saddExt (o : LsOpX)
  /-- SSUB: Scalar subtract. (R128) -/
  | ssub (o : LsOp)
  /-- SSUB_EXT: SSUB with a 30-bit immediate. (R128) -/
  | ssubExt (o : LsOpX)
  /-- SMUL: Scalar multiply, low 64 bits. (R128) -/
  | smul (o : LsOp)
  /-- SMUL_EXT: SMUL with a 30-bit immediate. (R128) -/
  | smulExt (o : LsOpX)
  /-- SAND: Scalar AND. (R128) -/
  | sand (o : LsOp)
  /-- SAND_EXT: SAND with a 30-bit immediate. (R128) -/
  | sandExt (o : LsOpX)
  /-- SOR: Scalar OR. (R128) -/
  | sor (o : LsOp)
  /-- SOR_EXT: SOR with a 30-bit immediate. (R128) -/
  | sorExt (o : LsOpX)
  /-- SSHL: Scalar shift left. (R128) -/
  | sshl (o : LsOp)
  /-- SSHL_EXT: SSHL with a 30-bit immediate. (R128) -/
  | sshlExt (o : LsOpX)
  /-- SSHR: Scalar logical shift right. (R128) -/
  | sshr (o : LsOp)
  /-- SSHR_EXT: SSHR with a 30-bit immediate. (R128) -/
  | sshrExt (o : LsOpX)
  /-- SMOV: Scalar move. (R128) -/
  | smov (b : Bool) (d : Fin 32) (o : SOperand)
  /-- SMOV_EXT: SMOV with a 30-bit immediate. (R128) -/
  | smovExt (b : Bool) (d : Fin 32) (imm : BitVec 30)
  /-- SCMP: Scalar compare writing a whole predicate. (R129) -/
  | scmp (b : Bool) (p : Fin 8) (c : ScmpCond) (a : Fin 32) (o : ZOperand)
  /-- SLD: Scalar 8-byte load by the lowest lane. (R130) -/
  | sld (b : Bool) (d a : Fin 32) (off : BitVec 11)
  /-- SLD_EXT: SLD with a 30-bit offset. (R130) -/
  | sldExt (b : Bool) (d a : Fin 32) (off : BitVec 30)
  /-- LAUNCH: Appends a 256-byte record to a device-submitted queue. (R389) -/
  | launch (b : Bool) (d q r : Fin 32)
  /-- SUCC: Marks the gang so that early successors may be released. (R390) -/
  | succ (b : Bool)
  /-- PWAIT: Waits for one dependence slot and acquires its operations. (R391) -/
  | pwait (b : Bool) (d : Fin 32) (n : Fin 4)
  /-- PWAIT_ALL: Waits for every used dependence slot. (R391) -/
  | pwaitAll (b : Bool) (d : Fin 32)
  /-- REDT: Arrives at a reduction-tree episode of a group and receives its result. (R348) -/
  | redt (b : Bool) (a : Fin 8) (n : Fin 16) (t : Ty) (d : Fin 32) (op : RedOp)
  /-- DBAR: Die barrier without a value. (R350) -/
  | dbar (b : Bool)
  /-- DBAR_VALUE: Die barrier combining a scalar value. (R351) -/
  | dbarValue (b : Bool) (d v : Fin 32) (ty : BarTy) (op : RedOp)
  /-- XBAR: Grid barrier without a value. (R350) -/
  | xbar (b : Bool)
  /-- XBAR_VALUE: Grid barrier combining a scalar value. (R351) -/
  | xbarValue (b : Bool) (d v : Fin 32) (ty : BarTy) (op : RedOp)
  /-- COLL: Submits a bulk collective record to the sequencer. (R354) -/
  | coll (b : Bool) (r : Fin 32)
  /-- TCFG: Writes a tile control record after checking it. (R285) -/
  | tcfg (b : Bool) (n : Fin 16) (s : Fin 32)
  /-- TLD: Loads a tile from memory, packed or pitched. (R287) -/
  | tld (b : Bool) (n : Fin 16) (s : Fin 32) (pitched : Bool)
  /-- TST: Stores a tile to memory, packed or pitched. (R287) -/
  | tst (b : Bool) (n : Fin 16) (s : Fin 32) (pitched : Bool)
  /-- TZERO: Zeroes a tile's content and side area. (R286) -/
  | tzero (b : Bool) (n : Fin 16)
  /-- ACCT_TILE: Puts the accumulator into tile mode or clears its columns. (R288) -/
  | acctTile (b : Bool) (a : Fin 8)
  /-- ACCT_VEC: Returns the accumulator to vector mode. (R288) -/
  | acctVec (b : Bool) (a : Fin 8)
  /-- ACCT_LOAD: Loads a tile into a tile-mode accumulator. (R288) -/
  | acctLoad (b : Bool) (a : Fin 8) (n : Fin 16)
  /-- ACCT_STORE: Converts accumulator columns into a tile. (R288) -/
  | acctStore (b : Bool) (a : Fin 8) (n : Fin 16)
  /-- ACCT_RMAX: Row value := maximum of the row's columns. (R288) -/
  | acctRmax (b : Bool) (a : Fin 8)
  /-- ACCT_RMIN: Row value := minimum of the row's columns. (R288) -/
  | acctRmin (b : Bool) (a : Fin 8)
  /-- ACCT_RSUM: Row value := sum of the row's columns. (R288) -/
  | acctRsum (b : Bool) (a : Fin 8)
  /-- ACCT_RCOL: Row value := one column. (R288) -/
  | acctRcol (b : Bool) (a : Fin 8) (c : Fin 32)
  /-- ACCT_WCOL: One column := the row value. (R288) -/
  | acctWcol (b : Bool) (a : Fin 8) (c : Fin 32)
  /-- MMA: Performs one matrix step into a tile-mode accumulator. (R289) -/
  | mma (b : Bool) (a : Fin 8) (ta tb : Fin 16) (z : Bool)
  /-- MLOOP: Repeats matrix steps along K from memory, resumable from its record. (R291) -/
  | mloop (b : Bool) (a : Fin 8) (ta tb : Fin 16) (d : Fin 8) (z : Bool)
  /-- MPAIR: Bonded matrix loop on both cores of a vertical pair. (R294) -/
  | mpair (b : Bool) (a : Fin 8) (ta tb : Fin 16) (d : Fin 8) (z : Bool)
  /-- TMASK: Masks accumulator columns by draft-tree ancestry. (R298) -/
  | tmask (b : Bool) (a : Fin 8) (d : Fin 8) (n : Fin 32)
  /-- MAUDIT: Configures the audit ring and sampling interval. (R299) -/
  | maudit (b : Bool) (d : Fin 16)
  /-- MSTAT: Reads MX.STAT into a scalar, optionally clearing it. (R303) -/
  | mstat (b : Bool) (d : Fin 32) (clr : Bool)
  /-- VPUSH: Pushes an accumulator vector into the vertical FIFO, waiting for room. (R333) -/
  | vpush (b : Bool) (a : Fin 8) (t : Ty)
  /-- VPUSHN: Non-waiting push reporting success in a predicate. (R335) -/
  | vpushn (b : Bool) (a : Fin 8) (d : Fin 8) (t : Ty)
  /-- VPOP: Pops the oldest FIFO entries into a general register. (R336) -/
  | vpop (b : Bool) (g : Fin 64) (t : Ty)
  /-- VFREE: Reads VX.STAT into a scalar. (R343) -/
  | vfree (b : Bool) (d : Fin 32)
  /-- PGREQ_NOW: Requests an immediate crown gate if the FIFO is empty. (R341) -/
  | pgreqNow (b : Bool) (d : Fin 32)
  /-- PGREQ_DRAIN: Requests the crown gate after draining. (R341) -/
  | pgreqDrain (b : Bool) (d : Fin 32)
  /-- PGREQ_UNGATE: Requests the crown domain to wake. (R341) -/
  | pgreqUngate (b : Bool) (d : Fin 32)
  /-- PGREQ_CANCEL: Cancels a pending crown gate. (R341) -/
  | pgreqCancel (b : Bool) (d : Fin 32)
  /-- COPY: Submits a byte copy to the copy engine. (R314) -/
  | copy (o : CopyOp)
  /-- COPYM: Submits a multicast copy to several cores' scratchpads. (R315) -/
  | copym (o : CopyOp)
  /-- GATH: Submits an indexed gather of rows. (R316) -/
  | gath (o : CopyOp)
  /-- SCAT: Submits an indexed scatter of rows. (R316) -/
  | scat (o : CopyOp)
  /-- TAGWAIT: Waits until a copy tag's count is zero and reads its error. (R319) -/
  | tagwait (b : Bool) (d : Fin 32) (k : Fin 64)
  /-- TAGFIRST: Finds the lowest idle tag in a mask. (R320) -/
  | tagfirst (b : Bool) (d m : Fin 32)
  /-- TAGCLR: Clears a copy tag's recorded error. (R320) -/
  | tagclr (b : Bool) (k : Fin 64)
  /-- BOINIT: Initialises a byte-counting barrier object. (R322) -/
  | boinit (b : Bool) (a c : Fin 32)
  /-- NOP: Hint-space no-op word. (R123) -/
  | nop (b : Bool) (p : BitVec 22)
  /-- HINT: Hint word of majors 0x79–0x7F with no effect. (R123) -/
  | hint (b : Bool) (h : Fin 8) (p : BitVec 22)
  /-- HINT_EXT: Extended hint word with an ignored continuation. (R123) -/
  | hintExt (b : Bool) (h : Fin 8) (p : BitVec 22) (q : BitVec 30)
  /-- LOAD_RESPONSE: A load value returns to the lane, completing it and setting presence. (R85) -/
  | loadResponse (id : Nat)
  /-- STORE_ACCEPTANCE: The home's acceptance of a remote .E store reaches the core and completes it. (R85) -/
  | storeAcceptance (id : Nat)
  /-- GLOBAL_ACKNOWLEDGEMENT: The home's global acknowledgement of a remote store reaches the issuing die. (R83) -/
  | globalAcknowledgement (id : Nat)
  /-- ACKLOST_TIMEOUT: MEM.ACKTO expires without a response; the lanes split off with ACKLOST. (R97) -/
  | acklostTimeout (id : Nat)
  /-- GLOBAL_ACK_LOSS: A completed .E store's global acknowledgement is declared lost after MEM.ACKTO. (R100) -/
  | globalAckLoss (id : Nat)
  /-- HOME_ACCESS: A request arrives at its home agent, is translated and performed. (R415) -/
  | homeAccess (id : Nat)
  /-- FAULT_RING_RECORD: The home writes a 32-byte fault-ring record once a slot is free. (R170) -/
  | faultRingRecord (asid : BitVec 16)
  /-- HANDLER_ENTRY: A fragment with a handler-route cause enters handler mode once in-flight work settles. (R171) -/
  | handlerEntry (f : FragRef)
  /-- DEFERRED_POP: The top deferred-side record pops when an entry frees or no fragment is ready. (R165) -/
  | deferredPop (w : WarpRef)
  /-- CODE_STORE_FILL: A code-store fill completes or parks the fragment on a fault. (R148) -/
  | codeStoreFill (f : FragRef)
  /-- LRATIO_SWITCH: With no strand instruction in flight the lanes stop for LCLK relock. (R161) -/
  | lratioSwitch (cg : Fin 64)
  /-- LRATIO_RESUME: After 2,048 FCLK cycles CUR takes REQ and issue resumes. (R161) -/
  | lratioResume (cg : Fin 64)
  /-- FIFO_BANK_SERVE: A waiting FIFO-bank push or pop is served when words or room appear. (R247) -/
  | fifoBankServe (core : Fin 256) (bank : Fin 12)
  /-- BANK_SWITCH_COMPLETE: A bank switch completes after its accepted accesses drain. (R246) -/
  | bankSwitchComplete (core : Fin 256) (bank : Fin 12)
  /-- BARRIER_SWATH_RELEASE: A later swath of released warps is released after BAR.SLOPE.GAP cycles. (R261) -/
  | barrierSwathRelease (cg : Fin 64)
  /-- COPY_OP_PERFORM: The copy engine begins an operation once its release completes and a slot is free. (R317) -/
  | copyOpPerform (op : Nat)
  /-- BO_LANDING: Landed bytes are counted on a barrier object, possibly completing its phase. (R322) -/
  | boLanding (op : Nat) (obj : Nat) (bytes : BitVec 32)
  /-- COPY_OP_COMPLETE: A copy operation completes, decrementing its tag and advancing the counter. (R319) -/
  | copyOpComplete (op : Nat)
  /-- VX_PUSH_ADMIT: A waiting vertical push group is admitted into the FIFO. (R334) -/
  | vxPushAdmit (pair : Fin 128)
  /-- CROWN_GATE_EFFECT: A pending gate takes effect when the FIFO is empty and the crown is idle. (R340) -/
  | crownGateEffect (pair : Fin 128)
  /-- CROWN_WAKE: A waking crown domain is powered and reset, returning to ON. (R342) -/
  | crownWake (pair : Fin 128)
  /-- MATRIX_STEP: The matrix engine completes one step into an accumulator. (R277) -/
  | matrixStep (core : Fin 256)
  /-- MPAIR_BOND: Two matching MPAIR halves bond and start together. (R295) -/
  | mpairBond (pair : Fin 128)
  /-- MPAIR_BOND_TIMEOUT: A fresh half that waited beyond MX.BONDTO takes MATRIX code 7. (R297) -/
  | mpairBondTimeout (w : WarpRef)
  /-- COLL_EPISODE_LOST: A REDT episode that can no longer complete raises COLLTIMEOUT. (R349) -/
  | collEpisodeLost (launch : Nat) (slot : Fin 16) (die : Fin 4)
  /-- COLL_OP_COMPLETE: A bulk collective completes, writing STATUS and advancing its counter. (R356) -/
  | collOpComplete (op : Nat)
  /-- COLL_SILENCE_TIMEOUT: A collective with no data for COLL.TMO ends with code 11. (R356) -/
  | collSilenceTimeout (op : Nat)
  /-- NOP_RECORD: A NOP record completes once its dependences allow. (R363) -/
  | nopRecord (q : QueueRef)
  /-- KERNEL_RECORD: A kernel record is taken, checked and made pending. (R365) -/
  | kernelRecord (q : QueueRef)
  /-- ADMIT_RECORD: An admission runs the structural pass and writes the status area. (R140) -/
  | admitRecord (q : QueueRef)
  /-- WITHDRAW_RECORD: A withdrawal request for a code object is taken. (R141) -/
  | withdrawRecord (q : QueueRef)
  /-- WITHDRAWAL_COMPLETE: A withdrawal completes when no warp of its launches remains. (R141) -/
  | withdrawalComplete (op : Nat)
  /-- UNKNOWN_RECORD: A record of unknown KIND completes at once as BADRECORD. (R363) -/
  | unknownRecord (q : QueueRef)
  /-- PLACEMENT_PASS: A die's dispatch engine places or refuses pending units. (R376) -/
  | placementPass (die : Fin 4)
  /-- LINK_WINDOW_END: At each 10 µs window end link shares decide hold-backs. (R380) -/
  | linkWindowEnd
  /-- RUN_SHARE_WINDOW_END: A core's run-share window ends and counts reset. (R384) -/
  | runShareWindowEnd (core : Fin 256)
  /-- REFRESH_CHARGE: Each 10 µs window charges vault refresh cost to resident launches. (R375) -/
  | refreshCharge (die : Fin 4)
  /-- GOVERNOR_SAMPLE: The ling governor samples vault temperatures and sets multipliers. (R434) -/
  | governorSample (die : Fin 4)
  /-- FORCED_SAVE: PRE.TMO expires and untaken warps are taken by a full save. (R401) -/
  | forcedSave (unit : Nat)
  /-- CONTEXT_SAVE: Once all warps are taken and engines drained the record is written and resources released. (R402) -/
  | contextSave (unit : Nat)
  /-- VAULT_SCRUB_ERROR: Background scrub finds an uncorrectable error and reports it. (R424) -/
  | vaultScrubError (die : Fin 4) (vault : Fin 16)
  /-- DIE_READY: A reset die reports ready and serves its homes again. (R426) -/
  | dieReady (die : Fin 4)
  /-- LINK_DOWN: A link undeliverable 5 µs after retraining is declared down. (R440) -/
  | linkDown (k : Fin 4)
  /-- LINK_UP: A retrained link comes up and default routes resume. (R440) -/
  | linkUp (k : Fin 4)
  /-- SCALEUP_PORT_DOWN: A scale-up port is declared down and its flits resent on another port. (R443) -/
  | scaleupPortDown (die : Fin 4) (port : Fin 32)
  /-- SCALEUP_PORT_UP: A scale-up port retrains and comes up. (R442) -/
  | scaleupPortUp (die : Fin 4) (port : Fin 32) (peerPkg : BitVec 12) (peerPort : BitVec 7) (rev : Bool)
  /-- BAR_READ: A host read through a virtual function's BAR. (R449) -/
  | barRead (vi : Fin 64) (off : BitVec 40) (n : Nat)
  /-- BAR_WRITE: A host posted write through a virtual function's BAR. (R449) -/
  | barWrite (vi : Fin 64) (off : BitVec 40) (bytes : List Byte)
  /-- MQTAIL: A write of MQTAIL makes the device take management records. (R450) -/
  | mqtail (fn : Fin 65) (v : W64)
  /-- RECOVER: Writing DOORBELL.RECOVER pushes a recovery image and record. (R452) -/
  | recover (fn : Fin 65)
  /-- CAPABILITY_WRITE: A host write of a capability field without behaviour of its own. (R448) -/
  | capabilityWrite (fn : Fin 65) (f : CapField) (v : W64)
  /-- PACKAGE_RESET: Package reset boots and verifies firmware and configuration. (R452) -/
  | packageReset
  /-- VICONFIG: Configures a virtual interface's grants. (R454) -/
  | viconfig (fn : Fin 65) (r : Rec256)
  /-- PARTITION: Sets up a partition of a virtual interface. (R359) -/
  | partition (fn : Fin 65) (r : Rec256)
  /-- ASCREATE: Creates an address space and optionally binds the BAR. (R454) -/
  | ascreate (fn : Fin 65) (r : Rec256)
  /-- ASDESTROY: Destroys an address space after killing its launches. (R454) -/
  | asdestroy (fn : Fin 65) (r : Rec256)
  /-- QREG: Registers a launch queue. (R360) -/
  | qreg (fn : Fin 65) (r : Rec256)
  /-- QUNREG: Unregisters a launch queue. (R454) -/
  | qunreg (fn : Fin 65) (r : Rec256)
  /-- SETREG: Writes one field marked set by management. (R454) -/
  | setreg (fn : Fin 65) (r : Rec256)
  /-- FIFOGRANT: Grants or revokes a FIFO-grant index to a bank. (R454) -/
  | fifogrant (fn : Fin 65) (r : Rec256)
  /-- SAVE: Management record requesting the save of a unit. (R396) -/
  | save (fn : Fin 65) (r : Rec256)
  /-- KILL: Ends a launch with KILLED. (R454) -/
  | kill (fn : Fin 65) (r : Rec256)
  /-- DIERESET: Management record requesting a die reset. (R426) -/
  | diereset (fn : Fin 65) (r : Rec256)
  /-- GATE: Management gate request on a crown core. (R341) -/
  | gate (fn : Fin 65) (r : Rec256)
  /-- SUBSCRIBE: Sets or cancels a notify-word subscription. (R457) -/
  | subscribe (fn : Fin 65) (r : Rec256)
  /-- ATTEST: Writes a signed attestation report. (R459) -/
  | attest (fn : Fin 65) (r : Rec256)
  /-- DEBUG: Resumes or kills a fragment stopped by BRK. (R454) -/
  | debug (fn : Fin 65) (r : Rec256)
  /-- CKPTWIN: Sets the host checkpoint window and clears its MAGIC. (R461) -/
  | ckptwin (fn : Fin 65) (r : Rec256)
  /-- FABRIC: Sets the fabric identifier and a route mask. (R444) -/
  | fabric (fn : Fin 65) (r : Rec256)
  /-- UPDATE: Verifies and writes a new image or record to flash. (R454) -/
  | update (fn : Fin 65) (r : Rec256)
  /-- NOTIFY_SAMPLE: A subscribed metric is sampled and the notify word written on a change. (R457) -/
  | notifySample (slot : Fin 64) (vi : Fin 65)
  /-- SUPPLY_LOSS_WARNING: A warning held for 1 µs runs the checkpoint sequencer. (R460) -/
  | supplyLossWarning
  /-- ILLEGAL_ENCODING: A fetched word that is no instruction (an unassigned major, short opcode 0x1D–0x1F, a continuation fetched as a first word, a non-pair at slot 1) issues and raises ILLEGAL in every lane of the fragment. (R125) -/
  | illegalEncoding
  /-- PCI_EXPRESS_LINK_UP: The PCI Express port completes training, sets BASIC bit 0 of the ready block and writes a READY event. (R451) -/
  | pciExpressLinkUp
  /-- PCI_EXPRESS_LINK_DOWN: The PCI Express link is lost, and BASIC bit 0 of the ready block clears. (R451) -/
  | pciExpressLinkDown
  deriving DecidableEq, Repr

end Sys2Proof
end

