-- ==== Sys2Proof/Machine/Types.lean ====
section
/-!
DEFINITION. Properties of the types (R49, R50, R109), the code tables of the shared fields (R58, R81, R82, R109)
and the numbers of the system registers (R175, R264, R304, R327, R344, R357, R393, R411, R436, R447, R463).
-/

namespace Sys2Proof

/-- Width in bits of a type (R49, R50, R53, R54). -/
def Ty.width : Ty → Nat
  | .i8 | .n8 | .e4m3 | .e5m2 | .si8 => 8
  | .i16 | .n16 | .f16 | .bf16 => 16
  | .i32 | .n32 | .f32 => 32
  | .i64 | .n64 | .f64 => 64
  | .t2 => 2

/-- I types (R49). -/
def Ty.isSigned : Ty → Bool
  | .i8 | .i16 | .i32 | .i64 => true
  | _ => false

/-- I and N types (R49). -/
def Ty.isInt : Ty → Bool
  | .i8 | .i16 | .i32 | .i64 | .n8 | .n16 | .n32 | .n64 => true
  | _ => false

/-- F16, BF16, F32, F64: the floating-point types of arithmetic (R179). -/
def Ty.isFloat : Ty → Bool
  | .f16 | .bf16 | .f32 | .f64 => true
  | _ => false

/-- E4M3 and E5M2. -/
def Ty.isFp8 : Ty → Bool
  | .e4m3 | .e5m2 => true
  | _ => false

/-- I32, I64, N32, N64. -/
def Ty.isWord : Ty → Bool
  | .i32 | .i64 | .n32 | .n64 => true
  | _ => false

/-- A 64-bit operand, held in an even/odd pair (R55, R108). -/
def Ty.is64 (t : Ty) : Bool := t.width == 64

/-- Codes of R109. -/
def Ty.code : Ty → Nat
  | .i8 => 0 | .i16 => 1 | .i32 => 2 | .i64 => 3 | .n8 => 4 | .n16 => 5 | .n32 => 6 | .n64 => 7
  | .f16 => 8 | .bf16 => 9 | .f32 => 10 | .f64 => 11 | .e4m3 => 12 | .e5m2 => 13 | .si8 => 14 | .t2 => 15

/-- R109, the other way. Every 4-bit code names a type. -/
def Ty.ofCode : Nat → Ty
  | 0 => .i8 | 1 => .i16 | 2 => .i32 | 3 => .i64 | 4 => .n8 | 5 => .n16 | 6 => .n32 | 7 => .n64
  | 8 => .f16 | 9 => .bf16 | 10 => .f32 | 11 => .f64 | 12 => .e4m3 | 13 => .e5m2 | 14 => .si8 | _ => .t2

/-- Codes of R58. -/
def Rm.code : Rm → Nat
  | .rne => 0 | .rtz => 1 | .rup => 2 | .rdn => 3 | .odd => 4

/-- R58: 0b101 to 0b111 name no attribute. -/
def Rm.ofCode : Nat → Option Rm
  | 0 => some .rne | 1 => some .rtz | 2 => some .rup | 3 => some .rdn | 4 => some .odd | _ => none

/-- Codes of R81. -/
def Scope.code : Scope → Nat
  | .warp => 0 | .block => 1 | .gang => 2 | .die => 3 | .package => 4 | .system => 5

/-- R81: 0b110 and 0b111 name no scope. -/
def Scope.ofCode : Nat → Option Scope
  | 0 => some .warp | 1 => some .block | 2 => some .gang | 3 => some .die | 4 => some .package
  | 5 => some .system | _ => none

/-- Codes of R82. -/
def Ord.code : Ord → Nat
  | .rlx => 0 | .acq => 1 | .rel => 2 | .ar => 3

/-- R82. -/
def Ord.ofCode : Nat → Ord
  | 0 => .rlx | 1 => .acq | 2 => .rel | _ => .ar

/-- Codes of R194. -/
def Cond.code : Cond → Nat
  | .eq => 0 | .ne => 1 | .lt => 2 | .le => 3 | .gt => 4 | .ge => 5 | .ord => 6 | .unord => 7

/-- R194. -/
def Cond.ofCode : Nat → Cond
  | 0 => .eq | 1 => .ne | 2 => .lt | 3 => .le | 4 => .gt | 5 => .ge | 6 => .ord | _ => .unord

/-- Codes of R129. -/
def ScmpCond.code : ScmpCond → Nat
  | .eq => 0 | .ne => 1 | .lt => 2 | .le => 3 | .gt => 4 | .ge => 5 | .ltu => 6 | .geu => 7

/-- R129. -/
def ScmpCond.ofCode : Nat → ScmpCond
  | 0 => .eq | 1 => .ne | 2 => .lt | 3 => .le | 4 => .gt | 5 => .ge | 6 => .ltu | _ => .geu

/-- MINOR of XFN (R199). -/
def Xf.code : Xf → Nat
  | .rcp => 0 | .rsqrt => 1 | .sqrt => 2 | .exp2 => 3 | .log2 => 4 | .sinpi => 5 | .cospi => 6
  | .tanh => 7 | .tos24 => 8

/-- R199: 9 to 63 are ILLEGAL. -/
def Xf.ofCode : Nat → Option Xf
  | 0 => some .rcp | 1 => some .rsqrt | 2 => some .sqrt | 3 => some .exp2 | 4 => some .log2
  | 5 => some .sinpi | 6 => some .cospi | 7 => some .tanh | 8 => some .tos24 | _ => none

/-- SATM (R196). -/
def Sat.code : Sat → Nat
  | .dflt => 0 | .sat => 1 | .nsat => 2

/-- R196: 0b11 is ILLEGAL. -/
def Sat.ofCode : Nat → Option Sat
  | 0 => some .dflt | 1 => some .sat | 2 => some .nsat | _ => none

/-- OP of REDUCE, SCAN, REDT, DBAR, XBAR (R230, R348). -/
def RedOp.code : RedOp → Nat
  | .add => 0 | .min => 1 | .max => 2 | .and => 3 | .or => 4 | .xor => 5 | .mini => 6 | .maxi => 7

/-- R230. -/
def RedOp.ofCode : Nat → RedOp
  | 0 => .add | 1 => .min | 2 => .max | 3 => .and | 4 => .or | 5 => .xor | 6 => .mini | _ => .maxi

/-- The six operations of SCAN, REDT and the value barriers (R232, R348, R350). -/
def RedOp.plain : RedOp → Bool
  | .mini | .maxi => false
  | _ => true

/-- MODE of SHFL (R229). -/
def ShflMode.code : ShflMode → Nat
  | .idx => 0 | .up => 1 | .down => 2 | .xor => 3

/-- R229. -/
def ShflMode.ofCode : Nat → ShflMode
  | 0 => .idx | 1 => .up | 2 => .down | _ => .xor

/-- TY of the value barriers (R350). -/
def BarTy.code : BarTy → Nat
  | .i64 => 0 | .n64 => 1 | .f64 => 2

/-- R350: 3 is ILLEGAL. -/
def BarTy.ofCode : Nat → Option BarTy
  | 0 => some .i64 | 1 => some .n64 | 2 => some .f64 | _ => none

/-- The 64-bit type of a value barrier (R350, R351). -/
def BarTy.ty : BarTy → Ty
  | .i64 => .i64 | .n64 => .n64 | .f64 => .f64

/-- Kind of a system register (R175). -/
inductive SregKind where
  | perLane
  | fragment
  | uniform
  deriving DecidableEq, Repr

/-- Width, kind and whether some field is writable. -/
structure SregInfo where
  wide : Bool
  kind : SregKind
  writable : Bool
  deriving DecidableEq, Repr

/-- The system register numbers that some chapter assigns (R175 and the chapters' own tables); none for a
number that raises ILLEGAL. Writable registers are FPSTAT, FPEN, FPTRIG, LRATIO, FOLD.STAT, FOLD.CTL,
TRAP.CAUSE, TRAP.VEC and MX.STAT; every field of every other register is RO. -/
def sregInfo (r : BitVec 12) : Option SregInfo :=
  let n := r.toNat
  let ro32 := some ⟨false, .uniform, false⟩
  let ro64 := some ⟨true, .uniform, false⟩
  let rw32 := some ⟨false, .uniform, true⟩
  if n = 0x000 then some ⟨false, .perLane, false⟩
  else if n ≤ 0x005 then ro32
  else if n ≤ 0x007 then some ⟨false, .fragment, false⟩
  else if n ≤ 0x00B then ro32
  else if n = 0x00C then ro64
  else if 0x010 ≤ n ∧ n ≤ 0x012 then rw32
  else if n = 0x018 then ro32
  else if n = 0x020 then rw32
  else if n = 0x028 ∨ n = 0x029 then rw32
  else if n = 0x040 then some ⟨true, .fragment, true⟩
  else if n = 0x041 then some ⟨true, .uniform, true⟩
  else if n = 0x042 then some ⟨true, .fragment, false⟩
  else if n = 0x043 ∨ n = 0x044 then some ⟨false, .fragment, false⟩
  else if n = 0x045 then some ⟨true, .fragment, false⟩
  else if 0x048 ≤ n ∧ n ≤ 0x04F then some ⟨true, .fragment, false⟩
  else if 0x050 ≤ n ∧ n ≤ 0x057 then some ⟨false, .fragment, false⟩
  else if n = 0x058 then some ⟨true, .perLane, false⟩
  else if 0x100 ≤ n ∧ n ≤ 0x10F then ro64
  else if 0x110 ≤ n ∧ n ≤ 0x112 then ro32
  else if 0x118 ≤ n ∧ n ≤ 0x123 then ro32
  else if 0x200 ≤ n ∧ n ≤ 0x20F then ro32
  else if n = 0x210 then rw32
  else if 0x211 ≤ n ∧ n ≤ 0x214 then ro64
  else if 0x218 ≤ n ∧ n ≤ 0x21D then ro64
  else if n = 0x220 then ro32
  else if 0x300 ≤ n ∧ n ≤ 0x343 then ro64
  else if n = 0x344 then ro32
  else if n = 0x380 ∨ n = 0x381 then ro32
  else if n = 0x400 ∨ n = 0x401 then ro64
  else if n = 0x402 ∨ n = 0x403 then ro32
  else if n = 0x404 then ro64
  else if 0x410 ≤ n ∧ n ≤ 0x41F then ro64
  else if n = 0x480 ∨ n = 0x481 then ro64
  else if n = 0x482 ∨ n = 0x483 then ro32
  else if n = 0x484 ∨ n = 0x485 then ro64
  else if n = 0x486 ∨ n = 0x487 then ro32
  else if n = 0x500 ∨ n = 0x501 then ro32
  else if 0x600 ≤ n ∧ n ≤ 0x602 then ro32
  else if 0x610 ≤ n ∧ n ≤ 0x61F then ro32
  else if n = 0x700 ∨ n = 0x701 then ro32
  else if 0x702 ≤ n ∧ n ≤ 0x706 then ro64
  else if 0x710 ≤ n ∧ n ≤ 0x72F then ro32
  else if n = 0x800 ∨ n = 0x801 then ro32
  else none

end Sys2Proof
end

