-- ==== Sys2Proof/Machine/State.lean ====
section
/-!
DEFINITION. The state of the machine: plain data, everything the spec names (INVENTORY.md lists each piece with its
rule and its reset value), and the state after reset.
-/

namespace Sys2Proof.Machine

open Sys2Proof

/-- Why the machine stops. -/
inductive Fault where
  /-- Raised by the meaning of an instruction of a fragment when the cursor of State names no resident fragment:
  an instruction executes only in a fragment (R33). Safe: no step ends so, since the step sets the cursor to the
  fragment it issues from, and a move of the agenda that names an instruction of a fragment without a cursor changes
  nothing. -/
  | noFragment
  deriving DecidableEq, Repr

/-- Why an instruction has no meaning. -/
inductive Refusal where
  /-- Raised by an arm of Dispatch.lean for an instruction not modelled. Safe. -/
  | notModelled (mnemonic : String)
  deriving DecidableEq, Repr

/-! ### Fragments (R33, R163, R171) -/

/-- A strand PC with its live bit. -/
structure StrandPC where
  live : Bool
  pos : Pos
  deriving DecidableEq, Repr

/-- Predicate-block record (R33, R174): the first covered position is the fence PC. -/
structure PblkRec where
  value : Mask
  pat : BitVec 8
  cntM1 : Fin 8
  deriving DecidableEq, Repr

/-- What a stop on a cause leaves for TRAP.LANES, TRAP.INFO and FAULT.ADDR (R169, R174); `write` and `fetch` are for a NESTED record
(R170). -/
structure StopInfo where
  lanes : Mask
  code : BitVec 16
  first : BitVec 8
  meet : Bool
  strand : Fin 8
  addr : Lanes W64
  write : Bool
  fetch : Bool
  deriving DecidableEq, Repr

/-- The trap frame (R171, R174). -/
structure Frame where
  fence : Pos
  pcv : Vector StrandPC 8
  done : Vector Mask 8
  pblk : Option PblkRec
  info : StopInfo
  deriving DecidableEq, Repr

/-- A barrier (R256, R257, R350). Units are named by the model's identities. -/
inductive BarKey where
  | block (blk : Nat)
  | gang (gng : Nat)
  | die (lvl : Nat)
  | grid (launch : Nat)
  | named (blk : Nat) (i : Fin 128)
  deriving DecidableEq, Repr

/-- A context of the copy, the collective or the dispatch engine (R310, R353, R360). -/
inductive CtxName where
  | copy (gang : Nat)
  | coll (launch : Nat) (die : Fin 4)
  | queue (vi q : Nat)
  deriving DecidableEq, Repr

/-- What a waiting fragment waits for (R37). -/
inductive Wait where
  /-- R212. -/
  | join (j : Fin 8)
  /-- R215, at the position of the fence PC. -/
  | convergent
  /-- R259: a SYNC or WAIT form; released when episode `ep` of the barrier has released, to the position after it. -/
  | barrier (k : BarKey) (ep : Nat) (after : Pos)
  /-- R261: released by an episode, its swath not yet reached. -/
  | swath (due : Nat) (after : Pos)
  /-- R254: the active lanes, those satisfied so far with the value each observed, and the time since which a lane's home is out of
  reach. -/
  | waita (act sat : Mask) (obs : Lanes W64) (since : Lanes (Option Nat))
  /-- R348: an arrival at a REDT group made, its episode not complete; released to the position after it. -/
  | episode (id : Nat) (after : Pos)
  /-- R336: a pop waiting at the vertical FIFO, with the clock at which it reached the engine. -/
  | vertical (order : Nat)
  /-- R296: a half of an MPAIR without its bond; its dispatched instructions of other strands go on. -/
  | bond
  /-- R325: a TLWAIT on the context its handle named, with its value and destination, and the position after it. -/
  | timeline (ctx : CtxName) (value : W64) (dest : Fin 32) (after : Pos)
  /-- R245, R246: a BANKMODE on a bank, with the clock at which it reached the bank; its switch has begun. -/
  | switch (bank : Fin 12) (order : Nat) (begun : Bool)
  /-- A meeting instruction whose wait is re-examined: timeline, tag, barrier object, matrix, vertical FIFO,
  range acknowledgement, memory; from a time on, and since when a home that it reads has been out of reach. -/
  | retry (since : Nat) (out : Option Nat)
  deriving DecidableEq, Repr

/-- States of a fragment that is resident (R37); deferred lanes stand on the deferred-side stack, retired ones
nowhere. -/
inductive Status where
  | ready
  | waiting (w : Wait)
  | parked
  | stopped
  deriving DecidableEq, Repr

/-- The parent of a split (R33, R214). -/
structure Origin where
  uid : Nat
  entry : BitVec 9
  byFault : Bool
  deriving DecidableEq, Repr

/-- The outcome of one lane's access: a value with the status flags of an ATOM, or a cause. -/
inductive Answer where
  | value (v : W64) (flags : Nat)
  | cause (bit : Nat) (addr : W64)
  deriving DecidableEq, Repr

/-- What has come back of one part of a lane's access: a misaligned access has `count` of them, one for each byte (R80). -/
structure Part where
  lane : Fin 32
  idx : Nat
  count : Nat
  ans : Answer
  deriving DecidableEq, Repr

/-- A strand instruction that is dispatched and not complete (R150, R155). `lanes` are the lanes it executes in once
the cover and the done mask have narrowed the fragment's, `covered` says that a PBLK covers it, `flight` those whose access is under way, `answers` what
has come back, `parts` what has come back of lanes whose access is not complete, `since` when a home out of reach was first asked. -/
structure Pend where
  seq : Nat
  pos : Pos
  next : Pos
  instr : Instr
  lanes : Mask
  covered : Bool
  flight : Mask
  answers : List (Fin 32 × Answer)
  parts : List Part
  since : Option Nat
  deriving DecidableEq, Repr

/-- A fault-ring record that is due and not yet written (R170). -/
structure DueRecord where
  vaddr : W64
  lanes : Mask
  done : Mask
  cause : BitVec 8
  strand : BitVec 8
  flags : BitVec 8
  deriving DecidableEq, Repr

/-- A cause of an STNT, reported at the next DRAIN or EXIT (R92). -/
structure StntFault where
  lane : Fin 32
  bit : Nat
  addr : W64
  deriving DecidableEq, Repr

/-- A resident fragment (R33). `entry` is FRAG.ID.ENTRY; `links` names the fragments that it was split from by a lane
fault (R214; more than one after a merge, R213). -/
structure Fragment where
  uid : Nat
  entry : BitVec 9
  lanes : Mask
  status : Status
  fetchPC : Pos
  fencePC : Pos
  strands : Vector StrandPC 8
  done : Vector Mask 8
  pblk : Option PblkRec
  covIdx : Nat
  causes : W64
  origin : Option Origin
  links : List Nat
  handler : Bool
  frame : Frame
  info : StopInfo
  trapPending : Bool
  arrivedAt : Nat
  pend : List Pend
  runLen : Nat
  age : Nat
  due : List DueRecord
  ringSeq : Option W64
  lostAcks : Lanes (Option W64)
  stntFaults : List StntFault
  noEntrySince : Nat
  deriving DecidableEq, Repr

/-- A record of the deferred-side stack (R163), with what its lanes have still to raise (R92, R100). -/
structure Deferred where
  lanes : Mask
  pc : Pos
  origin : Origin
  lostAcks : Lanes (Option W64)
  stntFaults : List StntFault
  deriving DecidableEq, Repr

/-! ### Warps, blocks, gangs, die levels -/

/-- Rejoin register (R159). -/
structure Rejoin where
  jpc : Pos
  arrived : Mask
  member : Mask
  deriving DecidableEq, Repr

/-- An accumulator in tile mode (R151, R278): its slot, 32 x 32 F32 columns, and its row values. -/
structure TileAcc where
  slot : Fin 16
  cols : Vector (Lanes W32) 32
  deriving DecidableEq, Repr

/-- An accumulator: 64 bits per lane (vector value, or row value in tile mode) and tile mode. -/
structure Acc where
  val : Lanes W64
  tile : Option TileAcc
  deriving DecidableEq, Repr

/-- The MLOOP record of a warp (R291, R304). `partner` is the model's: the block in its gang and the warp in that block that
hold the half an MPAIR has bonded with (R297). -/
structure LoopRec where
  valid : Bool
  paired : Bool
  acc : Fin 8
  step : Nat
  pos : Pos
  aAddr : W64
  bAddr : W64
  inc : W64
  cnt : W64
  partner : Option (Nat × Nat)
  deriving DecidableEq, Repr

/-- A resident warp with its registers (R154) and everything the spec keeps per warp. -/
structure Warp where
  core : Nat
  slot : Nat
  block : Nat
  inBlock : Nat
  g : Vector (Lanes W32) 64
  s : Vector W64 32
  p : Vector Mask 8
  gPresent : Vector Mask 64
  sPresent : BitVec 32
  pPresent : Vector Mask 8
  j : Vector Rejoin 8
  acc : Vector Acc 8
  retired : Mask
  returns : List (BitVec 55)
  deferred : List Deferred
  frags : List Fragment
  fpstat : W32
  fpen : W32
  fptrig : W32
  trapVec : W64
  foldCtl : W32
  exh : Bool
  loop : LoopRec
  mxStat : W32
  mxSteps : W64
  mxAudCfg : W64
  mxAudRing : W64
  mxAudSeq : W64
  copyLast : W64
  collLast : W64
  preTaken : Bool
  preMaps : Option (W64 × W64)
  preFull : Bool
  nextUid : Nat
  deriving DecidableEq, Repr

/-- A block resident on a core: its window table (R238), the number of its named barriers (R257), its tiles in the order
of their names (R270), the number of its copy tags (R319). -/
structure Block where
  id : Nat
  gang : Nat
  core : Nat
  inGang : Nat
  nWarps : Nat
  windows : Vector W64 16
  named : Nat
  tiles : List (Fin 16)
  tags : Nat
  retiredWarps : Nat
  deriving DecidableEq, Repr

/-- A gang resident on a core group (R25, R29). -/
structure Gang where
  id : Nat
  level : Nat
  cg : Nat
  index : Nat
  order : Nat
  nBlocks : Nat
  retiredBlocks : Nat
  succ : Bool
  deriving DecidableEq, Repr

/-- A die level: the gangs of one launch on one die, with the die pool's bytes (R30, R32) and the group slots
(R347). -/
structure DieLevel where
  id : Nat
  launch : Nat
  die : Fin 4
  placedGangs : Nat
  liveGangs : Nat
  pool : List Host.Cell
  groups : Vector W64 16
  deriving DecidableEq, Repr

/-! ### Barriers (R256-R261, R350) -/

/-- One warp at a barrier: lanes arrived in the current episode, lanes whose ARRIVE is not yet followed by a WAIT with
the episode of that arrival, and whether the warp counts as arrived. -/
structure BarWarp where
  core : Nat
  slot : Nat
  arrived : Mask
  owed : Mask
  ep : Nat
  done : Bool
  deriving DecidableEq, Repr

/-- A barrier. `episode` counts the episodes released; `count` is the COUNT of a named barrier's open episode. -/
structure Barrier where
  key : BarKey
  episode : Nat
  count : Option Nat
  warps : List BarWarp
  deriving DecidableEq, Repr

/-! ### Core resources -/

/-- Modes of an SRAM bank (R243). -/
inductive BankMode where
  | cache
  | scratch
  | fifo
  deriving DecidableEq, Repr

/-- Who holds a bank (R243). -/
inductive Holder where
  | block (id : Nat)
  | grant (vi : Nat) (index : Nat)
  deriving DecidableEq, Repr

/-- A FIFO access that waits at a bank (R247): the fragment and the position of its instruction, its lanes, and in ascending order
of the lanes the words of a push (none for a pop) and their addresses. -/
structure FifoWait where
  frag : FragRef
  pos : Pos
  lanes : Mask
  push : Option (List W32)
  addrs : List W64
  deriving DecidableEq, Repr

/-- An SRAM bank: mode, holder, SCRATCH bytes, FIFO words (oldest first) with the place in the bank of the oldest, waiting pushes and
pops in the order in which they reached the bank, and the mode and holder that a switch under way leads to (R246). -/
structure Bank where
  mode : BankMode
  holder : Option Holder
  data : List Host.Cell
  fifo : List W32
  head : Nat
  pushes : List FifoWait
  pops : List FifoWait
  switching : Option (BankMode × Option Holder)
  deriving DecidableEq, Repr

/-- A tile register of a core: TILE.CTL, content (4,096 bytes as 32 lines of 1,024 bits) and side area (64 words)
(R270, R271). -/
structure Tile where
  ctl : W32
  content : Vector (BitVec 1024) 32
  side : Vector W32 64
  deriving DecidableEq, Repr

/-- A core. `running` is the fragment in the middle of a run (slot, uid). -/
structure Core where
  banks : Vector Bank 12
  tiles : Vector Tile 16
  running : Option (Nat × Nat)
  deriving DecidableEq, Repr

/-- The change of ratio under way (R161). -/
inductive LrPhase where
  | drain
  | relock (due : Nat)
  deriving DecidableEq, Repr

/-- A word in a code store, tagged by address space and word address (R148). -/
structure CodeWord where
  asid : Nat
  wa : Nat
  word : W32
  deriving DecidableEq, Repr

/-- A core group: LRATIO (R160; GRANT stands with the partition), its change, BAR.SLOPE (R261), MX.BONDTO, and the code
store. -/
structure CoreGroup where
  cap : BitVec 2
  req : BitVec 2
  cur : BitVec 2
  phase : Option LrPhase
  slope : W32
  bondTo : W32
  store : List CodeWord
  deriving DecidableEq, Repr

/-! ### Memory -/

/-- Another value of an indeterminate byte (R98): its address, and the lost store with which it goes together. -/
structure Alt where
  pa : Nat
  byte : Byte
  tag : Nat
  deriving DecidableEq, Repr

/-- The device's memory: current bytes by package physical address; `dirty` holds, for each byte written since its line
was last written back, what its vault or share holds (R419, R426), with the address space of the line's tag;
`poison` lists the 32-byte units with an uncorrectable error (R424); `indet` the other values that reads of indeterminate locations
may return (R98); `watch` those that the loss of a performed store's acknowledgement would leave, by the store's request. -/
structure Memory where
  cells : List Host.Cell
  dirty : List (Nat × Byte × Nat)
  poison : List Nat
  indet : List Alt
  watch : List (Nat × Alt)
  deriving DecidableEq, Repr

/-- A forwarded .E value: a byte that the issuing die reads before its global point (R422); a dropped one is not read
(R426). -/
structure Forward where
  dropped : Bool
  req : Nat
  die : Fin 4
  pa : Nat
  byte : Byte
  deriving DecidableEq, Repr

/-- A cached translation with the permissions captured (R95, R416). -/
structure TcEntry where
  asid : Nat
  page : Nat
  e2 : W64
  pte : W64
  deriving DecidableEq, Repr

/-- A region entry held by a core group's region cache (R414). -/
structure RegionEntry where
  cg : Fin 64
  asid : Nat
  region : Nat
  e2 : W64
  deriving DecidableEq, Repr

/-- Kinds of access at a home (R415). -/
inductive AccKind where
  | load
  | store
  | storeE
  | stnt
  | atom (op : BitVec 4) (t : Ty)
  deriving DecidableEq, Repr

/-- Where a request stands. -/
inductive ReqPhase where
  /-- Issued, not performed at its home. -/
  | issued
  /-- An .E store past its die point, its global point to come (R83). -/
  | accepted
  /-- Performed, the answer on its way. -/
  | performed (a : Answer)
  /-- An .E store past its global point, the acknowledgement on its way. -/
  | global
  deriving DecidableEq, Repr

/-- A request of one lane in flight (R85, R97). `pos` is its instruction's position, `idx` and `count` say which part of the lane's
access it is (R80), `readers` which lanes have read the value of an .E store on the issuing die (core, slot, lanes; R87); `answered`
says that the lane has its answer and only the global point is still to come, `lost` that its message was discarded (R440). -/
structure Req where
  id : Nat
  frag : FragRef
  pos : Pos
  lane : Fin 32
  kind : AccKind
  asid : Nat
  va : W64
  size : Nat
  data : W64
  remote : Bool
  lost : Bool
  phase : ReqPhase
  idx : Nat
  count : Nat
  readers : List (Nat × Nat × Mask)
  answered : Bool
  issuedAt : Nat
  acceptedAt : Nat
  deriving DecidableEq, Repr

/-! ### The model's scheduling input (log 2) -/

/-- Choices of the memory path for one issue: `defer` leaves accesses in flight, `stale` uses a cached translation
where there is one (R95). -/
structure Choice where
  defer : Bool
  stale : Bool
  deriving DecidableEq, Repr

/-- What moves next: a core issues, an event of the device happens, time passes, or the world outside acts. -/
inductive Move where
  | core (c : Fin 256) (ch : Choice)
  | event (i : Instr)
  | tick (ns : Nat)
  | hostStore (addr : Nat) (bytes : List Byte)
  | sense (metric : Nat) (object : Nat) (value : Nat)
  | poison (unit : Nat)
  deriving DecidableEq, Repr

/-- The executing fragment and the place of its instruction. `lanes` are the lanes that the cover and the done mask
leave it, `covered` says that a PBLK covers its position. -/
structure Cursor where
  core : Nat
  slot : Nat
  uid : Nat
  pos : Pos
  next : Pos
  lanes : Mask
  covered : Bool
  deriving DecidableEq, Repr

/-! ### Address spaces, interfaces, partitions, code objects -/

/-- A kernel of an admitted object: its table entry (R137) and its target bitmap, as the word offsets set (R143). -/
structure Kernel where
  first : Nat
  words : Nat
  entry : Nat
  depth : Nat
  poolMiB : Nat
  ng : Nat
  ns : Nat
  tiles : Nat
  scratch : Nat
  barriers : Nat
  targets : List Nat
  deriving DecidableEq, Repr

/-- An admitted code object (R140); `base` is its virtual byte address, `first` of a kernel counts words from the
start of the code section at `code`. `withdrawing` holds the operation of a withdrawal under way (R141). -/
structure CodeObject where
  asid : Nat
  base : Nat
  code : Nat
  codeLen : Nat
  kernels : List Kernel
  withdrawing : Option Nat
  deriving DecidableEq, Repr

/-- An address space (ASCREATE, R413, R455). `ringSeq` counts the records written to its fault ring. -/
structure AddrSpace where
  asid : Nat
  vi : Nat
  root : Nat
  ring : W64
  service : Nat
  ringSeq : Nat
  terminated : Bool
  deriving DecidableEq, Repr

/-- A partition (R359, PARTITION of R454). Core groups are the interface's logical ones, 16 bits per die. -/
structure Partition where
  index : Nat
  prioCap : Nat
  share : Nat
  preempt : Bool
  lrGrant : Bool
  debug : Bool
  poolMax : Nat
  cgs : W64
  saveBytes : Nat
  deriving DecidableEq, Repr

/-- A FIFO grant (FIFOGRANT, R238): package core and bank. -/
structure FifoGrant where
  index : Nat
  core : Nat
  bank : Fin 12
  deriving DecidableEq, Repr

/-- A notify-word subscription (R457). -/
structure Subscription where
  slot : Nat
  metric : Nat
  object : Nat
  threshold : Nat
  hyst : Nat
  word : W64
  asid : Nat
  above : Bool
  seq : Nat
  sampled : Nat
  deriving DecidableEq, Repr

/-- A PCI Express function: root page address, management queue position, event ring position, subscriptions
(R448, R450, R456). -/
structure Function where
  root : Nat
  mqTail : W64
  mqHead : Nat
  evLost : Bool
  subs : List Subscription
  ready : List Byte
  deriving DecidableEq, Repr

/-- A virtual interface (VICONFIG of R454; R449, R453). -/
structure Iface where
  vi : Nat
  enabled : Bool
  cgs : W64
  vaultBase : Nat
  vaultSize : Nat
  linkShare : Nat
  tierBase : Nat
  tierSize : Nat
  barAsid : Option Nat
  grants : List FifoGrant
  parts : List Partition
  held : Bool
  deriving DecidableEq, Repr

/-! ### Dispatch (17_dispatch_engine.md) -/

/-- A completed operation of a queue: its number, the status that PWAIT reports (R391), whether it was a kernel launch. -/
structure OpStatus where
  op : Nat
  status : Nat
  kernel : Bool
  deriving DecidableEq, Repr

/-- A launch queue (R360-R362): RING, LOG2N and DEVSUBMIT as its control block gave them at registration. `counter` is its
timeline counter; `statuses` those of the operations completed; `seen` is the TAIL up to which records are being taken (R361). -/
structure Queue where
  vi : Nat
  q : Nat
  part : Nat
  asid : Nat
  block : W64
  ring : W64
  log2n : Nat
  dev : Bool
  head : Nat
  tail : Nat
  seen : Nat
  counter : Nat
  err : Bool
  statuses : List OpStatus
  deriving DecidableEq, Repr

/-- A dependence of a record (R366): the context its handle named when the record was taken; `met` is set with the status
PWAIT reports when that context is released after the value was reached. -/
structure Dep where
  handle : W64
  ctx : CtxName
  value : Nat
  early : Bool
  met : Option Nat
  deriving DecidableEq, Repr

/-- A record taken from a queue and not completed, other than a kernel launch. -/
inductive PendingRecord where
  | nop
  | admission
  | withdraw
  deriving DecidableEq, Repr

/-- A NOP, ADMIT or WITHDRAW operation that is taken and not complete (R363, R364). -/
structure PendingOp where
  id : Nat
  queue : QueueRef
  op : Nat
  kind : PendingRecord
  deps : List (Option Dep)
  base : W64
  status : W64
  started : Bool
  deriving DecidableEq, Repr

/-- A kernel launch from the time it is taken until it completes (R363-R385). Gangs are `nGangs`; `placed` of them have
been placed and `retired` have retired; `dies` is GRID.INFO.DIES (R29, R370); `doneDies` are the logical dies whose die level has been
placed; `claim` numbers its reservation (R377). -/
structure Launch where
  id : Nat
  queue : QueueRef
  op : Nat
  asid : Nat
  part : Nat
  record : Rec256
  obj : Nat
  kernel : Nat
  depth : Nat
  poolMiB : Nat
  prio : Nat
  deps : List (Option Dep)
  nGangs : Nat
  dies : BitVec 4
  placed : Nat
  doneDies : List Nat
  retired : Nat
  eligibleAt : Option Nat
  refusals : Nat
  held : Nat
  heldBack : Bool
  tFirst : Option Nat
  refNum : Nat
  refDen : Nat
  reserved : List Nat
  claim : Nat
  ending : Option (Nat × Nat)
  deriving DecidableEq, Repr

/-- A placed unit (R370) and its save request (R396). `gangs` are the identities of its gangs. -/
structure PlacedUnit where
  id : Nat
  launch : Nat
  kind : Nat
  gangs : List Nat
  requested : Option Nat
  restores : Nat
  deriving DecidableEq, Repr

/-- Runs that a partition has issued on a core in a 10 µs window (R384). -/
structure RunCount where
  window : Nat
  core : Nat
  vi : Nat
  part : Nat
  runs : Nat
  deriving DecidableEq, Repr

/-! ### Dies, vaults, links -/

/-- HOME.VAULT (R436) and the DRAM temperature that the governor samples (R434), in °C. -/
structure Vault where
  now : Nat
  ready : Bool
  hot : Bool
  mult : Fin 4
  temp : Nat
  retRows : BitVec 8
  share : Nat
  tierBase : Nat
  tierSize : Nat
  deriving DecidableEq, Repr

/-- A scale-up port (R442-R444). -/
structure Port where
  up : Bool
  peerPkg : BitVec 12
  peerPort : BitVec 7
  rev : Bool
  deriving DecidableEq, Repr

/-- A push that waits for admission (R333, R334): its fragment, the position of its instruction, its lanes, its group. -/
structure VPush where
  frag : FragRef
  pos : Pos
  lanes : Mask
  entries : List (Lanes W32)
  deriving DecidableEq, Repr

/-- A die. `governed` and `charged` count the 10 µs windows at whose ends the governor has sampled (R434) and the refresh
cost has been charged (R375); `passed` counts the microseconds in which it has run a placement pass, and `passDue` says that
one is due sooner (R376); `temp` is the logic temperature (R457). -/
structure Die where
  governed : Nat
  charged : Nat
  passed : Nat
  passDue : Bool
  ready : Bool
  index : BitVec 2
  orient : BitVec 2
  cgMask : BitVec 16
  therm : W32
  ageCfg : W32
  preTmo : W32
  atom : W32
  vaults : Vector Vault 16
  ports : Vector Port 32
  collCfg : W32
  collTmo : W32
  temp : Nat
  deriving DecidableEq, Repr

/-! ### Copy engine (R310-R326) -/

/-- What a copy operation does (R314-R316); GATH and SCAT carry the list's address and row count. -/
inductive CopyKind where
  | copy
  | copym
  | gath (list : W64)
  | scat (list : W64)
  deriving DecidableEq, Repr

/-- A copy operation that is not complete: submitted, or performed with its landings and error. `code` 0 is no error;
`land` lists the objects it counts on with the bytes still to land on each. `windows` is the block's window table
at submission; `since` the time from which it has waited for a home out of reach; `free` says that its destination overlaps its own
source or another operation in flight, so that what it writes is undefined (R8, R317). -/
structure CopyOpn where
  id : Nat
  gang : Nat
  block : Nat
  warp : WarpRef
  num : Nat
  tag : Fin 64
  kind : CopyKind
  bo : Bool
  dst : W64
  src : W64
  desc : W64
  windows : Vector W64 16
  performed : Bool
  code : Nat
  errAddr : W64
  land : List (W64 × Nat)
  since : Option Nat
  free : Bool
  deriving DecidableEq, Repr

/-- A copy context, held by a gang (R310). `done` are the numbers completed above the counter. -/
structure CopyCtx where
  gang : Nat
  cg : Nat
  index : Nat
  submitted : Nat
  counter : Nat
  done : List Nat
  err : W64
  deriving DecidableEq, Repr

/-- A copy tag of a block (R319). -/
structure Tag where
  block : Nat
  name : Fin 64
  count : Nat
  err : W64
  deriving DecidableEq, Repr

/-! ### Collective engine (R347-R356) -/

/-- A REDT group with its open episode (R348): `span` is the die of a DIE group, none for PACKAGE; `num` counts the
episodes completed (R352); an arrival is a fragment with its destination, lanes and values. No arrivals: none open. -/
structure Episode where
  id : Nat
  launch : Nat
  slot : Fin 16
  span : Option (Fin 4)
  num : Nat
  op : RedOp
  t : Ty
  arrivals : List (FragRef × Fin 32 × Mask × Lanes W64)
  deriving DecidableEq, Repr

/-- A value barrier's open episode (R351): operation and type of its value arrivals, and for each warp whose arrival a
value form completed its contribution and its destination. -/
structure BarValues where
  key : BarKey
  op : RedOp
  ty : BarTy
  values : List W64
  dests : List (WarpRef × Fin 32)
  deriving DecidableEq, Repr

/-- A collective context: one per grid and die (R353). -/
structure CollCtx where
  launch : Nat
  die : Fin 4
  index : Nat
  submitted : Nat
  counter : Nat
  done : List Nat
  keys : List (W64 × Nat)
  deriving DecidableEq, Repr

/-- A bulk collective operation that is not complete (R354-R356). `nth` is its place among the operations of its KEY in
its context; `since` the time of its last progress; `outcome` code and flags once its data has moved; `out` the time since which a home
that it needs has been out of reach; `free` says that its SRC or DST overlaps the other or an operation in flight (R8, R355). -/
structure CollOpn where
  id : Nat
  launch : Nat
  die : Fin 4
  num : Nat
  asid : Nat
  record : BitVec 512
  addr : W64
  nth : Nat
  since : Nat
  outcome : Option (Nat × Nat)
  out : Option Nat
  free : Bool
  deriving DecidableEq, Repr

/-! ### Matrix engine (R275-R300) -/

/-- A matrix loop under way or waiting to bond (R283, R291, R295): its fragment and position, accumulator and first
tiles. `pair` says MPAIR, `bond` names the partner half it runs with; `since` is the time from which the bond timeout counts, `out`
the time since which a home that its step reads has been out of reach. Its step, addresses and count stand in the warp's record. -/
structure MatrixOp where
  frag : FragRef
  pos : Pos
  next : Pos
  acc : Fin 8
  ta : Fin 16
  tb : Fin 16
  pair : Bool
  bond : Option FragRef
  since : Nat
  out : Option Nat
  deriving DecidableEq, Repr

/-! ### Vertical exchange (R330-R342) -/

/-- GATE of VX.STAT (R332). -/
inductive Gate where
  | on
  | pending
  | gated
  | waking
  deriving DecidableEq, Repr

/-- The FIFO and gate of a vertical pair: `down` is the direction DOWN, `waits` the pushes waiting for admission,
oldest first. -/
structure Pair where
  holder : Option Nat
  down : Bool
  pgok : Bool
  fifo : List (Lanes W32)
  waits : List VPush
  gate : Gate
  deriving DecidableEq, Repr

/-! ### Range instructions, links, saved units, management -/

/-- A range operation waiting for the acknowledgement of dies (R428). -/
structure RangeOp where
  id : Nat
  frag : FragRef
  pos : Pos
  deriving DecidableEq, Repr

/-- A die-to-die link (R437, R440). -/
structure Link where
  up : Bool
  downs : Nat
  deriving DecidableEq, Repr

/-- Bytes a launch carried on one direction of one link in the last completed window (R380, R446, R447). -/
structure LinkCount where
  launch : Nat
  vi : Nat
  link : Fin 4
  dir : Bool
  last : Nat
  deriving DecidableEq, Repr

/-- LINK.BYTES of a die: CW out, CW in, CCW out, CCW in (R447). -/
structure LinkBytes where
  cwOut : Nat
  cwIn : Nat
  ccwOut : Nat
  ccwIn : Nat
  deriving DecidableEq, Repr

/-- Debug signals not yet answered (R221): the fragment and BRK's code. -/
structure DebugSignal where
  core : Nat
  slot : Nat
  entry : BitVec 9
  code : BitVec 12
  deriving DecidableEq, Repr

/-- A saved unit: its context record, with the header of R405 and the headers of its sections in their order (R406) as bytes, and what the
sections hold as data: the saved grid and die barriers, die levels, gangs, blocks and warps with what their resources held. `logical`
gives the logical number of each package die that holds part of the unit. -/
structure SavedUnit where
  header : BitVec 512
  sections : List (BitVec 128)
  logical : List (Nat × Nat)
  id : Nat
  launch : Nat
  kind : Nat
  full : Bool
  parked : Bool
  stoppedF : Bool
  nfrag : Nat
  defDepth : Nat
  tacc : Nat
  nbar : Nat
  nwarp : Nat
  ncg : Nat
  dies : BitVec 4
  time : Nat
  restores : Nat
  level : List DieLevel
  gangs : List Gang
  blocks : List Block
  warps : List Warp
  barriers : List Barrier
  barValues : List BarValues
  tags : List Tag
  ctxs : List CopyCtx
  tiles : List (Nat × Nat × Tile)
  banks : List (Nat × Fin 12 × Bank)
  fifos : List (Nat × Nat × List (Lanes W32))
  collCtxs : List CollCtx
  debugSignals : List DebugSignal
  deriving DecidableEq, Repr

/-- BOOT (R451). -/
inductive Boot where
  | booting | running | imageRefused | recordRefused | recoveryRefused | recovered | halted
  deriving DecidableEq, Repr

/-- Package-wide management state: BOOT, firmware version, REPLACE, fabric identifier and route masks (R444), the
checkpoint window (R461), metrics last sampled, second-tier capacity. The flash's images and records are named by
numbers that the opaque functions of Config interpret (log 3). -/
structure Mgmt where
  boot : Boot
  fwver : W32
  replace : Bool
  fabId : BitVec 12
  routes : List (Nat × W64 × W64)
  ckptBase : Nat
  ckptSize : Nat
  power : Nat
  flashImage : List Byte
  flashRecord : List Byte
  image : List Byte
  record : List Byte
  ackTo : Nat
  tierGB : Nat
  pciUp : Bool
  scrubbed : List Nat
  deriving DecidableEq, Repr

/-! ### The machine -/

/-- The whole device with host memory, and the model's own scheduling fields. -/
structure State where
  time : Nat
  cursor : Option Cursor
  choice : Choice
  agenda : List Move
  freeIndex : Nat
  clock : Nat
  nextId : Nat
  warps : List Warp
  blocks : List Block
  gangs : List Gang
  levels : List DieLevel
  barriers : List Barrier
  barValues : List BarValues
  episodes : List Episode
  cores : Vector Core 256
  cgs : Vector CoreGroup 64
  pairs : Vector Pair 128
  dies : Vector Die 4
  links : Vector Link 4
  linkBytes : Vector LinkBytes 4
  linkCounts : List LinkCount
  linkWindow : Nat
  linkActive : List (Nat × Nat)
  linkLast : Vector Nat 8
  mem : Memory
  hostMem : List Host.Cell
  reqs : List Req
  forwards : List Forward
  tcache : List TcEntry
  /-- Region entries that the core groups hold (R414). -/
  regions : List RegionEntry
  spaces : List AddrSpace
  objects : List CodeObject
  ifaces : List Iface
  funcs : Vector Function 65
  queues : List Queue
  pendingOps : List PendingOp
  launches : List Launch
  units : List PlacedUnit
  saved : List SavedUnit
  runCounts : List RunCount
  copyCtxs : List CopyCtx
  copyOps : List CopyOpn
  tags : List Tag
  collCtxs : List CollCtx
  collOps : List CollOpn
  matrix : List MatrixOp
  ranges : List RangeOp
  debugSignals : List DebugSignal
  barAnswer : List Byte
  mgmt : Mgmt
  deriving DecidableEq, Repr

/-! ### Reset -/

/-- An SRAM bank at core reset (R243). -/
def Bank.reset : Bank :=
  { mode := .cache, holder := none, data := [], fifo := [], head := 0, pushes := [], pops := [], switching := none }

/-- A tile at reset (R271). -/
def Tile.reset : Tile :=
  { ctl := 0, content := Vector.replicate 32 0, side := Vector.replicate 64 0 }

/-- A core at reset (R243, R342). -/
def Core.reset : Core :=
  { banks := Vector.replicate 12 Bank.reset, tiles := Vector.replicate 16 Tile.reset, running := none }

/-- A core group at reset: LRATIO by R160. CAP is set by management and starts at CUR's value; BAR.SLOPE and MX.BONDTO are
set by management and hold 0 until then (DESIGN CHOICE, log 4). -/
def CoreGroup.reset : CoreGroup :=
  { cap := 1, req := 1, cur := 1, phase := none, slope := 0, bondTo := 0, store := [] }

/-- A vertical pair at reset (R332). -/
def Pair.reset : Pair :=
  { holder := none, down := false, pgok := false, fifo := [], waits := [], gate := .on }

/-- A vault at reset (R436): the fields set by management or by the configuration record hold 0 until then
(DESIGN CHOICE, log 4). -/
def Vault.reset : Vault :=
  { now := 0, ready := false, hot := false, mult := 0, temp := 0, retRows := 0, share := 0, tierBase := 0, tierSize := 0 }

/-- A scale-up port at reset (R447). -/
def Port.reset : Port := { up := false, peerPkg := 0, peerPort := 0, rev := false }

/-- A die before it is ready. DIE.INDEX and DIE.ORIENT equal the package index (R13); DIE.CGMASK comes from the
configuration record: every core group in service (DESIGN CHOICE, log 4). -/
def Die.reset (d : Fin 4) : Die :=
  { governed := 0, charged := 0, passed := 0, passDue := false, ready := false, index := BitVec.ofNat 2 d.val, orient := BitVec.ofNat 2 d.val, cgMask := 0xFFFF#16
    therm := 0, ageCfg := 0, preTmo := 0, atom := 0, vaults := Vector.replicate 16 Vault.reset
    ports := Vector.replicate 32 Port.reset, collCfg := 0, collTmo := 0, temp := 0 }

/-- A PCI Express function before its root page is set (R448). -/
def Function.reset : Function :=
  { root := 0, mqTail := 0, mqHead := 0, evLost := false, subs := [], ready := [] }

/-- Management at package reset: booting (R451, R452). MEM.ACKTO is 2,000 where the configuration record has no entry
(R97). -/
def Mgmt.reset : Mgmt :=
  { boot := .booting, fwver := 0, replace := false, fabId := 0, routes := [], ckptBase := 0, ckptSize := 0
    power := 0, flashImage := [], flashRecord := [], image := [], record := []
    ackTo := 2000, tierGB := 0, pciUp := false, scrubbed := [] }

/-- Memory after power-on: nothing listed (log 1). -/
def Memory.reset : Memory := { cells := [], dirty := [], poison := [], indet := [], watch := [] }

/-- The machine at package reset, before its boot has verified the flash: no die is ready and nothing is resident. -/
def State.reset : State :=
  { time := 0, cursor := none, choice := { defer := false, stale := false }, agenda := [], freeIndex := 0
    clock := 0, nextId := 1, warps := [], blocks := [], gangs := [], levels := [], barriers := []
    barValues := [], episodes := []
    cores := Vector.replicate 256 Core.reset, cgs := Vector.replicate 64 CoreGroup.reset
    pairs := Vector.replicate 128 Pair.reset, dies := Vector.ofFn Die.reset
    links := Vector.replicate 4 { up := false, downs := 0 }
    linkBytes := Vector.replicate 4 { cwOut := 0, cwIn := 0, ccwOut := 0, ccwIn := 0 }, linkCounts := [], linkWindow := 0, linkActive := [], linkLast := Vector.replicate 8 0
    mem := Memory.reset, hostMem := [], reqs := [], forwards := [], tcache := [], regions := [], spaces := [], objects := []
    ifaces := [], funcs := Vector.replicate 65 Function.reset, queues := [], pendingOps := [], launches := []
    units := [], saved := [], runCounts := [], copyCtxs := [], copyOps := [], tags := [], collCtxs := []
    collOps := [], matrix := [], ranges := [], debugSignals := [], barAnswer := [], mgmt := Mgmt.reset }

end Sys2Proof.Machine
end

