-- ==== Sys2Proof/Machine/Bits.lean ====
section
/-!
DEFINITION. Bit fields, byte order (R3), lane vectors and lists: the helpers every meaning uses.
-/

namespace Sys2Proof.Machine

open Sys2Proof

/-- Bits hi:lo of a word as a number. -/
def bits {n : Nat} (x : BitVec n) (hi lo : Nat) : Nat := x.toNat / 2 ^ lo % 2 ^ (hi + 1 - lo)

/-- One bit. -/
def bit {n : Nat} (x : BitVec n) (i : Nat) : Bool := x.getLsbD i

/-- A 64-bit number. -/
def w64 (n : Nat) : W64 := BitVec.ofNat 64 n

/-- A 32-bit number. -/
def w32 (n : Nat) : W32 := BitVec.ofNat 32 n

/-- A Bool as a bit. -/
def b2n (b : Bool) : Nat := if b then 1 else 0

/-- The bytes of a number, least significant first (R3). -/
def leBytes : Nat → Nat → List Byte
  | 0, _ => []
  | n + 1, x => BitVec.ofNat 8 x :: leBytes n (x / 256)

/-- The number of little-endian bytes (R3). -/
def leNat : List Byte → Nat
  | [] => 0
  | b :: bs => b.toNat + 256 * leNat bs

/-- The lanes in ascending order. -/
def allLanes : List (Fin 32) := List.finRange 32

/-- Lane l is in the mask. -/
def inMask (m : Mask) (l : Fin 32) : Bool := m.getLsbD l.val

/-- The lanes of a mask, ascending. -/
def lanesOf (m : Mask) : List (Fin 32) := allLanes.filter (inMask m)

/-- The mask of the lanes that satisfy a test. -/
def maskOf (p : Fin 32 → Bool) : Mask :=
  BitVec.ofNat 32 (allLanes.foldr (fun l n => if p l then n + 2 ^ l.val else n) 0)

/-- The lowest-numbered lane of a mask. -/
def lowest? (m : Mask) : Option (Fin 32) := allLanes.find? (inMask m)

/-- Every lane the same value. -/
def Lanes.all {α : Type} (x : α) : Lanes α := Vector.replicate 32 x

/-- A vector from a function of the lane. -/
def Lanes.of {α : Type} (f : Fin 32 → α) : Lanes α := Vector.ofFn f

/-- Replace the value in the lanes of a mask. -/
def Lanes.update {α : Type} (v : Lanes α) (m : Mask) (f : Fin 32 → α) : Lanes α :=
  Vector.ofFn fun l => if inMask m l then f l else v[l]

/-- Number of lanes in a mask. -/
def popcount (m : Mask) : Nat := (lanesOf m).length

/-- The w-bit value x as a signed integer. -/
def sint (w x : Nat) : Int := if x < 2 ^ (w - 1) then (x : Int) else (x : Int) - (2 ^ w : Nat)

/-- An integer modulo 2^w. -/
def wrapN (w : Nat) (i : Int) : Nat := (i % ((2 ^ w : Nat) : Int)).toNat

/-- Sign-extend a w-bit value to 64 bits. -/
def sext64 (w x : Nat) : W64 := w64 (wrapN 64 (sint w (x % 2 ^ w)))

/-- The first element with its place that satisfies a test, replaced. -/
def replaceFirst {α : Type} (p : α → Bool) (f : α → α) : List α → List α
  | [] => []
  | x :: xs => if p x then f x :: xs else x :: replaceFirst p f xs

/-- Every element that satisfies a test, replaced. -/
def replaceAll {α : Type} (p : α → Bool) (f : α → α) (xs : List α) : List α :=
  xs.map fun x => if p x then f x else x

/-- Sum of a measure over a list. -/
def sumBy {α : Type} (g : α → Nat) (xs : List α) : Nat := xs.foldl (fun n x => n + g x) 0

/-- The element that is least by a key, the first of them. -/
def minBy {α : Type} (key : α → Nat) : List α → Option α
  | [] => none
  | x :: xs =>
    match minBy key xs with
    | none => some x
    | some y => if key y < key x then some y else some x

/-- The bytes of a record, byte i in bits 8i+7:8i. -/
def recBytes (r : Rec256) : List Byte := (List.range 256).map fun i => r.extractLsb' (8 * i) 8

/-- Field of bytes lo to lo+n-1 of a record, little-endian. -/
def recField (r : Rec256) (lo n : Nat) : Nat := r.toNat / 2 ^ (8 * lo) % 2 ^ (8 * n)

/-- A record from its bytes. -/
def recOfBytes (bs : List Byte) : Rec256 := BitVec.ofNat 2048 (leNat (bs.take 256))

/-- The first n bytes of a list, zero-filled. -/
def takeZ (n : Nat) (bs : List Byte) : List Byte := (bs ++ List.replicate n 0).take n

/-- Bytes to 32-bit words, little-endian; a short tail is zero-filled. -/
def bytesToWords : Nat → List Byte → List W32
  | 0, _ => []
  | n + 1, bs => w32 (leNat (bs.take 4)) :: bytesToWords n (bs.drop 4)

end Sys2Proof.Machine
end

