-- ==== Sys2Proof/Machine/Num.lean ====
section
/-!
DEFINITION. Number formats (R49-R58), the one rounding step (R57-R60), exact arithmetic on dyadic values, the
correctly rounded functions of XFN (R199, R200), conversions (R61-R64) and MatrixSum (R68). A finite value is
± m × 2^e with m a natural number; every result is formed exactly and rounded once.
-/

namespace Sys2Proof.Machine

open Sys2Proof

/-- A floating-point layout (R50): exponent bits, fraction bits, and E4M3's coding (R51). -/
structure Fmt where
  eb : Nat
  fb : Nat
  e4m3 : Bool
  deriving DecidableEq, Repr

/-- F64. -/
def fmtF64 : Fmt := ⟨11, 52, false⟩
/-- F32. -/
def fmtF32 : Fmt := ⟨8, 23, false⟩
/-- F16. -/
def fmtF16 : Fmt := ⟨5, 10, false⟩
/-- BF16. -/
def fmtBF16 : Fmt := ⟨8, 7, false⟩
/-- S24 (R52). -/
def fmtS24 : Fmt := ⟨8, 15, false⟩
/-- E5M2. -/
def fmtE5M2 : Fmt := ⟨5, 2, false⟩
/-- E4M3. -/
def fmtE4M3 : Fmt := ⟨4, 3, true⟩

/-- The layout of a floating-point type; F32 where the type is none. -/
def fmtOf : Ty → Fmt
  | .f64 => fmtF64 | .f16 => fmtF16 | .bf16 => fmtBF16 | .e4m3 => fmtE4M3 | .e5m2 => fmtE5M2
  | _ => fmtF32

/-- The types with a floating-point layout. -/
def Fmt.has (t : Ty) : Bool := t.isFloat || t.isFp8

/-- Width of a layout. -/
def Fmt.width (f : Fmt) : Nat := 1 + f.eb + f.fb
/-- Exponent bias (R50). -/
def Fmt.bias (f : Fmt) : Nat := 2 ^ (f.eb - 1) - 1
/-- Exponent of the smallest normal. -/
def Fmt.emin (f : Fmt) : Int := 1 - (f.bias : Int)
/-- Magnitude code of the largest finite value (R50, R51). -/
def Fmt.maxCode (f : Fmt) : Nat := if f.e4m3 then 0x7E else (2 ^ f.eb - 1) * 2 ^ f.fb - 1
/-- Magnitude code of infinity, of the layouts that have one. -/
def Fmt.infCode (f : Fmt) : Nat := (2 ^ f.eb - 1) * 2 ^ f.fb
/-- The canonical NaN (R56). -/
def Fmt.nan (f : Fmt) : Nat := if f.e4m3 then 0x7F else f.infCode + 2 ^ (f.fb - 1)
/-- A code with a sign. -/
def Fmt.withSign (f : Fmt) (neg : Bool) (code : Nat) : Nat := if neg then code + 2 ^ (f.eb + f.fb) else code

/-- A value: NaN (with the top fraction bit clear, or not), infinity, or ± m × 2^e. -/
inductive FVal where
  | nan (signalling : Bool)
  | inf (neg : Bool)
  | fin (neg : Bool) (m : Nat) (e : Int)
  deriving DecidableEq, Repr

/-- The value a code stands for (R50, R51). -/
def Fmt.decode (f : Fmt) (x : Nat) : FVal :=
  let neg := x / 2 ^ (f.eb + f.fb) % 2 == 1
  let ex := x / 2 ^ f.fb % 2 ^ f.eb
  let fr := x % 2 ^ f.fb
  if f.e4m3 && ex == 15 && fr == 7 then .nan false
  else if !f.e4m3 && ex == 2 ^ f.eb - 1 then
    if fr == 0 then .inf neg else .nan (fr < 2 ^ (f.fb - 1))
  else if ex == 0 then .fin neg fr (f.emin - f.fb)
  else .fin neg (fr + 2 ^ f.fb) ((ex : Int) - f.bias - f.fb)

/-- Value of a code of a floating-point type. -/
def fval (t : Ty) (x : Nat) : FVal := (fmtOf t).decode x

/-- Value of an S24 (24 bits). -/
def s24val (x : Nat) : FVal := fmtS24.decode x

/-! ### Flags (R71, R72) -/

/-- IV. -/
def fIV : Nat := 1
/-- DZ. -/
def fDZ : Nat := 2
/-- OF. -/
def fOF : Nat := 4
/-- UF. -/
def fUF : Nat := 8
/-- NX. -/
def fNX : Nat := 16
/-- OLFULL. -/
def fOLFULL : Nat := 32
/-- OLERR. -/
def fOLERR : Nat := 64

/-- A result code with the flags it raises. `beyond` says that a conversion's source is beyond range (R65). -/
structure FRes where
  bits : Nat
  flags : Nat
  beyond : Bool
  deriving DecidableEq, Repr

/-- A result without flags. -/
def FRes.plain (x : Nat) : FRes := ⟨x, 0, false⟩

/-- IV where some operand is a NaN with its top fraction bit clear (R56). -/
def sigFlag (xs : List FVal) : Nat := if xs.any (· == .nan true) then fIV else 0

/-! ### Rounding (R57-R59) -/

/-- The integer part q of a magnitude with its remainder rem / 2^sh, rounded (R58). -/
def roundUnits (rm : Rm) (neg : Bool) (q rem sh : Nat) : Nat :=
  if rem == 0 then q
  else match rm with
    | .rne => if 2 * rem > 2 ^ sh || (2 * rem == 2 ^ sh && q % 2 == 1) then q + 1 else q
    | .rtz => q
    | .rup => if neg then q else q + 1
    | .rdn => if neg then q + 1 else q
    | .odd => if q % 2 == 0 then q + 1 else q

/-- What an overflow gives (R59): saturating conversions and E4M3 as that rule says. -/
def overflowCode (f : Fmt) (rm : Rm) (neg satur : Bool) : Nat :=
  let toInf : Bool := match rm with
    | .rne => true
    | .rtz | .odd => false
    | .rup => !neg
    | .rdn => neg
  if !toInf || satur then f.withSign neg f.maxCode
  else if f.e4m3 then f.nan
  else f.withSign neg f.infCode

/-- Round ± m × 2^e to a layout (R57-R59): code and flags. -/
def roundTo (f : Fmt) (rm : Rm) (satur : Bool) (neg : Bool) (m : Nat) (e : Int) : FRes :=
  if m == 0 then .plain (f.withSign neg 0)
  else
    let ex : Int := e + (Nat.log2 m : Nat)
    let u : Int := max ex f.emin - f.fb
    let exact : Bool := u ≤ e
    let sh := (u - e).toNat
    let q0 := if exact then m * 2 ^ (e - u).toNat else m / 2 ^ sh
    let rem := if exact then 0 else m % 2 ^ sh
    let q := roundUnits rm neg q0 rem sh
    let code := (u - (f.emin - f.fb)).toNat * 2 ^ f.fb + q
    if code > f.maxCode then ⟨overflowCode f rm neg satur, fOF + fNX, true⟩
    else if rem == 0 then .plain (f.withSign neg code)
    else ⟨f.withSign neg code, fNX + (if ex < f.emin then fUF else 0), false⟩

/-- ± m × 2^e rounded to an integer, with whether a fraction was discarded (R58, R62). ODD truncates toward zero and then sets
bit 0 of the two's-complement integer where a fraction was discarded, so that −2.5 gives −1. (DEDUCED, log 44.) -/
def roundInt (rm : Rm) (neg : Bool) (m : Nat) (e : Int) : Int × Bool :=
  let signed := fun (n : Nat) => if neg then -(n : Int) else n
  if e ≥ 0 then (signed (m * 2 ^ e.toNat), false)
  else
    let sh := (-e).toNat
    let rem := m % 2 ^ sh
    let v := signed (roundUnits (if rm == .odd then .rtz else rm) neg (m / 2 ^ sh) rem sh)
    (if rm == .odd && rem != 0 && v % 2 == 0 then v + 1 else v, rem != 0)

/-! ### Exact arithmetic on finite values -/

/-- ± m × 2^e as an integer multiple of 2^e0, for e0 ≤ e. -/
def scaled (neg : Bool) (m : Nat) (e e0 : Int) : Int :=
  let v : Int := (m * 2 ^ (e - e0).toNat : Nat)
  if neg then -v else v

/-- The exact sum of two values; zeros by R181. -/
def addV (rm : Rm) : FVal → FVal → FVal
  | .nan _, _ => .nan false
  | _, .nan _ => .nan false
  | .inf a, .inf b => if a == b then .inf a else .nan false
  | .inf a, _ => .inf a
  | _, .inf b => .inf b
  | .fin n1 m1 e1, .fin n2 m2 e2 =>
    let e0 := min e1 e2
    let v := scaled n1 m1 e1 e0 + scaled n2 m2 e2 e0
    if v == 0 then .fin (if n1 == n2 then n1 else rm == .rdn) 0 0
    else .fin (v < 0) v.natAbs e0

/-- The sign of a value; false of a NaN. -/
def FVal.neg? : FVal → Bool
  | .nan _ => false
  | .inf n => n
  | .fin n _ _ => n

/-- The value is zero. -/
def FVal.isZero : FVal → Bool
  | .fin _ m _ => m == 0
  | _ => false

/-- The value is a NaN. -/
def FVal.isNan : FVal → Bool
  | .nan _ => true
  | _ => false

/-- The value is an infinity. -/
def FVal.isInf : FVal → Bool
  | .inf _ => true
  | _ => false

/-- The value with its sign changed. -/
def FVal.negate : FVal → FVal
  | .nan s => .nan s
  | .inf n => .inf !n
  | .fin n m e => .fin (!n) m e

/-- The exact product; ∞ × 0 is a NaN. -/
def mulV (a b : FVal) : FVal :=
  let n := a.neg? != b.neg?
  match a, b with
  | .nan _, _ | _, .nan _ => .nan false
  | .inf _, y => if y.isZero then .nan false else .inf n
  | x, .inf _ => if x.isZero then .nan false else .inf n
  | .fin _ m1 e1, .fin _ m2 e2 => .fin n (m1 * m2) (e1 + e2)

/-- The product is ∞ × 0. -/
def mulInvalid (a b : FVal) : Bool := (a.isInf && b.isZero) || (a.isZero && b.isInf)

/-- Round a value to a type's layout; a NaN gives the canonical NaN (R56). -/
def roundV (f : Fmt) (rm : Rm) (satur : Bool) : FVal → FRes
  | .nan _ => .plain f.nan
  | .inf n => .plain (f.withSign n f.infCode)
  | .fin n m e => roundTo f rm satur n m e

/-- A result with more flags. -/
def FRes.orFlags (r : FRes) (fl : Nat) : FRes := { r with flags := r.flags ||| fl }

/-- Invalid where a result is a NaN though no operand is one. -/
def invalidFlag (r : FVal) (ops : List FVal) : Nat :=
  if r.isNan && !(ops.any FVal.isNan) then fIV else 0

/-- a + b (R184). -/
def fadd (f : Fmt) (rm : Rm) (a b : Nat) : FRes :=
  let x := f.decode a
  let y := f.decode b
  let r := addV rm x y
  (roundV f rm false r).orFlags (sigFlag [x, y] ||| invalidFlag r [x, y])

/-- a − b (R184). -/
def fsub (f : Fmt) (rm : Rm) (a b : Nat) : FRes :=
  let x := f.decode a
  let y := f.decode b
  let r := addV rm x y.negate
  (roundV f rm false r).orFlags (sigFlag [x, y] ||| invalidFlag r [x, y])

/-- a × b (R184). -/
def fmul (f : Fmt) (rm : Rm) (a b : Nat) : FRes :=
  let x := f.decode a
  let y := f.decode b
  let r := mulV x y
  (roundV f rm false r).orFlags (sigFlag [x, y] ||| invalidFlag r [x, y])

/-- b × c + a with one rounding (R186); ∞ × 0 is invalid even beside a NaN addend. -/
def ffma (f : Fmt) (rm : Rm) (b c a : Nat) : FRes :=
  let x := f.decode b
  let y := f.decode c
  let z := f.decode a
  let p := mulV x y
  let r := addV rm p z
  let inv := if mulInvalid x y then fIV else invalidFlag r [x, y, z]
  (roundV f rm false r).orFlags (sigFlag [x, y, z] ||| inv)

/-- The quotient of two nonzero magnitudes, truncated to at least 66 bits with a sticky last bit, so that one rounding of it
is one rounding of the exact quotient (R60). -/
def divMag (m1 : Nat) (e1 : Int) (m2 : Nat) (e2 : Int) : Nat × Int :=
  let k := 67 + Nat.log2 m2
  let q := m1 * 2 ^ k / m2
  let rem := m1 * 2 ^ k % m2
  (2 * q + (if rem == 0 then 0 else 1), e1 - e2 - (k : Nat) - 1)

/-- a / b with its flags besides rounding (R189). -/
def divV (a b : FVal) : FVal × Nat :=
  let n := a.neg? != b.neg?
  match a, b with
  | .nan _, _ | _, .nan _ => (.nan false, 0)
  | .inf _, .inf _ => (.nan false, fIV)
  | .inf _, _ => (.inf n, 0)
  | _, .inf _ => (.fin n 0 0, 0)
  | .fin _ m1 e1, .fin _ m2 e2 =>
    if m2 == 0 then (if m1 == 0 then (.nan false, fIV) else (.inf n, fDZ))
    else if m1 == 0 then (.fin n 0 0, 0)
    else
      let r := divMag m1 e1 m2 e2
      (.fin n r.1 r.2, 0)

/-- FDIV (R189). -/
def fdivR (f : Fmt) (rm : Rm) (a b : Nat) : FRes :=
  let x := f.decode a
  let y := f.decode b
  let r := divV x y
  (roundV f rm false r.1).orFlags (sigFlag [x, y] ||| r.2)

/-- Order of two finite or infinite values: none where one is a NaN. -/
def cmpV : FVal → FVal → Option Ordering
  | .nan _, _ => none
  | _, .nan _ => none
  | .inf a, .inf b => some (if a == b then .eq else if a then .lt else .gt)
  | .inf a, _ => some (if a then .lt else .gt)
  | _, .inf b => some (if b then .gt else .lt)
  | .fin n1 m1 e1, .fin n2 m2 e2 =>
    let e0 := min e1 e2
    some (compare (scaled n1 m1 e1 e0) (scaled n2 m2 e2 e0))

/-- x below y with −0 below +0 (R184). -/
def belowV (x y : FVal) : Bool :=
  match cmpV x y with
  | some .lt => true
  | some .eq => x.neg? && !y.neg?
  | _ => false

/-- minimumNumber or maximumNumber (R184). -/
def fminmax (f : Fmt) (wantMax : Bool) (a b : Nat) : FRes :=
  let x := f.decode a
  let y := f.decode b
  let v :=
    if x.isNan && y.isNan then f.nan
    else if x.isNan then b
    else if y.isNan then a
    else if belowV x y then (if wantMax then b else a) else (if wantMax then a else b)
  ⟨v, sigFlag [x, y], false⟩

/-- NEG and ABS of a float (R187). -/
def fsign (f : Fmt) (abs : Bool) (b : Nat) : FRes :=
  if (f.decode b).isNan then .plain f.nan
  else
    let top := 2 ^ (f.eb + f.fb)
    let mag := b % top
    .plain (if abs || b / top % 2 == 1 then mag else mag + top)

/-- The truth of a condition on an order (R194), none of ORD and UNORD among them. -/
def condOrd (c : Cond) (o : Ordering) : Bool :=
  match c with
  | .eq => o == .eq
  | .ne => o != .eq
  | .lt => o == .lt
  | .le => o != .gt
  | .gt => o == .gt
  | .ge => o != .lt
  | .ord => true
  | .unord => false

/-- A float comparison with its flags (R194). -/
def fcmp (f : Fmt) (c : Cond) (a b : Nat) : Bool × Nat :=
  let x := f.decode a
  let y := f.decode b
  match cmpV x y with
  | some o => (condOrd c o, 0)
  | none =>
    match c with
    | .eq | .ord => (false, sigFlag [x, y])
    | .ne | .unord => (true, sigFlag [x, y])
    | _ => (false, fIV)

/-! ### Integer square root -/

/-- Bits of the root from bit n−1 down: r² ≤ v. -/
def isqrtLoop : Nat → Nat → Nat → Nat
  | 0, _, r => r
  | n + 1, v, r =>
    let r1 := r + 2 ^ n
    isqrtLoop n v (if r1 * r1 ≤ v then r1 else r)

/-- ⌊√v⌋. -/
def isqrt (v : Nat) : Nat := isqrtLoop (Nat.log2 v / 2 + 1) v 0

/-! ### Transcendental functions (R199)

A value is computed in fixed point with 400 fraction bits by truncating series, to well beyond the bits that one
rounding to F16, BF16 or F32 depends on; every exact case is separated first, so the last bit given on is sticky. -/

/-- Fraction bits of the fixed-point evaluation. -/
def fxP : Nat := 400
/-- ⌊π × 2^400⌋. -/
def fxPi : Nat := 8112377246730971238862271351300894519161151600179265203591191037615230905373990498745523360926816815427566779727327576236
/-- ⌊ln 2 × 2^400⌋. -/
def fxLn2 : Nat := 1789879222497203190815761498240779176894896805856420935579692301363062920687047601279850318367644315849030039181347319086
/-- ⌊log₂ e × 2^400⌋. -/
def fxLog2e : Nat := 3725399093452113361508878261685348397064333121840474113669779251110053462896811095071531244706817557295705407090210624802

/-- Terms of e^y: Σ y^k / k!, y below 1. -/
def expSeries : Nat → Nat → Nat → Nat → Nat → Nat
  | 0, _, _, _, acc => acc
  | n + 1, k, y, term, acc =>
    let t := term * y / 2 ^ fxP / k
    expSeries n (k + 1) y t (acc + t)

/-- 2^f for a fixed-point fraction f. -/
def fxExp2 (f : Nat) : Nat := expSeries 100 1 (f * fxLn2 / 2 ^ fxP) (2 ^ fxP) (2 ^ fxP)

/-- Terms of atanh z: Σ z^(2k+1) / (2k+1). -/
def atanhSeries : Nat → Nat → Nat → Nat → Nat → Nat
  | 0, _, _, _, acc => acc
  | n + 1, k, z2, pow, acc =>
    atanhSeries n (k + 2) z2 (pow * z2 / 2 ^ fxP) (acc + pow / k)

/-- log₂ t for a fixed-point t from 1 to below 2. -/
def fxLog2 (t : Nat) : Nat :=
  let z := (t - 2 ^ fxP) * 2 ^ fxP / (t + 2 ^ fxP)
  2 * atanhSeries 140 1 (z * z / 2 ^ fxP) z 0 * fxLog2e / 2 ^ fxP

/-- Terms of the sine: Σ (−1)^k y^(2k+1) / (2k+1)!. -/
def sinSeries : Nat → Nat → Nat → Nat → Bool → Int → Int
  | 0, _, _, _, _, acc => acc
  | n + 1, k, y2, term, neg, acc =>
    sinSeries n (k + 2) y2 (term * y2 / 2 ^ fxP / ((k + 1) * (k + 2))) (!neg)
      (acc + (if neg then -(term : Int) else term))

/-- sin (π r) for a fixed-point r from 0 to 1/2. -/
def fxSinPi (r : Nat) : Nat :=
  let y := r * fxPi / 2 ^ fxP
  (sinSeries 60 1 (y * y / 2 ^ fxP) y false 0).toNat

/-- An irrational magnitude given by its fixed-point truncation, with a sticky last bit. -/
def stickyFx (neg : Bool) (v : Nat) : FVal := .fin neg (2 * v + 1) (-((fxP : Nat) : Int) - 1)

/-- m × 2^e in fixed point, truncated. -/
def toFx (m : Nat) (e : Int) : Nat :=
  let sh : Int := e + (fxP : Nat)
  if sh ≥ 0 then m * 2 ^ sh.toNat else m / 2 ^ (-sh).toNat

/-- 2^x for a finite x: exact for an integer; beyond every layout's range the exponent saturates. -/
def exp2V (neg : Bool) (m : Nat) (e : Int) : FVal :=
  if m == 0 then .fin false 1 0
  else if e + (Nat.log2 m : Nat) ≥ 11 then
    if neg then .fin false 1 (-2048) else .fin false 1 2048
  else
    let v := toFx m e
    let n := v / 2 ^ fxP
    let f := v % 2 ^ fxP
    let exact : Bool := e ≥ 0 || m % 2 ^ (-e).toNat == 0
    if exact then .fin false 1 (if neg then -(n : Int) else n)
    else if neg then .fin false (2 * fxExp2 (2 ^ fxP - f) + 1) (-(n : Int) - 1 - (fxP : Nat) - 1)
    else .fin false (2 * fxExp2 f + 1) ((n : Int) - (fxP : Nat) - 1)

/-- log₂ x for a positive finite x: exact for a power of two. -/
def log2V (m : Nat) (e : Int) : FVal :=
  let l := Nat.log2 m
  let ex : Int := e + (l : Nat)
  if m == 2 ^ l then .fin (ex < 0) ex.natAbs 0
  else
    let v : Int := ex * ((2 ^ fxP : Nat) : Int) + (fxLog2 (m * 2 ^ (fxP - l)) : Nat)
    stickyFx (v < 0) v.natAbs

/-- sin (π x) for a finite x. -/
def sinPiV (neg : Bool) (m : Nat) (e : Int) : FVal :=
  if e ≥ 0 || m % 2 ^ (-e).toNat == 0 then .fin neg 0 0
  else
    -- x mod 2, exactly, in units of 2^e
    let two := 2 * 2 ^ (-e).toNat
    let half := 2 ^ (-e).toNat
    let y := m % two
    let flip : Bool := y ≥ half
    let y1 := if flip then y - half else y
    let y2 := if 2 * y1 > half then half - y1 else y1
    let n := neg != flip
    if 2 * y2 == half then .fin n 1 0
    else if e + (Nat.log2 y2 : Nat) < -100 then
      -- small: π x with its relative precision kept; sin (π x) lies just below it
      .fin n (2 * (y2 * fxPi / 2 ^ 200 - 1) + 1) (e - 200 - 1)
    else stickyFx n (fxSinPi (toFx y2 e))

/-- cos (π x) for a finite x: sin (π (x + 1/2)). -/
def cosPiV (m : Nat) (e : Int) : FVal :=
  if e ≥ 1 then .fin false 1 0
  else if e + (Nat.log2 m : Nat) < -180 then
    if m == 0 then .fin false 1 0 else .fin false (2 * (2 ^ 100 - 1) + 1) (-101)
  else
    let e1 : Int := e - 1
    let x := 2 * m + 2 ^ (-e1 - 1).toNat
    match sinPiV false x e1 with
    | .fin _ 0 _ => .fin false 0 0
    | v => v

/-- tanh x for a finite nonzero x. -/
def tanhV (neg : Bool) (m : Nat) (e : Int) : FVal :=
  let ex : Int := e + (Nat.log2 m : Nat)
  if ex < -60 then .fin neg (2 * (m * 2 ^ 64 - 1) + 1) (e - 65)
  else if ex ≥ 7 then .fin neg (2 * (2 ^ 100 - 1) + 1) (-101)
  else
    let u := 2 * toFx m e * fxLog2e / 2 ^ fxP
    let a := fxExp2 (u % 2 ^ fxP) * 2 ^ (u / 2 ^ fxP)
    stickyFx neg ((a - 2 ^ fxP) * 2 ^ fxP / (a + 2 ^ fxP))

/-- √x for a positive finite x, sticky. -/
def sqrtV (m : Nat) (e : Int) : FVal :=
  let odd : Bool := e % 2 != 0
  let m1 := (if odd then 2 * m else m) * 2 ^ 140
  let e1 : Int := (if odd then e - 1 else e) / 2 - 70
  let r := isqrt m1
  .fin false (2 * r + (if r * r == m1 then 0 else 1)) (e1 - 1)

/-- 1/√x for a positive finite x, sticky. -/
def rsqrtV (m : Nat) (e : Int) : FVal :=
  let odd : Bool := e % 2 != 0
  let m1 := if odd then 2 * m else m
  let e1 : Int := (if odd then e - 1 else e) / 2
  let k := 80 + Nat.log2 m1
  let r := isqrt (2 ^ (2 * k) / m1)
  .fin false (2 * r + (if r * r * m1 == 2 ^ (2 * k) then 0 else 1)) (-e1 - (k : Nat) - 1)

/-- FN at a value, with DZ or IV by R200. -/
def xfV (f : Xf) (x : FVal) : FVal × Nat :=
  match x with
  | .nan s => (.nan s, if s then fIV else 0)
  | .inf n =>
    match f with
    | .rcp => (.fin n 0 0, 0)
    | .rsqrt => if n then (.nan false, fIV) else (.fin false 0 0, 0)
    | .sqrt | .log2 => if n then (.nan false, fIV) else (.inf false, 0)
    | .exp2 => if n then (.fin false 0 0, 0) else (.inf false, 0)
    | .sinpi | .cospi => (.nan false, fIV)
    | .tanh => (.fin n 1 0, 0)
    | .tos24 => (.inf n, 0)
  | .fin n m e =>
    if m == 0 then
      match f with
      | .rcp | .rsqrt => (.inf n, fDZ)
      | .sqrt | .sinpi | .tanh | .tos24 => (.fin n 0 0, 0)
      | .exp2 | .cospi => (.fin false 1 0, 0)
      | .log2 => (.inf true, fDZ)
    else
      match f with
      | .rcp =>
        let r := divMag 1 0 m e
        (.fin n r.1 r.2, 0)
      | .rsqrt => if n then (.nan false, fIV) else (rsqrtV m e, 0)
      | .sqrt => if n then (.nan false, fIV) else (sqrtV m e, 0)
      | .exp2 => (exp2V n m e, 0)
      | .log2 => if n then (.nan false, fIV) else (log2V m e, 0)
      | .sinpi => (sinPiV n m e, 0)
      | .cospi => (cosPiV m e, 0)
      | .tanh => (tanhV n m e, 0)
      | .tos24 => (x, 0)

/-- ToS24 (R64): an S24 in 24 bits. -/
def toS24 (rm : Rm) (a : Nat) : FRes :=
  let x := fmtF32.decode a
  (roundV fmtS24 rm false x).orFlags (sigFlag [x])

/-- XFN (R199): the code of type t. TOS24 leaves the S24 in bits 31:8. (UNVERIFIED, log 33.) -/
def xfnR (f : Xf) (t : Ty) (rm : Rm) (a : Nat) : FRes :=
  match f with
  | .tos24 =>
    let r := toS24 rm a
    { r with bits := r.bits * 256 }
  | _ =>
    let x := fval t a
    let r := xfV f x
    (roundV (fmtOf t) rm false r.1).orFlags r.2

/-! ### Integer operations (R180, R187-R193) -/

/-- A w-bit code as an integer of its type (R49). -/
def ival (t : Ty) (x : Nat) : Int := if t.isSigned then sint t.width x else x

/-- The range of an integer type (R49). -/
def imin (t : Ty) : Int := if t.isSigned then -((2 ^ (t.width - 1) : Nat) : Int) else 0
/-- The greatest value of an integer type (R49). -/
def imax (t : Ty) : Int := if t.isSigned then ((2 ^ (t.width - 1) : Nat) : Int) - 1 else ((2 ^ t.width : Nat) : Int) - 1

/-- Quotient truncated toward zero and remainder (R188), for a nonzero divisor. -/
def idiv (t : Ty) (a b : Nat) : Nat := wrapN t.width ((ival t a).tdiv (ival t b))
/-- R188. -/
def irem (t : Ty) (a b : Nat) : Nat := wrapN t.width ((ival t a) - (ival t a).tdiv (ival t b) * ival t b)

/-- SHL, SHR, SAR (R191). -/
def shlN (w a n : Nat) : Nat := if n ≥ w then 0 else a * 2 ^ n % 2 ^ w
/-- R191. -/
def shrN (w a n : Nat) : Nat := if n ≥ w then 0 else a / 2 ^ n
/-- R191. -/
def sarN (w a n : Nat) : Nat := wrapN w (sint w a / ((2 ^ (if n ≥ w then w - 1 else n) : Nat) : Int))

/-- Number from bits, bit i by a test. -/
def ofBits (w : Nat) (p : Nat → Bool) : Nat := (List.range w).foldr (fun i n => if p i then n + 2 ^ i else n) 0

/-- BFE (R192). -/
def bfeN (t : Ty) (a b : Nat) : Nat :=
  let w := t.width
  let pos := b % 256
  let len := b / 256 % 256
  let x := fun j => if j < w then a.testBit j else t.isSigned && a.testBit (w - 1)
  ofBits w fun i =>
    if i < len then x (pos + i)
    else t.isSigned && len > 0 && x (pos + len - 1)

/-- BFI (R193). -/
def bfiN (t : Ty) (a b c : Nat) : Nat :=
  let pos := c % 256
  let len := c / 256 % 256
  ofBits t.width fun j => if pos ≤ j && j < pos + len then b.testBit (j - pos) else a.testBit j

/-- Number of 1 bits of a w-bit value (R187). -/
def popcN (w a : Nat) : Nat := ((List.range w).filter fun i => a.testBit i).length
/-- Leading zeros of a w-bit value (R187). -/
def clzN (w a : Nat) : Nat := if a == 0 then w else w - 1 - Nat.log2 a
/-- Bits reversed (R187). -/
def brevN (w a : Nat) : Nat := ofBits w fun i => a.testBit (w - 1 - i)

/-! ### ATOM (R252, R253) -/

/-- The new value of an ATOM for old value m and operand v, other than CAS, with its flags. -/
def atomNew (aop : Nat) (t : Ty) (m v : Nat) : Nat × Nat :=
  match aop with
  | 0 =>
    if t == .f32 then
      let r := fadd fmtF32 .rne m v
      (r.bits, r.flags)
    else ((m + v) % 2 ^ t.width, 0)
  | 1 =>
    if t == .f32 then
      let r := fminmax fmtF32 false m v
      (r.bits, r.flags)
    else (if ival t v < ival t m then v else m, 0)
  | 2 =>
    if t == .f32 then
      let r := fminmax fmtF32 true m v
      (r.bits, r.flags)
    else (if ival t m < ival t v then v else m, 0)
  | 3 => (m &&& v, 0)
  | 4 => (m ||| v, 0)
  | 5 => (m ^^^ v, 0)
  | 6 => (v, 0)
  | _ => (if m ≥ v then 0 else m + 1, 0)

/-! ### Conversions (R61-R64) -/

/-- Value to integer (R61, R62): clamped with IV outside the range. -/
def toIntR (t : Ty) (rm : Rm) : FVal → FRes
  | .nan _ => ⟨0, fIV, false⟩
  | .inf n => ⟨wrapN t.width (if n then imin t else imax t), fIV, true⟩
  | .fin n m e =>
    let r := roundInt rm n m e
    if r.1 < imin t then ⟨wrapN t.width (imin t), fIV, true⟩
    else if r.1 > imax t then ⟨wrapN t.width (imax t), fIV, true⟩
    else ⟨wrapN t.width r.1, if r.2 then fNX else 0, false⟩

/-- Integer to integer (R62). -/
def intToInt (t : Ty) (satur : Bool) (v : Int) : FRes :=
  let out : Bool := v < imin t || v > imax t
  let r : Int := if satur then (if v < imin t then imin t else if v > imax t then imax t else v) else v
  ⟨wrapN t.width r, 0, out⟩

/-- Value to a floating-point layout (R61-R63), with SATM by R59: .SAT is E4M3's default. -/
def toFloatR (t : Ty) (rm : Rm) (sm : Sat) (x : FVal) : FRes :=
  let f := fmtOf t
  let sat1 : Bool := sm == .sat || (f.e4m3 && sm == .dflt)
  match x with
  | .nan s => ⟨f.nan, if s then fIV else 0, false⟩
  | .inf n =>
    if f.e4m3 then ⟨if sat1 then f.withSign n f.maxCode else f.nan, 0, true⟩
    else .plain (f.withSign n f.infCode)
  | .fin n m e => roundTo f rm sat1 n m e

/-- ToSI8 (R63): the I8 element as 8 bits, with the range test of R198. -/
def toSI8 (rm : Rm) (x sc : FVal) : FRes :=
  match x, sc with
  | .nan _, _ | _, .nan _ | _, .inf _ => ⟨0, fIV, false⟩
  | .inf n, .fin _ m _ =>
    if m == 0 then ⟨0, fIV, false⟩ else ⟨wrapN 8 (if n then -127 else 127), fIV, true⟩
  | .fin n m e, .fin ns ms es =>
    if ms == 0 then ⟨0, fIV, false⟩
    else
      let d := if m == 0 then (0, (0 : Int)) else divMag m e ms es
      let r := roundInt rm (n != ns) d.1 d.2
      if r.1 > 127 then ⟨wrapN 8 127, fIV, true⟩
      else if r.1 < -127 then ⟨wrapN 8 (-127), fIV, true⟩
      else ⟨wrapN 8 r.1, if r.2 then fNX else 0, false⟩

/-- A T2 element (R54). -/
def t2val (x : Nat) : Int := if x % 4 == 1 then 1 else if x % 4 == 3 then -1 else 0

/-- An integer as a value. -/
def ofInt (v : Int) : FVal := .fin (v < 0) v.natAbs 0

/-- The exact source value of CVT (R197): a code of type S, with the block scale where S is SI8. -/
def cvtSource (t : Ty) (x : Nat) (sc : FVal) : FVal :=
  match t with
  | .si8 => mulV (ofInt (sint 8 x)) sc
  | .t2 => ofInt (t2val x)
  | _ => if t.isInt then ofInt (ival t x) else fval t x

/-- CVT of one lane (R197), with the range test of R65 and R198. A T2 source (R54) to an integer type counts as an integer
(R62): −1 to an N type wraps to all ones and sets no flag. (DESIGN CHOICE, log 45.) -/
def cvtR (d src : Ty) (rm : Rm) (sm : Sat) (x : Nat) (sc : FVal) : FRes :=
  let v := cvtSource src x sc
  if d == .si8 then (toSI8 rm v sc)
  else if d.isInt then
    if src.isInt || src == .t2 then
      intToInt d (sm == .sat) (if src == .t2 then t2val x else ival src x)
    else toIntR d rm v
  else
    let r := toFloatR d rm sm v
    if src == .si8 then r.orFlags ((if mulInvalid (ofInt (sint 8 x)) sc then fIV else 0) ||| sigFlag [sc]) else r

/-- The F32 entry of an outlier (R65): the source value rounded by RNE. -/
def outlierF32 (src : Ty) (x : Nat) (sc : FVal) : Nat := (roundV fmtF32 .rne false (cvtSource src x sc)).bits

/-! ### Matrix summation (R68) -/

/-- ⌊log₂ |t|⌋ of a nonzero finite value. -/
def expOf : FVal → Option Int
  | .fin _ m e => if m == 0 then none else some (e + (Nat.log2 m : Nat))
  | _ => none

/-- The greatest exponent among nonzero values. -/
def maxExp : List FVal → Option Int
  | [] => none
  | x :: xs =>
    match expOf x, maxExp xs with
    | none, r => r
    | some e, none => some e
    | some e, some r => some (max e r)

/-- A term truncated toward zero to a multiple of 2^q, in units of 2^q. -/
def truncTerm (q : Int) : FVal → Int
  | .fin n m e =>
    let v : Nat := if e ≥ q then m * 2 ^ (e - q).toNat else m / 2 ^ (q - e).toNat
    if n then -(v : Int) else v
  | _ => 0

/-- A product p of a step: the value, and whether it is ∞ × 0. -/
structure Prod where
  v : FVal
  invalid : Bool
  deriving DecidableEq, Repr

/-- MatrixSum (R68): the F32 code with flags IV and OF (R69). -/
def matrixSum (c : Nat) (ps : List Prod) : FRes :=
  let cv := fmtF32.decode c
  let vs := cv :: ps.map Prod.v
  if vs.any FVal.isNan || ps.any Prod.invalid || (vs.any (· == .inf false) && vs.any (· == .inf true)) then
    ⟨fmtF32.nan, fIV, false⟩
  else if vs.any (· == .inf false) then .plain fmtF32.infCode
  else if vs.any (· == .inf true) then .plain (fmtF32.withSign true fmtF32.infCode)
  else match maxExp vs with
    | none => .plain (if vs.all FVal.neg? then fmtF32.withSign true 0 else 0)
    | some e =>
      let q := e - 36
      let total := (vs.map (truncTerm q)).foldr (· + ·) 0
      let r := roundTo fmtF32 .rne false (total < 0) total.natAbs q
      { r with flags := r.flags &&& fOF }

/-- The shadow path (R70): products added in order, each sum rounded by RNE. -/
def shadowSum (c : Nat) (ps : List Prod) : Nat :=
  ps.foldl (fun acc p => (roundV fmtF32 .rne false (addV .rne (fmtF32.decode acc) p.v)).bits) c

end Sys2Proof.Machine
end

