-- ==== Sys2Proof/Config.lean ====
section
/-!
DEFINITION. Config: the values the spec leaves open (log 3). Each is an opaque constant with no body, so nothing can be
proved of its value; a statement holds whatever it is.
-/

namespace Sys2Proof

/-- A byte the spec leaves undefined, by the free-value counter of State and the byte's place. -/
opaque Config.freeByte : Nat → Nat → Byte

/-- Whether a read of an indeterminate location returns another value than the last performed (R98), by the free-value counter and the
lost store. -/
opaque Config.readsOld : Nat → Nat → Bool

/-- Whether a dirty line stands in the way that a bank is (R245), by the free-value counter and a number for line, core and bank. -/
opaque Config.inWay : Nat → Nat → Bool

/-- Whether a write of an operation that stops part-way was performed (R287, R318, R356), by the free-value counter and
the write's place in the operation. -/
opaque Config.partialWrite : Nat → Nat → Bool

/-- Flit bytes that a launch carried on a direction of a link in a window (R446), by the free-value counter, launch, link
and direction: the spec does not give the messages of an access. -/
opaque Config.linkTraffic : Nat → Nat → Fin 4 → Bool → Nat

/-- Flit bytes of a window charged to no launch (R446). -/
opaque Config.linkUncharged : Nat → Fin 4 → Bool → Nat

/-- Length of a section of a context record in units of 8 bytes (R406), by the free-value counter and the section's place: the spec does
not give the layout of every item. -/
opaque Config.sectionWords : Nat → Nat → Nat

/-- DETAIL of RUNLENGTH for a position that no counted path reaches (R144), by the position. -/
opaque Config.uncounted : Nat → Nat

/-- An event's object or detail where R456 does not state it, by the free-value counter; true for the detail. -/
opaque Config.eventField : Nat → Bool → Nat

/-- The SM3 digest of a byte string (R452, R459, R460): the spec names the algorithm and gives no definition of it. -/
opaque Config.sm3 : List Byte → BitVec 256

/-- Whether a firmware image verifies against the root key (R452). -/
opaque Config.imageVerifies : List Byte → Bool

/-- Whether a configuration record verifies against the key the image names, R13 aside (R452). -/
opaque Config.recordVerifies : List Byte → List Byte → Bool

/-- The firmware version in an image's header (R451), whose layout the spec does not give. -/
opaque Config.imageVersion : List Byte → W32

/-- Whether the device is a K9410D, the set of four dies for a partner's substrate (R1, R13). -/
opaque Config.isDieSet : Bool

/-- What a configuration record says (R13, R16): the index that it gives each of the four dies, and for the die of each package index its
orientation and its core groups in service. The record's layout is not given by the spec. -/
opaque Config.recordIndex : List Byte → Fin 4 → BitVec 2
opaque Config.recordOrient : List Byte → Fin 4 → BitVec 2
opaque Config.recordCgMask : List Byte → Fin 4 → BitVec 16
/-- Retired rows of a vault by the configuration record (R418). -/
opaque Config.recordRetRows : List Byte → Fin 4 → Fin 16 → BitVec 8
/-- Whether a vault has no spare row left (R418). -/
opaque Config.recordNoSpare : List Byte → Bool
/-- MEM.ACKTO by the configuration record, none where it has no entry (R97). -/
opaque Config.recordAckTo : List Byte → Option (BitVec 16)

/-- The identity public key of the device, x then y (R459). -/
opaque Config.identityKey : BitVec 512
/-- The SM2 signature over a digest, r then s; the counter stands for the signature's random value (R459). -/
opaque Config.sm2Sign : Nat → BitVec 256 → BitVec 512

end Sys2Proof
end

