-- ==== Sys2Proof/WellFormed.lean ====
section
/-!
DEFINITION. Well-formedness of an instruction term: the rules of R108, R111, R119 and of each instruction's own
description that its operand types do not already enforce. An instruction whose encoding decodes but breaks
one of these raises ILLEGAL when it executes (R125).
-/

namespace Sys2Proof

/-- A general register named for a 64-bit operand is even (R108). -/
def evenG (t : Ty) (g : Fin 64) : Bool := !t.is64 || g.val % 2 == 0

/-- R108 for an operand that SX selects. -/
def Src.okFor (t : Ty) : Src → Bool
  | .g r => evenG t r
  | .s _ => true

/-- R108 for the operand of an extended LA form. -/
def XSrc.okFor (t : Ty) : XSrc → Bool
  | .g r => evenG t r
  | _ => true

/-- R108 for the operand where G stands. -/
def GSrc.okFor (t : Ty) : GSrc → Bool
  | .g r => evenG t r
  | .imm _ => true

/-- Where an instruction does not use the rounding field, RM is zero (R179). -/
def rmOk (t : Ty) (rm : Rm) : Bool := t.isFloat || rm == .rne

/-- Types of ADD, SUB, MUL, MIN, MAX, NEG, CMP (R179). -/
def Ty.arith (t : Ty) : Bool := t.isInt || t.isFloat
/-- Types of MAC and MADD (R179). -/
def Ty.fused (t : Ty) : Bool := t.isWord || t.isFloat
/-- Types of MOV, EMIT, EMITS, VOTE.EQ, SHFL, LD, ST, VPUSH, VPOP (R179, R228, R235, R344). -/
def Ty.moved (t : Ty) : Bool := t.isInt || t.isFloat || t.isFp8
/-- Types of SEL (R179). -/
def Ty.selected (t : Ty) : Bool := t.isWord || t == .f32 || t == .f64

/-- Destination types that permit outlier capture (R65, R119). -/
def Ty.captures : Ty → Bool
  | .i8 | .i16 | .n8 | .n16 | .f16 | .bf16 | .e5m2 | .e4m3 | .si8 => true
  | _ => false

/-- CVT combinations (R196). `g` is the operand. -/
def cvtOk (d s : Ty) (sat : Sat) (g : GSrc) : Bool :=
  d != .t2 && d != s && (sat != .nsat || d == .e4m3)
    && (d == .si8 || s == .si8 || g == .g 0)

/-- Types of XFN by function (R199). -/
def xfnOk (f : Xf) (t : Ty) : Bool :=
  match f with
  | .rcp | .sqrt => t.isFloat
  | .tos24 => t == .f32
  | _ => t == .f16 || t == .bf16 || t == .f32

/-- Types of ATOM by AOP (R252). -/
def atomOk (aop : BitVec 4) (t : Ty) : Bool :=
  match aop.toNat with
  | 0 | 1 | 2 => t.isWord || t == .f32
  | 3 | 4 | 5 => t.isWord
  | 6 => t.isWord || t == .f32 || t == .f64
  | 7 => t == .i32 || t == .n32 || t == .f32
  | 8 => t == .n32 || t == .n64
  | _ => false

/-- Types of REDUCE and SCAN by OP (R230, R232). -/
def redOk (op : RedOp) (t : Ty) : Bool :=
  match op with
  | .and | .or | .xor => t.isWord
  | _ => t.fused

/-- Types of REDT by OP (R348). -/
def redtOk (op : RedOp) (t : Ty) : Bool :=
  match op with
  | .and | .or | .xor => t.isWord
  | .add | .min | .max => t.isWord || t == .f32 || t == .f64
  | _ => false

/-- S of REDUCE's 64-bit index forms is even and at most 30, and they have no broadcast form (R230). -/
def reduceDestOk (op : RedOp) (t : Ty) (d : Option (Fin 32)) : Bool :=
  if op.plain || !t.is64 then true
  else match d with
    | none => false
    | some d => d.val % 2 == 0

/-- SYSR uses (R176). -/
def sysrOk (o : SysOp) : Bool :=
  match sregInfo o.sreg, o.r with
  | none, _ => false
  | some i, .g r => !i.wide || r.val % 2 == 0
  | some i, .s _ => i.kind != .perLane

/-- SYSW uses (R177). -/
def syswOk (o : SysOp) : Bool :=
  match sregInfo o.sreg with
  | none => false
  | some i => i.writable && i.kind != .perLane && sysrOk o

/-- The well-formed instructions. Constructors not listed carry no constraint beyond their types. -/
def Instr.wf : Instr → Bool
  | .add o | .sub o | .mul o => o.t.arith && rmOk o.t o.rm && o.src.okFor o.t
  | .fdiv o => o.t.isFloat && o.src.okFor o.t
  | .addExt o | .subExt o | .mulExt o => o.t.arith && rmOk o.t o.rm && o.src.okFor o.t
  | .fdivExt o => o.t.isFloat && o.src.okFor o.t
  | .min o | .max o => o.t.arith && o.src.okFor o.t
  | .minExt o | .maxExt o => o.t.arith && o.src.okFor o.t
  | .mov o => o.t.moved && o.src.okFor o.t
  | .movExt o => o.t.moved && o.src.okFor o.t
  | .div o | .rem o => o.t.isWord && o.src.okFor o.t
  | .divExt o | .remExt o => o.t.isWord && o.src.okFor o.t
  | .and o | .or o | .xor o | .andn o => o.t.isInt && o.src.okFor o.t
  | .andExt o | .orExt o | .xorExt o | .andnExt o => o.t.isInt && o.src.okFor o.t
  | .shl o | .shr o | .sar o | .bfe o => o.t.isInt
  | .shlExt o | .shrExt o | .sarExt o | .bfeExt o => o.t.isInt
  | .mac o | .madd o => o.t.fused && rmOk o.t o.rm && evenG o.t o.g
  | .macExt o | .maddExt o => o.t.fused && rmOk o.t o.rm && o.src.okFor o.t
  | .addLi o | .movLi o => o.t.arith
  | .andLi o | .orLi o | .xorLi o => o.t.isInt
  | .shlLi o | .shrLi o | .sarLi o => o.t.isInt
  | .neg o => o.t.arith && evenG o.t o.g
  | .negExt o => o.t.arith && o.src.okFor o.t
  | .abs o => (o.t.isSigned || o.t.isFloat) && evenG o.t o.g
  | .absExt o => (o.t.isSigned || o.t.isFloat) && o.src.okFor o.t
  | .not o | .popc o | .clz o | .brev o => o.t.isInt && evenG o.t o.g
  | .notExt o | .popcExt o | .clzExt o | .brevExt o => o.t.isInt && o.src.okFor o.t
  | .bfi o => o.t.isInt && evenG o.t o.g
  | .bfiExt o => o.t.isInt && o.src.okFor o.t
  | .cmp o => o.t.arith && evenG o.t o.g && (o.t.isFloat || o.c.code < 6)
  | .cmpExt o => o.t.arith && o.src.okFor o.t && (o.t.isFloat || o.c.code < 6)
  | .sel o => o.t.selected && evenG o.t o.g
  | .selExt o => o.t.selected && o.src.okFor o.t
  | .cvt o => cvtOk o.t o.from_ o.sat (.g o.g)
  | .cvtExt o => cvtOk o.t o.from_ o.sat o.src && (o.ol.isNone || o.t.captures)
  | .xfn o => xfnOk o.f o.t
  | .xfnExt o => xfnOk o.f o.t
  | .emit o => o.t.moved && evenG o.t o.g
  | .emitExt o => o.t.moved && evenG o.t o.g
  | .emitp o => o.t == .n32 || o.t == .n64
  | .emitpExt o => o.t == .n32 || o.t == .n64
  | .emits o => o.t.moved
  | .emitsExt o => o.t.moved
  | .shortAddF64 o | .shortMulF64 o | .shortAddI64 o | .shortEmitN64 o => o.g.val % 2 == 0
  | .sysr o => sysrOk o
  | .sysw o => syswOk o
  | .ld o | .st o | .ldnt o | .stnt o => o.t.moved
  | .ldExt o => o.t.moved && (o.ord == .rlx || o.ord == .acq) && !o.xd
  | .stExt o => o.t.moved && (o.ord == .rlx || o.ord == .rel)
  | .ldntExt o | .stntExt o => o.t.moved && o.ord == .rlx && !o.xd
  | .atom o => atomOk o.aop o.t
  | .waita o => o.t.isWord && (o.ord == .rlx || o.ord == .acq) && o.aop.toNat < 6
  | .voteEq _ _ t _ => t.moved
  | .shfl _ _ _ t _ => t.moved
  | .reduce o => redOk o.op o.t && reduceDestOk o.op o.t o.dest
  | .scan o => o.op.plain && redOk o.op o.t
  | .pblk _ _ pat cntM1 => pat.toNat < 2 ^ (cntM1.val + 1)
  | .brx _ (.g r) => r.val % 2 == 0
  | .fresume _ r | .fkill _ r => r.val % 2 == 0
  | .redt _ _ _ t _ op => redtOk op t
  | .dbarValue _ _ _ ty op | .xbarValue _ _ _ ty op =>
      op.plain && (ty != .f64 || op == .add || op == .min || op == .max)
  | .tld _ _ s p | .tst _ _ s p => !p || s.val % 2 == 0
  | .vpush _ _ t => t.moved
  | .vpushn _ _ _ t => t.moved
  | .vpop _ g t => t.moved && evenG t g
  | .gath o | .scat o => o.l.val % 2 == 0
  | .hint _ h _ => h.val != 0
  | _ => true

end Sys2Proof
end

