-- ==== Sys2Proof/Decode.lean ====
section
/-!
DEFINITION. Decode and encode: 05_encoding_and_opcode_map.md R102, R107-R127 and the encodings each instruction's
own description gives. `decodeWords` reads the fields of one instruction; whether the operand values are ones
the instruction permits is `Instr.wf`, which the machine asks when the instruction issues (R125).
-/

namespace Sys2Proof

/-- Why a fetched word is no instruction (R114, R115, R124, R125, R103). -/
inductive DecodeError where
  /-- R124: the major is unassigned. -/
  | unassignedMajor
  /-- R111: a reserved or unused field is nonzero, or a selector holds an unassigned value. -/
  | badFields
  /-- R115: a continuation fetched as the first word of an instruction. -/
  | strayContinuation
  /-- R115: a head whose next required word is not a continuation. -/
  | missingContinuation
  /-- R115: the major has no extended form, or no long form. -/
  | noSuchForm
  /-- R103: the position has slot 1 and the word is not a short pair. -/
  | notAPair
  /-- R114: bit 0 of a short pair is 1. -/
  | pairBitSet
  /-- R114: short opcodes 0x1D to 0x1F, and opcode 0x00 with a nonzero field. -/
  | badShortOpcode
  deriving DecidableEq, Repr

/-- Bits lo+n-1 : lo of a word. -/
def fld (w lo n : Nat) : Nat := w / 2 ^ lo % 2 ^ n

/-- One bit of a word. -/
def bitAt (w lo : Nat) : Bool := w / 2 ^ lo % 2 == 1

/-- Succeed when the condition on the fields holds. -/
def need {α : Type} (c : Bool) (x : α) : Option α := if c then some x else none

/-- Register number fields (R108). -/
def fin64 (n : Nat) : Fin 64 := Fin.ofNat 64 n
/-- Scalar register numbers. -/
def fin32 (n : Nat) : Fin 32 := Fin.ofNat 32 n
/-- Tile registers and other four-bit numbers. -/
def fin16 (n : Nat) : Fin 16 := Fin.ofNat 16 n
/-- Accumulators, predicates and rejoin registers. -/
def fin8 (n : Nat) : Fin 8 := Fin.ofNat 8 n

/-- B (R105). -/
def fB (w : Nat) : Bool := bitAt w 29
/-- A of formats LA, LB, LI, LM, LW, LT. -/
def fA (w : Nat) : Fin 8 := fin8 (fld w 19 3)
/-- G. -/
def fG (w : Nat) : Fin 64 := fin64 (fld w 13 6)
/-- T. -/
def fT (w : Nat) : Ty := Ty.ofCode (fld w 9 4)
/-- S1 of LE, SD of LS. -/
def fS1 (w : Nat) : Fin 32 := fin32 (fld w 17 5)
/-- S2 of LE, SA of LS. -/
def fS2 (w : Nat) : Fin 32 := fin32 (fld w 12 5)
/-- S3 of LE. -/
def fS3 (w : Nat) : Fin 32 := fin32 (fld w 7 5)
/-- S of LM and LW. -/
def fS8 (w : Nat) : Fin 32 := fin32 (fld w 4 5)
/-- S of LT. -/
def fSt (w : Nat) : Fin 32 := fin32 (fld w 6 5)
/-- TA. -/
def fTA (w : Nat) : Fin 16 := fin16 (fld w 15 4)
/-- TB. -/
def fTB (w : Nat) : Fin 16 := fin16 (fld w 11 4)

/-- SX with one operand besides the accumulator (R108). -/
def decSrc (w : Nat) : Option Src :=
  if bitAt w 0 then need (fld w 13 6 == 0) (.s (fin32 (fld w 1 5)))
  else need (fld w 1 5 == 0) (.g (fG w))

/-- LA, one operand, with RM. -/
def decLa (w : Nat) : Option La :=
  (decSrc w).bind fun src => (Rm.ofCode (fld w 6 3)).map fun rm => ⟨fB w, fA w, src, fT w, rm⟩

/-- LA, one operand, RM zero. -/
def decLn (w : Nat) : Option Ln :=
  if fld w 6 3 == 0 then (decSrc w).map fun src => ⟨fB w, fA w, src, fT w⟩ else none

/-- LA, two operands (R108). -/
def decLa2 (w : Nat) : Option La2 :=
  if bitAt w 0 then
    (Rm.ofCode (fld w 6 3)).map fun rm => ⟨fB w, fA w, fG w, fT w, rm, fin32 (fld w 1 5)⟩
  else none

/-- BFI. -/
def decBfi (w : Nat) : Option BfiOp :=
  need (bitAt w 0 && fld w 6 3 == 0) ⟨fB w, fA w, fG w, fT w, fin32 (fld w 1 5)⟩

/-- LI (R110). -/
def decLi (w : Nat) : Li := ⟨fB w, fA w, Ty.ofCode (fld w 15 4), BitVec.ofNat 15 (fld w 0 15)⟩

/-- LI of a shift: IMM15 bits 14:6 zero (R110). -/
def decLiShift (w : Nat) : Option LiShift :=
  need (fld w 6 9 == 0) ⟨fB w, fA w, Ty.ofCode (fld w 15 4), BitVec.ofNat 6 (fld w 0 6)⟩

/-- Major 0x09 (R122): RM zero, MINOR selects. -/
def decUnary (w : Nat) : Option Instr :=
  let o : Un := ⟨fB w, fA w, fG w, fT w⟩
  match fld w 0 9 with
  | 0 => some (.neg o)
  | 1 => some (.abs o)
  | 2 => some (.not o)
  | 3 => some (.popc o)
  | 4 => some (.clz o)
  | 5 => some (.brev o)
  | _ => none

/-- CMP (R194): D in MINOR 5:3, COND in MINOR 2:0, RM zero. -/
def decCmp (w : Nat) : Option CmpOp :=
  need (fld w 6 3 == 0) ⟨fB w, fA w, fG w, fT w, fin8 (fld w 3 3), Cond.ofCode (fld w 0 3)⟩

/-- SEL (R195): P in MINOR 5:3, N in MINOR 2. -/
def decSel (w : Nat) : Option SelOp :=
  need (fld w 6 3 == 0 && fld w 0 2 == 0) ⟨fB w, fA w, fG w, fT w, fin8 (fld w 3 3), bitAt w 2⟩

/-- CVT (R196): source type in MINOR 5:2, SATM in MINOR 1:0. -/
def decCvt (w : Nat) : Option CvtOp :=
  (Rm.ofCode (fld w 6 3)).bind fun rm => (Sat.ofCode (fld w 0 2)).map fun m =>
    ⟨fB w, fA w, fG w, fT w, rm, Ty.ofCode (fld w 2 4), m⟩

/-- XFN (R199): G zero, function in MINOR. -/
def decXfn (w : Nat) : Option XfnOp :=
  if fld w 13 6 == 0 then
    (Rm.ofCode (fld w 6 3)).bind fun rm => (Xf.ofCode (fld w 0 6)).map fun f => ⟨fB w, fA w, fT w, rm, f⟩
  else none

/-- EMIT (R201): RM, S and SX zero. -/
def decEmit (w : Nat) : Option EmitOp := need (fld w 0 9 == 0) ⟨fB w, fA w, fG w, fT w⟩

/-- EMITP (R202): predicate in MINOR 5:3. -/
def decEmitp (w : Nat) : Option EmitpOp :=
  need (fld w 13 6 == 0 && fld w 6 3 == 0 && fld w 0 3 == 0) ⟨fB w, fA w, fT w, fin8 (fld w 3 3)⟩

/-- EMITS (R203): scalar in MINOR 4:0. -/
def decEmits (w : Nat) : Option EmitsOp :=
  need (fld w 13 6 == 0 && fld w 5 4 == 0) ⟨fB w, fA w, fT w, fin32 (fld w 0 5)⟩

/-- RS or RD with REG (R108). -/
def decRegSel (w : Nat) : Option RegSel :=
  if bitAt w 21 then need (fld w 20 1 == 0) (.s (fin32 (fld w 15 5)))
  else some (.g (fin64 (fld w 15 6)))

/-- SYSR and SYSW (R176, R177). -/
def decSys (w : Nat) : Option SysOp :=
  if fld w 12 3 == 0 then (decRegSel w).map fun r => ⟨fB w, r, BitVec.ofNat 12 (fld w 0 12)⟩ else none

/-- The memory operand of LM (R108, R112). -/
def decMem (w : Nat) : Option MemOperand :=
  if bitAt w 0 then some ⟨fS8 w, some (fG w, Fin.ofNat 4 (fld w 2 2)), bitAt w 1⟩
  else need (fld w 13 6 == 0 && fld w 2 2 == 0) ⟨fS8 w, none, bitAt w 1⟩

/-- LM, long. -/
def decLm (w : Nat) : Option Lm := (decMem w).map fun m => ⟨fB w, fA w, fT w, m⟩

/-- FENCE and DRAIN: SCOPE, the rest zero. -/
def decScope (w : Nat) : Option Scope :=
  if fld w 0 19 == 0 then Scope.ofCode (fld w 19 3) else none

/-- BAR in its long forms (R256). -/
def decBar (w : Nat) : Option Instr :=
  let b := fB w
  if fld w 17 5 == 0 && fld w 7 5 == 0 then
    let s := fS2 w
    let z := fld w 12 5 == 0
    match fld w 0 7 with
    | 0 => need z (.bar b)
    | 1 => need z (.barArrive b)
    | 2 => need z (.barWait b)
    | 4 => need z (.barGang b)
    | 5 => need z (.barArriveGang b)
    | 6 => need z (.barWaitGang b)
    | 8 => some (.barLvl b s)
    | 9 => some (.barArriveLvl b s)
    | 10 => some (.barWaitLvl b s)
    | _ => none
  else none

/-- BAR of a named barrier: head and its continuation payload (R256). -/
def decBarNamed (w c : Nat) : Option Instr :=
  let b := fB w
  if h : fld c 8 5 < 17 then
    if fld w 7 15 == 0 && fld c 7 1 == 0 && fld c 13 17 == 0 then
      let i : Fin 128 := Fin.ofNat 128 (fld c 0 7)
      let n : Fin 17 := ⟨fld c 8 5, h⟩
      match fld w 0 7 with
      | 12 => some (.barNamed b i n)
      | 13 => some (.barArriveNamed b i n)
      | 14 => some (.barWaitNamed b i n)
      | _ => none
    else none
  else none

/-- BANKMODE (R244): mode in X 5:4, bank 0 to 11 in X 3:0. -/
def decBankmode (w : Nat) : Option Instr :=
  let b := fB w
  if h : fld w 0 4 < 12 then
    let n : Fin 12 := ⟨fld w 0 4, h⟩
    match fld w 4 18 with
    | 0 => some (.bankmodeCache b n)
    | 1 => some (.bankmodeScratch b n)
    | 2 => some (.bankmodeFifo b n)
    | _ => none
  else none

/-- VOTE (R228). -/
def decVote (w : Nat) : Option Instr :=
  let b := fB w
  let d := fin8 (fld w 16 3)
  let s := fin8 (fld w 13 3)
  match fld w 0 4 with
  | 0 => need (fld w 19 3 == 0 && fld w 4 9 == 0) (.voteAll b d s)
  | 1 => need (fld w 19 3 == 0 && fld w 4 9 == 0) (.voteAny b d s)
  | 2 => need (fld w 16 6 == 0 && fld w 9 4 == 0) (.voteBallot b (fS8 w) s)
  | 3 => need (fld w 13 3 == 0 && fld w 4 5 == 0) (.voteEq b (fA w) (fT w) d)
  | _ => none

/-- SHFL (R229). -/
def decShfl (w : Nat) : Option Instr :=
  if bitAt w 3 then none
  else if bitAt w 2 then
    need (fld w 13 6 == 0) (.shfl (fB w) (fA w) (.s (fS8 w)) (fT w) (ShflMode.ofCode (fld w 0 2)))
  else need (fld w 4 5 == 0) (.shfl (fB w) (fA w) (.g (fG w)) (fT w) (ShflMode.ofCode (fld w 0 2)))

/-- The predicate mask in G of REDUCE and SCAN (R230): some none where no mask is given. -/
def decRedMask (w : Nat) : Option (Option (Fin 8)) :=
  if fld w 16 2 == 0 then
    if bitAt w 18 then some (some (fin8 (fld w 13 3))) else need (fld w 13 3 == 0) none
  else none

/-- REDUCE (R230). -/
def decReduce (w : Nat) : Option Instr :=
  (decRedMask w).bind fun m =>
    if bitAt w 3 then
      need (fld w 4 5 == 0) (.reduce ⟨fB w, fA w, fT w, m, none, RedOp.ofCode (fld w 0 3)⟩)
    else some (.reduce ⟨fB w, fA w, fT w, m, some (fS8 w), RedOp.ofCode (fld w 0 3)⟩)

/-- SCAN (R232). -/
def decScan (w : Nat) : Option Instr :=
  (decRedMask w).bind fun m =>
    need (fld w 4 5 == 0) (.scan ⟨fB w, fA w, fT w, m, bitAt w 3, RedOp.ofCode (fld w 0 3)⟩)

/-- The condition of BRA (R108). -/
def decBraCond (w : Nat) : Option BraCond :=
  if fld w 18 4 < 8 then some (.pred (fin8 (fld w 18 3)) (bitAt w 17))
  else need (fld w 17 5 == 16) .always

/-- LS arithmetic, long (R127). -/
def decSOperand (w : Nat) : Option SOperand :=
  if bitAt w 11 then some (.imm (BitVec.ofNat 11 (fld w 0 11)))
  else need (fld w 5 6 == 0) (.s (fin32 (fld w 0 5)))

/-- LS, long. -/
def decLs (w : Nat) : Option LsOp := (decSOperand w).map fun o => ⟨fB w, fS1 w, fS2 w, o⟩

/-- LS, extended with CS (R116). -/
def decLsX (w c : Nat) : Option LsOpX :=
  need (bitAt w 11 && fld w 0 11 == 0) ⟨fB w, fS1 w, fS2 w, BitVec.ofNat 30 c⟩

/-- LZ (R127). -/
def decScmp (w : Nat) : Option Instr :=
  let k (o : ZOperand) : Instr := .scmp (fB w) (fA w) (ScmpCond.ofCode (fld w 16 3)) (fin32 (fld w 11 5)) o
  if bitAt w 10 then some (k (.imm (BitVec.ofNat 10 (fld w 0 10))))
  else need (fld w 5 5 == 0) (k (.s (fin32 (fld w 0 5))))

/-- DBAR and XBAR (R350). -/
def decDieBar (w : Nat) (plain : Instr) (value : Fin 32 → Fin 32 → BarTy → RedOp → Instr) : Option Instr :=
  if bitAt w 3 then
    if fld w 6 6 == 0 then
      (BarTy.ofCode (fld w 4 2)).map fun ty => value (fS1 w) (fS2 w) ty (RedOp.ofCode (fld w 0 3))
    else none
  else need (fld w 0 22 == 0) plain

/-- ACCT (R288). -/
def decAcct (w : Nat) : Option Instr :=
  let b := fB w
  let a := fA w
  match fld w 0 6 with
  | 0 => need (fld w 6 13 == 0) (.acctTile b a)
  | 1 => need (fld w 6 13 == 0) (.acctVec b a)
  | 2 => need (fld w 6 9 == 0) (.acctLoad b a (fTA w))
  | 3 => need (fld w 6 9 == 0) (.acctStore b a (fTA w))
  | 4 => need (fld w 6 13 == 0) (.acctRmax b a)
  | 5 => need (fld w 6 13 == 0) (.acctRmin b a)
  | 6 => need (fld w 6 13 == 0) (.acctRsum b a)
  | 7 => need (fld w 11 8 == 0) (.acctRcol b a (fSt w))
  | 8 => need (fld w 11 8 == 0) (.acctWcol b a (fSt w))
  | _ => none

/-- PGREQ (R341). -/
def decPgreq (w : Nat) : Option Instr :=
  let b := fB w
  let d := fS1 w
  match fld w 0 17 with
  | 0 => some (.pgreqNow b d)
  | 1 => some (.pgreqDrain b d)
  | 2 => some (.pgreqUngate b d)
  | 3 => some (.pgreqCancel b d)
  | _ => none

/-- COPY, COPYM, GATH, SCAT (R328). -/
def decCopy (w : Nat) : CopyOp := ⟨fB w, fS1 w, fS2 w, fS3 w, bitAt w 6, fin64 (fld w 0 6)⟩

/-- Long ops (tag 0b00): majors of R122; none for a field that is not as the instruction has it. -/
def decLong (w : Nat) : Option Instr :=
  let b := fB w
  match fld w 22 7 with
  | 0x01 => (decLa w).map .add
  | 0x02 => (decLa w).map .sub
  | 0x03 => (decLa w).map .mul
  | 0x04 => (decLn w).map .min
  | 0x05 => (decLn w).map .max
  | 0x06 => (decLa2 w).map .mac
  | 0x07 => (decLa2 w).map .madd
  | 0x08 => (decLn w).map .mov
  | 0x09 => decUnary w
  | 0x0A => (decLn w).map .div
  | 0x0B => (decLn w).map .rem
  | 0x0C => (decLa w).map .fdiv
  | 0x0D => (decCmp w).map .cmp
  | 0x0E => (decSel w).map .sel
  | 0x0F => (decCvt w).map .cvt
  | 0x10 => (decLn w).map .and
  | 0x11 => (decLn w).map .or
  | 0x12 => (decLn w).map .xor
  | 0x13 => (decLn w).map .andn
  | 0x14 => (decLn w).map .shl
  | 0x15 => (decLn w).map .shr
  | 0x16 => (decLn w).map .sar
  | 0x17 => (decLn w).map .bfe
  | 0x18 => (decBfi w).map .bfi
  | 0x19 => (decXfn w).map .xfn
  | 0x1A => (decEmit w).map .emit
  | 0x1B => (decEmitp w).map .emitp
  | 0x1C => (decEmits w).map .emits
  | 0x1D => need (fld w 0 17 == 0) (.coll b (fS1 w))
  | 0x20 => some (.addLi (decLi w))
  | 0x21 => some (.movLi (decLi w))
  | 0x22 => some (.andLi (decLi w))
  | 0x23 => some (.orLi (decLi w))
  | 0x24 => some (.xorLi (decLi w))
  | 0x25 => (decLiShift w).map .shlLi
  | 0x26 => (decLiShift w).map .shrLi
  | 0x27 => (decLiShift w).map .sarLi
  | 0x28 => (decSys w).map .sysr
  | 0x29 => (decSys w).map .sysw
  | 0x2A => if fld w 0 12 == 0 then some (.phint (fS1 w) (fS2 w)) else need (fld w 0 22 == 1) .phintAll
  | 0x2B => need (fld w 1 11 == 0) (.boexp b (fS1 w) (fS2 w) (bitAt w 0))
  | 0x2C => need (fld w 1 11 == 0) (.bowait b (fS1 w) (fS2 w) (bitAt w 0))
  | 0x2D => need (fld w 0 7 == 0) (.tlwait b (fS1 w) (fS2 w) (fS3 w))
  | 0x2E => need (fld w 0 12 == 0) (.tlread b (fS1 w) (fS2 w))
  | 0x2F => need (fld w 4 13 == 0) (.cgrp b (fS1 w) (fin16 (fld w 0 4)))
  | 0x30 => (decLm w).map .ld
  | 0x31 => (decLm w).map .st
  | 0x32 => (decLm w).map .ldnt
  | 0x33 => (decLm w).map .stnt
  | 0x36 => (decScope w).map (.drain b)
  | 0x37 => (decScope w).map (.fence b)
  | 0x38 => decBar w
  | 0x39 => decBankmode w
  | 0x3A => need (fld w 4 13 == 0) (.spmap b (fS1 w) (fin16 (fld w 0 4)))
  | 0x3B => decVote w
  | 0x3C => decShfl w
  | 0x3D => decReduce w
  | 0x3E => decScan w
  | 0x40 => (decBraCond w).map fun c => .bra b c (BitVec.ofNat 17 (fld w 0 17))
  | 0x41 => if fld w 0 15 == 0 then (decRegSel w).map (.brx b) else none
  | 0x42 => need (!bitAt w 21) (.brd b (fin8 (fld w 18 3)) (bitAt w 17) (BitVec.ofNat 17 (fld w 0 17)))
  | 0x43 => need (fld w 15 7 == 0 && fld w 0 12 == 0) (.join b (fin8 (fld w 12 3)))
  | 0x44 => need (fld w 17 5 == 16) (.call b (BitVec.ofNat 17 (fld w 0 17)))
  | 0x45 => need (fld w 0 22 == 0) (.ret b)
  | 0x46 => need (fld w 0 22 == 0) (.exit b)
  | 0x47 => need (fld w 0 8 == 0) (.pblk b (fA w) (BitVec.ofNat 8 (fld w 11 8)) (fin8 (fld w 8 3)))
  | 0x48 => need (fld w 12 10 == 0) (.brk b (BitVec.ofNat 12 (fld w 0 12)))
  | 0x49 => need (fld w 12 10 == 0) (.trap b (BitVec.ofNat 12 (fld w 0 12)))
  | 0x4A => if fld w 0 22 == 0 then some (.reth b) else need (fld w 0 22 == 1) (.rethSkip b)
  | 0x4B => need (fld w 20 2 == 2 && fld w 0 15 == 0) (.fresume b (fin32 (fld w 15 5)))
  | 0x4C => need (fld w 20 2 == 2 && fld w 0 15 == 0) (.fkill b (fin32 (fld w 15 5)))
  | 0x4D => need (fld w 0 12 == 0) (.icinv b (fS1 w) (fS2 w))
  | 0x4E => if fld w 0 12 == 0 then some (.vinv b (fS1 w) (fS2 w))
            else need (fld w 0 7 == 1) (.vinvAs b (fS1 w) (fS2 w) (fS3 w))
  | 0x4F => if fld w 0 12 == 0 then some (.cflush b (fS1 w) (fS2 w))
            else need (fld w 0 12 == 1) (.cflushInv b (fS1 w) (fS2 w))
  | 0x50 => (decLs w).map .sadd
  | 0x51 => (decLs w).map .ssub
  | 0x52 => (decLs w).map .smul
  | 0x53 => (decLs w).map .sand
  | 0x54 => (decLs w).map .sor
  | 0x55 => (decLs w).map .sshl
  | 0x56 => (decLs w).map .sshr
  | 0x57 => if fld w 12 5 == 0 then (decSOperand w).map (.smov b (fS1 w)) else none
  | 0x58 => decScmp w
  | 0x59 => need (bitAt w 11) (.sld b (fS1 w) (fS2 w) (BitVec.ofNat 11 (fld w 0 11)))
  | 0x5A => need (fld w 0 7 == 0) (.launch b (fS1 w) (fS2 w) (fS3 w))
  | 0x5B => need (fld w 0 22 == 0) (.succ b)
  | 0x5C => if fld w 2 15 == 0 then some (.pwait b (fS1 w) (Fin.ofNat 4 (fld w 0 2)))
            else need (fld w 0 17 == 4) (.pwaitAll b (fS1 w))
  | 0x5D => need (fld w 17 2 == 0 && !bitAt w 3)
              (.redt b (fA w) (fin16 (fld w 13 4)) (fT w) (fS8 w) (RedOp.ofCode (fld w 0 3)))
  | 0x5E => decDieBar w (.dbar b) (.dbarValue b)
  | 0x5F => decDieBar w (.xbar b) (.xbarValue b)
  | 0x60 => need (fld w 19 3 == 0 && fld w 11 4 == 0 && fld w 0 6 == 0) (.tcfg b (fTA w) (fSt w))
  | 0x61 => need (fld w 19 3 == 0 && fld w 11 4 == 0 && fld w 1 5 == 0) (.tld b (fTA w) (fSt w) (bitAt w 0))
  | 0x62 => need (fld w 19 3 == 0 && fld w 11 4 == 0 && fld w 1 5 == 0) (.tst b (fTA w) (fSt w) (bitAt w 0))
  | 0x63 => need (fld w 19 3 == 0 && fld w 0 15 == 0) (.tzero b (fTA w))
  | 0x64 => decAcct w
  | 0x65 => need (fld w 1 10 == 0) (.mma b (fA w) (fTA w) (fTB w) (bitAt w 0))
  | 0x66 => need (fld w 1 7 == 0) (.mloop b (fA w) (fTA w) (fTB w) (fin8 (fld w 8 3)) (bitAt w 0))
  | 0x67 => need (fld w 1 7 == 0) (.mpair b (fA w) (fTA w) (fTB w) (fin8 (fld w 8 3)) (bitAt w 0))
  | 0x68 => need (fld w 11 8 == 0 && fld w 5 3 == 0) (.tmask b (fA w) (fin8 (fld w 8 3)) (fin32 (fld w 0 5)))
  | 0x69 => need (fld w 11 11 == 0 && fld w 0 7 == 0) (.maudit b (fin16 (fld w 7 4)))
  | 0x6A => need (fld w 11 11 == 0 && fld w 1 5 == 0) (.mstat b (fSt w) (bitAt w 0))
  | 0x6B => need (fld w 13 6 == 0 && fld w 0 9 == 0) (.vpush b (fA w) (fT w))
  | 0x6C => need (fld w 16 3 == 0 && fld w 0 9 == 0) (.vpushn b (fA w) (fin8 (fld w 13 3)) (fT w))
  | 0x6D => need (fld w 19 3 == 0 && fld w 0 9 == 0) (.vpop b (fG w) (fT w))
  | 0x6E => need (fld w 0 17 == 0) (.vfree b (fS1 w))
  | 0x6F => decPgreq w
  | 0x70 => some (.copy (decCopy w))
  | 0x71 => some (.copym (decCopy w))
  | 0x72 => some (.gath (decCopy w))
  | 0x73 => some (.scat (decCopy w))
  | 0x74 => need (fld w 6 11 == 0) (.tagwait b (fS1 w) (fin64 (fld w 0 6)))
  | 0x75 => need (fld w 0 12 == 0) (.tagfirst b (fS1 w) (fS2 w))
  | 0x76 => need (fld w 6 16 == 0) (.tagclr b (fin64 (fld w 0 6)))
  | 0x77 => need (fld w 0 12 == 0) (.boinit b (fS1 w) (fS2 w))
  | 0x78 => some (.nop b (BitVec.ofNat 22 (fld w 0 22)))
  | 0x79 | 0x7A | 0x7B | 0x7C | 0x7D | 0x7E | 0x7F =>
      some (.hint b (fin8 (fld w 22 3)) (BitVec.ofNat 22 (fld w 0 22)))
  | _ => none

/-- R124, and the majors that have no long form (R115). -/
def majorAssigned (m : Nat) : Bool := !(m == 0 || m == 0x1E || m == 0x1F || m == 0x3F)

/-- GRD (R118). -/
def decGuard (c : Nat) : Option (Option Guard) :=
  if bitAt c 29 then some (some ⟨fin8 (fld c 25 3), bitAt c 28⟩)
  else need (fld c 25 4 == 0) none

/-- IMM32 from CI and head G (R116). -/
def decImm32 (w ci : Nat) : Option W32 :=
  need (fld w 15 4 == 0) (BitVec.ofNat 32 (fld w 13 2 * 2 ^ 30 + ci))

/-- The operand of an extended LA form with one operand (R117); `ci` is the CI payload where CA.IX = 1. -/
def decXSrc (w : Nat) (ci : Option Nat) : Option XSrc :=
  match ci with
  | some ci => if fld w 0 6 == 0 then (decImm32 w ci).map .imm else none
  | none => (decSrc w).map fun
    | .g r => .g r
    | .s r => .s r

/-- The operand where G stands (R117). -/
def decGSrc (w : Nat) (ci : Option Nat) : Option GSrc :=
  match ci with
  | some ci => (decImm32 w ci).map .imm
  | none => some (.g (fG w))

/-- Extended LA with RM. -/
def decLaX (w : Nat) (ci : Option Nat) (g : Option Guard) : Option LaX :=
  (decXSrc w ci).bind fun src => (Rm.ofCode (fld w 6 3)).map fun rm => ⟨fB w, fA w, src, fT w, rm, g⟩

/-- Extended LA with RM zero. -/
def decLnX (w : Nat) (ci : Option Nat) (g : Option Guard) : Option LnX :=
  if fld w 6 3 == 0 then (decXSrc w ci).map fun src => ⟨fB w, fA w, src, fT w, g⟩ else none

/-- Extended MAC and MADD. -/
def decLa2X (w : Nat) (ci : Option Nat) (g : Option Guard) : Option La2X :=
  if bitAt w 0 then
    (decGSrc w ci).bind fun src => (Rm.ofCode (fld w 6 3)).map fun rm =>
      ⟨fB w, fA w, src, fT w, rm, fin32 (fld w 1 5), g⟩
  else none

/-- Extended BFI. -/
def decBfiX (w : Nat) (ci : Option Nat) (g : Option Guard) : Option BfiOpX :=
  if bitAt w 0 && fld w 6 3 == 0 then
    (decGSrc w ci).map fun src => ⟨fB w, fA w, src, fT w, fin32 (fld w 1 5), g⟩
  else none

/-- Extended major 0x09. -/
def decUnaryX (w : Nat) (ci : Option Nat) (g : Option Guard) : Option Instr :=
  (decGSrc w ci).bind fun src =>
    let o : UnX := ⟨fB w, fA w, src, fT w, g⟩
    match fld w 0 9 with
    | 0 => some (.negExt o)
    | 1 => some (.absExt o)
    | 2 => some (.notExt o)
    | 3 => some (.popcExt o)
    | 4 => some (.clzExt o)
    | 5 => some (.brevExt o)
    | _ => none

/-- Extended instructions with CA, and CI where CA.IX = 1 (R115, R116). `c` is the CA payload. OL and OLM
stand only on CVT (R119). -/
def decExtA (w c : Nat) (ci : Option Nat) : Option Instr :=
  if fld c 0 19 != 0 then none else
  (decGuard c).bind fun g =>
    let noOl := fld c 20 5 == 0
    let noImm := ci.isNone
    match fld w 22 7 with
    | 0x0F =>
        if !bitAt c 24 && fld c 20 4 != 0 then none else
        (decCvt w).bind fun o => (decGSrc w ci).map fun src =>
          .cvtExt ⟨o.b, o.a, src, o.t, o.rm, o.from_, o.sat,
            if bitAt c 24 then some (fin16 (fld c 20 4)) else none, g⟩
    | m =>
      if !noOl then none else
      match m with
      | 0x01 => (decLaX w ci g).map .addExt
      | 0x02 => (decLaX w ci g).map .subExt
      | 0x03 => (decLaX w ci g).map .mulExt
      | 0x04 => (decLnX w ci g).map .minExt
      | 0x05 => (decLnX w ci g).map .maxExt
      | 0x06 => (decLa2X w ci g).map .macExt
      | 0x07 => (decLa2X w ci g).map .maddExt
      | 0x08 => (decLnX w ci g).map .movExt
      | 0x09 => decUnaryX w ci g
      | 0x0A => (decLnX w ci g).map .divExt
      | 0x0B => (decLnX w ci g).map .remExt
      | 0x0C => (decLaX w ci g).map .fdivExt
      | 0x0D => (decCmp w).bind fun o => (decGSrc w ci).map fun src => .cmpExt ⟨o.b, o.a, src, o.t, o.d, o.c, g⟩
      | 0x0E => (decSel w).bind fun o => (decGSrc w ci).map fun src => .selExt ⟨o.b, o.a, src, o.t, o.p, o.n, g⟩
      | 0x10 => (decLnX w ci g).map .andExt
      | 0x11 => (decLnX w ci g).map .orExt
      | 0x12 => (decLnX w ci g).map .xorExt
      | 0x13 => (decLnX w ci g).map .andnExt
      | 0x14 => (decLnX w ci g).map .shlExt
      | 0x15 => (decLnX w ci g).map .shrExt
      | 0x16 => (decLnX w ci g).map .sarExt
      | 0x17 => (decLnX w ci g).map .bfeExt
      | 0x18 => (decBfiX w ci g).map .bfiExt
      | 0x19 => if noImm then (decXfn w).map fun o => .xfnExt ⟨o.b, o.a, o.t, o.rm, o.f, g⟩ else none
      | 0x1A => if noImm then (decEmit w).map fun o => .emitExt ⟨o.b, o.a, o.g, o.t, g⟩ else none
      | 0x1B => if noImm then (decEmitp w).map fun o => .emitpExt ⟨o.b, o.a, o.t, o.d, g⟩ else none
      | 0x1C => if noImm then (decEmits w).map fun o => .emitsExt ⟨o.b, o.a, o.t, o.d, g⟩ else none
      | _ => none

/-- LM with CM (R116, R119). -/
def decLmX (w c : Nat) : Option LmX :=
  if bitAt c 18 then none else
  (decMem w).bind fun m => (decGuard c).bind fun g => (Scope.ofCode (fld c 22 3)).map fun sc =>
    ⟨fB w, fA w, fT w, m, BitVec.ofNat 18 (fld c 0 18), Ord.ofCode (fld c 20 2), sc, bitAt c 19, g⟩

/-- LM with CQ (R116). -/
def decLmQ (w c : Nat) : Option LmQ :=
  (decMem w).bind fun m => (decGuard c).bind fun g => (Scope.ofCode (fld c 22 3)).map fun sc =>
    ⟨fB w, fA w, fT w, m, BitVec.ofNat 16 (fld c 0 16), Ord.ofCode (fld c 20 2), sc,
      BitVec.ofNat 4 (fld c 16 4), g⟩

/-- Extended heads with one continuation that is not CA. -/
def decExt1 (w c : Nat) : Option Instr :=
  let b := fB w
  match fld w 22 7 with
  | 0x30 => (decLmX w c).map .ldExt
  | 0x31 => (decLmX w c).map .stExt
  | 0x32 => (decLmX w c).map .ldntExt
  | 0x33 => (decLmX w c).map .stntExt
  | 0x34 => (decLmQ w c).map .atom
  | 0x35 => (decLmQ w c).map .waita
  | 0x38 => decBarNamed w c
  | 0x40 => if fld w 0 17 == 0 then (decBraCond w).map fun k => .braExt b k (BitVec.ofNat 30 c) else none
  | 0x42 => need (!bitAt w 21 && fld w 0 17 == 0)
              (.brdExt b (fin8 (fld w 18 3)) (bitAt w 17) (BitVec.ofNat 30 c))
  | 0x44 => need (fld w 17 5 == 16 && fld w 0 17 == 0) (.callExt b (BitVec.ofNat 30 c))
  | 0x50 => (decLsX w c).map .saddExt
  | 0x51 => (decLsX w c).map .ssubExt
  | 0x52 => (decLsX w c).map .smulExt
  | 0x53 => (decLsX w c).map .sandExt
  | 0x54 => (decLsX w c).map .sorExt
  | 0x55 => (decLsX w c).map .sshlExt
  | 0x56 => (decLsX w c).map .sshrExt
  | 0x57 => if fld w 12 5 == 0 then (decLsX w c).map fun o => .smovExt o.b o.d o.imm else none
  | 0x59 => (decLsX w c).map fun o => .sldExt o.b o.d o.a o.imm
  | 0x78 | 0x79 | 0x7A | 0x7B | 0x7C | 0x7D | 0x7E | 0x7F =>
      some (.hintExt b (fin8 (fld w 22 3)) (BitVec.ofNat 22 (fld w 0 22)) (BitVec.ofNat 30 c))
  | _ => none

/-- Majors of formats LA and LB, whose head takes CA and perhaps CI (R115). COLL is LE. -/
def takesCA (m : Nat) : Bool := 0x01 ≤ m && m ≤ 0x1C

/-- Majors whose extended form has one continuation (R115, R256). -/
def takesOne (m : Nat) : Bool :=
  (0x30 ≤ m && m ≤ 0x35) || m == 0x38 || m == 0x40 || m == 0x42 || m == 0x44
    || (0x50 ≤ m && m ≤ 0x57) || m == 0x59 || (0x78 ≤ m && m ≤ 0x7F)

/-- One short op (R113, R114): opcode in 13:9, A in 8:6, G in 5:0 of `op`. -/
def decShort (b slot : Bool) (op other : Nat) : Option Instr :=
  let x := BitVec.ofNat 14 other
  let o : ShortOp := ⟨b, slot, x, fin8 (fld op 6 3), fin64 (fld op 0 6)⟩
  match fld op 9 5 with
  | 0x00 => need (fld op 0 9 == 0) (.snop ⟨b, slot, x⟩)
  | 0x01 => some (.shortAddF32 o)
  | 0x02 => some (.shortSubF32 o)
  | 0x03 => some (.shortMulF32 o)
  | 0x04 => some (.shortMinF32 o)
  | 0x05 => some (.shortMaxF32 o)
  | 0x06 => some (.shortMovF32 o)
  | 0x07 => some (.shortNegF32 o)
  | 0x08 => some (.shortAddI32 o)
  | 0x09 => some (.shortSubI32 o)
  | 0x0A => some (.shortMulI32 o)
  | 0x0B => some (.shortMinI32 o)
  | 0x0C => some (.shortMaxI32 o)
  | 0x0D => some (.shortMinN32 o)
  | 0x0E => some (.shortMaxN32 o)
  | 0x0F => some (.shortAndN32 o)
  | 0x10 => some (.shortOrN32 o)
  | 0x11 => some (.shortXorN32 o)
  | 0x12 => some (.shortAndnN32 o)
  | 0x13 => some (.shortShlN32 o)
  | 0x14 => some (.shortShrN32 o)
  | 0x15 => some (.shortSarI32 o)
  | 0x16 => some (.shortPopcN32 o)
  | 0x17 => some (.shortClzN32 o)
  | 0x18 => some (.shortAddF64 o)
  | 0x19 => some (.shortMulF64 o)
  | 0x1A => some (.shortAddI64 o)
  | 0x1B => some (.shortEmit o)
  | 0x1C => some (.shortEmitN64 o)
  | _ => none

/-- The tag of a word (R102). -/
def tagOf (w : W32) : Nat := fld w.toNat 30 2

/-- The payload of a continuation (R102). -/
def payload (w : W32) : Nat := fld w.toNat 0 30

/-- How many words after the first an instruction needs, as far as its first words tell (R115). -/
def moreWords (w0 : W32) (w1 : Option W32) : Nat :=
  if tagOf w0 == 2 then
    if takesCA (fld w0.toNat 22 7) then
      match w1 with
      | some c => if tagOf c == 3 && bitAt c.toNat 19 then 2 else 1
      | none => 1
    else if takesOne (fld w0.toNat 22 7) then 1 else 0
  else 0

/-- A found instruction, or the named reason that there is none. -/
def orBad (n : Nat) (x : Option Instr) : Except DecodeError (Instr × Nat) :=
  match x with
  | some i => .ok (i, n)
  | none => .error .badFields

/-- Decode the instruction at a position of slot `slot`, whose word and following words are given, with the number
of its words. -/
def decodeWords (slot : Bool) (w0 : W32) (more : List W32) : Except DecodeError (Instr × Nat) :=
  let w := w0.toNat
  let m := fld w 22 7
  match tagOf w0 with
  | 1 =>
    if bitAt w 0 then .error .pairBitSet
    else
      match decShort (fB w) slot (if slot then fld w 1 14 else fld w 15 14)
          (if slot then fld w 15 14 else fld w 1 14) with
      | some i => .ok (i, 1)
      | none => .error .badShortOpcode
  | 0 =>
    if slot then .error .notAPair
    else if !majorAssigned m then .error .unassignedMajor
    else if m == 0x34 || m == 0x35 then .error .noSuchForm
    else orBad 1 (decLong w)
  | 2 =>
    if slot then .error .notAPair
    else if !majorAssigned m then .error .unassignedMajor
    else if takesCA m then
      match more with
      | c :: rest =>
        if tagOf c != 3 then .error .missingContinuation
        else if bitAt c.toNat 19 then
          match rest with
          | ci :: _ =>
            if tagOf ci != 3 then .error .missingContinuation
            else orBad 3 (decExtA w (payload c) (some (payload ci)))
          | [] => .error .missingContinuation
        else orBad 2 (decExtA w (payload c) none)
      | [] => .error .missingContinuation
    else if takesOne m then
      match more with
      | c :: _ => if tagOf c != 3 then .error .missingContinuation else orBad 2 (decExt1 w (payload c))
      | [] => .error .missingContinuation
    else .error .noSuchForm
  | _ => if slot then .error .notAPair else .error .strayContinuation

/-- The majors whose instructions name an accumulator and belong to its strand (R33, R107, R280). -/
def strandMajor (m : Nat) : Bool :=
  (0x01 ≤ m && m ≤ 0x1C) || (0x20 ≤ m && m ≤ 0x27) || (0x30 ≤ m && m ≤ 0x34) || (0x64 ≤ m && m ≤ 0x68) || m == 0x6B
    || m == 0x6C

/-- The strand of the instruction that a word names, whether or not its other fields are right (R125); none where the word names
no strand instruction. -/
def strandOfWord (slot : Bool) (w0 : W32) : Option (Fin 8) :=
  let w := w0.toNat
  match tagOf w0 with
  | 0 | 2 => if !slot && strandMajor (fld w 22 7) then some (fA w) else none
  | 1 =>
    let op := if slot then fld w 1 14 else fld w 15 14
    if bitAt w 0 || op / 2 ^ 9 == 0 || op / 2 ^ 9 > 0x1C then none else some (fin8 (op / 2 ^ 6 % 8))
  | _ => none

/-- Words of the table's numbering: bit 0 is the least significant bit of the first word (R3, R102). -/
def tableWords (w : Nat) : W32 × List W32 :=
  (BitVec.ofNat 32 w, [BitVec.ofNat 32 (w / 2 ^ 32), BitVec.ofNat 32 (w / 2 ^ 64)])

/-- The instruction the decoder reads from an instruction whose bits are w; the words above nbits are zero. -/
def decodeTableWord (nbits w : Nat) : Option Instr :=
  let t := tableWords (w % 2 ^ nbits)
  match decodeWords false t.1 t.2 with
  | .ok (i, _) => some i
  | .error _ => none

/-! The encoder, from the same layouts: R102, R107, R113, R116. -/

/-- Word of a long op: tag 0b00, B, major, fields. -/
def longW (b : Bool) (m f : Nat) : W32 := BitVec.ofNat 32 (b.toNat * 2 ^ 29 + m * 2 ^ 22 + f)

/-- Word of an extended head: tag 0b10. -/
def headW (b : Bool) (m f : Nat) : W32 := BitVec.ofNat 32 (2 ^ 31 + b.toNat * 2 ^ 29 + m * 2 ^ 22 + f)

/-- A continuation word: tag 0b11. -/
def contW (p : Nat) : W32 := BitVec.ofNat 32 (3 * 2 ^ 30 + p)

/-- Word of a short pair: tag 0b01, the first op in 28:15, the second in 14:1. -/
def pairW (b : Bool) (first second : Nat) : W32 :=
  BitVec.ofNat 32 (2 ^ 30 + b.toNat * 2 ^ 29 + first * 2 ^ 15 + second * 2)

/-- G, S and SX of one operand. -/
def encSrc : Src → Nat
  | .g r => r.val * 2 ^ 13
  | .s r => r.val * 2 + 1

/-- A, operand, T of LA. -/
def encLn (a : Fin 8) (src : Nat) (t : Ty) : Nat := a.val * 2 ^ 19 + src + t.code * 2 ^ 9

/-- LA with RM. -/
def encLa (o : La) : Nat := encLn o.a (encSrc o.src) o.t + o.rm.code * 2 ^ 6

/-- LA with two operands. -/
def encLa2 (o : La2) : Nat :=
  encLn o.a (o.g.val * 2 ^ 13) o.t + o.rm.code * 2 ^ 6 + o.s.val * 2 + 1

/-- LI. -/
def encLi (o : Li) : Nat := o.a.val * 2 ^ 19 + o.t.code * 2 ^ 15 + o.imm.toNat

/-- LI of a shift. -/
def encLiShift (o : LiShift) : Nat := o.a.val * 2 ^ 19 + o.t.code * 2 ^ 15 + o.n.toNat

/-- Major 0x09. -/
def encUn (o : Un) (minor : Nat) : Nat := encLn o.a (o.g.val * 2 ^ 13) o.t + minor

/-- MINOR of CMP. -/
def encCmpMinor (d : Fin 8) (c : Cond) : Nat := d.val * 2 ^ 3 + c.code

/-- MINOR of SEL. -/
def encSelMinor (p : Fin 8) (n : Bool) : Nat := p.val * 2 ^ 3 + n.toNat * 2 ^ 2

/-- RM and MINOR of CVT. -/
def encCvtMinor (rm : Rm) (src : Ty) (m : Sat) : Nat := rm.code * 2 ^ 6 + src.code * 2 ^ 2 + m.code

/-- RS and REG. -/
def encRegSel : RegSel → Nat
  | .g r => r.val * 2 ^ 15
  | .s r => 2 ^ 21 + r.val * 2 ^ 15

/-- LY. -/
def encSys (o : SysOp) : Nat := encRegSel o.r + o.sreg.toNat

/-- G, SC, S, SP and GX of LM. -/
def encMem (m : MemOperand) : Nat :=
  m.s.val * 2 ^ 4 + m.sp.toNat * 2 +
    match m.idx with
    | some (g, k) => g.val * 2 ^ 13 + k.val * 2 ^ 2 + 1
    | none => 0

/-- LM. -/
def encLm (a : Fin 8) (t : Ty) (m : MemOperand) : Nat := a.val * 2 ^ 19 + t.code * 2 ^ 9 + encMem m

/-- S1, S2, S3 and X of LE. -/
def encLe (s1 s2 s3 x : Nat) : Nat := s1 * 2 ^ 17 + s2 * 2 ^ 12 + s3 * 2 ^ 7 + x

/-- The predicate mask in G. -/
def encRedMask : Option (Fin 8) → Nat
  | none => 0
  | some p => 2 ^ 18 + p.val * 2 ^ 13

/-- PRED and N. -/
def encBraCond : BraCond → Nat
  | .always => 8 * 2 ^ 18
  | .pred p n => p.val * 2 ^ 18 + n.toNat * 2 ^ 17

/-- IX and OPB of LS. -/
def encSOperand : SOperand → Nat
  | .s r => r.val
  | .imm v => 2 ^ 11 + v.toNat

/-- IX and OPB of LZ. -/
def encZOperand : ZOperand → Nat
  | .s r => r.val
  | .imm v => 2 ^ 10 + v.toNat

/-- LS. -/
def encLs (o : LsOp) : Nat := o.d.val * 2 ^ 17 + o.a.val * 2 ^ 12 + encSOperand o.o

/-- A, TA, TB, S and MINOR of LT. -/
def encLt (a ta tb s minor : Nat) : Nat :=
  a * 2 ^ 19 + ta * 2 ^ 15 + tb * 2 ^ 11 + s * 2 ^ 6 + minor

/-- One short op. -/
def encShort (op : Nat) (o : ShortOp) : List W32 :=
  let x := op * 2 ^ 9 + o.a.val * 2 ^ 6 + o.g.val
  [if o.slot then pairW o.b o.other.toNat x else pairW o.b x o.other.toNat]

/-- GRD. -/
def encGuard : Option Guard → Nat
  | none => 0
  | some g => 2 ^ 29 + g.n.toNat * 2 ^ 28 + g.p.val * 2 ^ 25

/-- Head bits of the operand of an extended LA form. -/
def encXSrc : XSrc → Nat
  | .g r => r.val * 2 ^ 13
  | .s r => r.val * 2 + 1
  | .imm v => v.toNat / 2 ^ 30 * 2 ^ 13

/-- Head bits of the operand where G stands. -/
def encGSrc : GSrc → Nat
  | .g r => r.val * 2 ^ 13
  | .imm v => v.toNat / 2 ^ 30 * 2 ^ 13

/-- IMM32, where the operand is one. -/
def XSrc.imm? : XSrc → Option W32
  | .imm v => some v
  | _ => none

/-- IMM32, where the operand is one. -/
def GSrc.imm? : GSrc → Option W32
  | .imm v => some v
  | _ => none

/-- The continuations CA and CI. -/
def contA (g : Option Guard) (ol : Nat) (imm : Option W32) : List W32 :=
  match imm with
  | none => [contW (encGuard g + ol)]
  | some v => [contW (encGuard g + ol + 2 ^ 19), contW (v.toNat % 2 ^ 30)]

/-- An extended LA form with one operand. -/
def extLa (m : Nat) (o : LaX) : List W32 :=
  headW o.b m (encLn o.a (encXSrc o.src) o.t + o.rm.code * 2 ^ 6) :: contA o.grd 0 o.src.imm?

/-- An extended LA form with RM zero. -/
def extLn (m : Nat) (o : LnX) : List W32 :=
  headW o.b m (encLn o.a (encXSrc o.src) o.t) :: contA o.grd 0 o.src.imm?

/-- Extended MAC and MADD. -/
def extLa2 (m : Nat) (o : La2X) : List W32 :=
  headW o.b m (encLn o.a (encGSrc o.src) o.t + o.rm.code * 2 ^ 6 + o.s.val * 2 + 1)
    :: contA o.grd 0 o.src.imm?

/-- An extended form whose operand stands where G stands, with the head's bits 8:0. -/
def extG (b : Bool) (m : Nat) (a : Fin 8) (src : GSrc) (t : Ty) (low : Nat) (g : Option Guard) (ol : Nat) :
    List W32 :=
  headW b m (encLn a (encGSrc src) t + low) :: contA g ol src.imm?

/-- LM with CM. -/
def extLm (m : Nat) (o : LmX) : List W32 :=
  [headW o.b m (encLm o.a o.t o.m),
   contW (encGuard o.grd + o.sc.code * 2 ^ 22 + o.ord.code * 2 ^ 20 + o.xd.toNat * 2 ^ 19 + o.off.toNat)]

/-- LM with CQ. -/
def extLq (m : Nat) (o : LmQ) : List W32 :=
  [headW o.b m (encLm o.a o.t o.m),
   contW (encGuard o.grd + o.sc.code * 2 ^ 22 + o.ord.code * 2 ^ 20 + o.aop.toNat * 2 ^ 16 + o.off.toNat)]

/-- LS with CS. -/
def extLs (m : Nat) (b : Bool) (d a : Fin 32) (imm : BitVec 30) : List W32 :=
  [headW b m (d.val * 2 ^ 17 + a.val * 2 ^ 12 + 2 ^ 11), contW imm.toNat]

/-- A named BAR. -/
def extBar (b : Bool) (form : Nat) (i : Fin 128) (n : Fin 17) : List W32 :=
  [headW b 0x38 (12 + form), contW (n.val * 2 ^ 8 + i.val)]

/-- MINOR of DBAR and XBAR with a value. -/
def encBarValue (d v : Fin 32) (ty : BarTy) (op : RedOp) : Nat :=
  encLe d.val v.val 0 (ty.code * 2 ^ 4 + 2 ^ 3 + op.code)

/-- COPY, COPYM, GATH, SCAT. -/
def encCopy (o : CopyOp) : Nat := encLe o.d.val o.f.val o.l.val (o.bo.toNat * 2 ^ 6 + o.k.val)

/-- SHFL. -/
def encShfl (a : Fin 8) (src : Src) (t : Ty) (m : ShflMode) : Nat :=
  a.val * 2 ^ 19 + t.code * 2 ^ 9 + m.code +
    match src with
    | .g r => r.val * 2 ^ 13
    | .s r => r.val * 2 ^ 4 + 2 ^ 2

/-- The words of an instruction; the steps of the device that have no word encode to none. A short op encodes to
its pair. -/
def encode : Instr → List W32
  | .add o => [longW o.b 0x01 (encLa o)]
  | .sub o => [longW o.b 0x02 (encLa o)]
  | .mul o => [longW o.b 0x03 (encLa o)]
  | .min o => [longW o.b 0x04 (encLn o.a (encSrc o.src) o.t)]
  | .max o => [longW o.b 0x05 (encLn o.a (encSrc o.src) o.t)]
  | .mac o => [longW o.b 0x06 (encLa2 o)]
  | .madd o => [longW o.b 0x07 (encLa2 o)]
  | .mov o => [longW o.b 0x08 (encLn o.a (encSrc o.src) o.t)]
  | .neg o => [longW o.b 0x09 (encUn o 0)]
  | .abs o => [longW o.b 0x09 (encUn o 1)]
  | .not o => [longW o.b 0x09 (encUn o 2)]
  | .popc o => [longW o.b 0x09 (encUn o 3)]
  | .clz o => [longW o.b 0x09 (encUn o 4)]
  | .brev o => [longW o.b 0x09 (encUn o 5)]
  | .div o => [longW o.b 0x0A (encLn o.a (encSrc o.src) o.t)]
  | .rem o => [longW o.b 0x0B (encLn o.a (encSrc o.src) o.t)]
  | .fdiv o => [longW o.b 0x0C (encLa o)]
  | .cmp o => [longW o.b 0x0D (encLn o.a (o.g.val * 2 ^ 13) o.t + encCmpMinor o.d o.c)]
  | .sel o => [longW o.b 0x0E (encLn o.a (o.g.val * 2 ^ 13) o.t + encSelMinor o.p o.n)]
  | .cvt o => [longW o.b 0x0F (encLn o.a (o.g.val * 2 ^ 13) o.t + encCvtMinor o.rm o.from_ o.sat)]
  | .and o => [longW o.b 0x10 (encLn o.a (encSrc o.src) o.t)]
  | .or o => [longW o.b 0x11 (encLn o.a (encSrc o.src) o.t)]
  | .xor o => [longW o.b 0x12 (encLn o.a (encSrc o.src) o.t)]
  | .andn o => [longW o.b 0x13 (encLn o.a (encSrc o.src) o.t)]
  | .shl o => [longW o.b 0x14 (encLn o.a (encSrc o.src) o.t)]
  | .shr o => [longW o.b 0x15 (encLn o.a (encSrc o.src) o.t)]
  | .sar o => [longW o.b 0x16 (encLn o.a (encSrc o.src) o.t)]
  | .bfe o => [longW o.b 0x17 (encLn o.a (encSrc o.src) o.t)]
  | .bfi o => [longW o.b 0x18 (encLn o.a (o.g.val * 2 ^ 13) o.t + o.s.val * 2 + 1)]
  | .xfn o => [longW o.b 0x19 (encLn o.a 0 o.t + o.rm.code * 2 ^ 6 + o.f.code)]
  | .emit o => [longW o.b 0x1A (encLn o.a (o.g.val * 2 ^ 13) o.t)]
  | .emitp o => [longW o.b 0x1B (encLn o.a 0 o.t + o.d.val * 2 ^ 3)]
  | .emits o => [longW o.b 0x1C (encLn o.a 0 o.t + o.d.val)]
  | .addLi o => [longW o.b 0x20 (encLi o)]
  | .movLi o => [longW o.b 0x21 (encLi o)]
  | .andLi o => [longW o.b 0x22 (encLi o)]
  | .orLi o => [longW o.b 0x23 (encLi o)]
  | .xorLi o => [longW o.b 0x24 (encLi o)]
  | .shlLi o => [longW o.b 0x25 (encLiShift o)]
  | .shrLi o => [longW o.b 0x26 (encLiShift o)]
  | .sarLi o => [longW o.b 0x27 (encLiShift o)]
  | .addExt o => extLa 0x01 o
  | .subExt o => extLa 0x02 o
  | .mulExt o => extLa 0x03 o
  | .minExt o => extLn 0x04 o
  | .maxExt o => extLn 0x05 o
  | .macExt o => extLa2 0x06 o
  | .maddExt o => extLa2 0x07 o
  | .movExt o => extLn 0x08 o
  | .negExt o => extG o.b 0x09 o.a o.src o.t 0 o.grd 0
  | .absExt o => extG o.b 0x09 o.a o.src o.t 1 o.grd 0
  | .notExt o => extG o.b 0x09 o.a o.src o.t 2 o.grd 0
  | .popcExt o => extG o.b 0x09 o.a o.src o.t 3 o.grd 0
  | .clzExt o => extG o.b 0x09 o.a o.src o.t 4 o.grd 0
  | .brevExt o => extG o.b 0x09 o.a o.src o.t 5 o.grd 0
  | .divExt o => extLn 0x0A o
  | .remExt o => extLn 0x0B o
  | .fdivExt o => extLa 0x0C o
  | .cmpExt o => extG o.b 0x0D o.a o.src o.t (encCmpMinor o.d o.c) o.grd 0
  | .selExt o => extG o.b 0x0E o.a o.src o.t (encSelMinor o.p o.n) o.grd 0
  | .cvtExt o =>
      extG o.b 0x0F o.a o.src o.t (encCvtMinor o.rm o.from_ o.sat) o.grd
        (match o.ol with
        | none => 0
        | some k => 2 ^ 24 + k.val * 2 ^ 20)
  | .andExt o => extLn 0x10 o
  | .orExt o => extLn 0x11 o
  | .xorExt o => extLn 0x12 o
  | .andnExt o => extLn 0x13 o
  | .shlExt o => extLn 0x14 o
  | .shrExt o => extLn 0x15 o
  | .sarExt o => extLn 0x16 o
  | .bfeExt o => extLn 0x17 o
  | .bfiExt o => extG o.b 0x18 o.a o.src o.t (o.s.val * 2 + 1) o.grd 0
  | .xfnExt o =>
      headW o.b 0x19 (encLn o.a 0 o.t + o.rm.code * 2 ^ 6 + o.f.code) :: contA o.grd 0 none
  | .emitExt o => headW o.b 0x1A (encLn o.a (o.g.val * 2 ^ 13) o.t) :: contA o.grd 0 none
  | .emitpExt o => headW o.b 0x1B (encLn o.a 0 o.t + o.d.val * 2 ^ 3) :: contA o.grd 0 none
  | .emitsExt o => headW o.b 0x1C (encLn o.a 0 o.t + o.d.val) :: contA o.grd 0 none
  | .snop o => [if o.slot then pairW o.b o.other.toNat 0 else pairW o.b 0 o.other.toNat]
  | .shortAddF32 o => encShort 0x01 o
  | .shortSubF32 o => encShort 0x02 o
  | .shortMulF32 o => encShort 0x03 o
  | .shortMinF32 o => encShort 0x04 o
  | .shortMaxF32 o => encShort 0x05 o
  | .shortMovF32 o => encShort 0x06 o
  | .shortNegF32 o => encShort 0x07 o
  | .shortAddI32 o => encShort 0x08 o
  | .shortSubI32 o => encShort 0x09 o
  | .shortMulI32 o => encShort 0x0A o
  | .shortMinI32 o => encShort 0x0B o
  | .shortMaxI32 o => encShort 0x0C o
  | .shortMinN32 o => encShort 0x0D o
  | .shortMaxN32 o => encShort 0x0E o
  | .shortAndN32 o => encShort 0x0F o
  | .shortOrN32 o => encShort 0x10 o
  | .shortXorN32 o => encShort 0x11 o
  | .shortAndnN32 o => encShort 0x12 o
  | .shortShlN32 o => encShort 0x13 o
  | .shortShrN32 o => encShort 0x14 o
  | .shortSarI32 o => encShort 0x15 o
  | .shortPopcN32 o => encShort 0x16 o
  | .shortClzN32 o => encShort 0x17 o
  | .shortAddF64 o => encShort 0x18 o
  | .shortMulF64 o => encShort 0x19 o
  | .shortAddI64 o => encShort 0x1A o
  | .shortEmit o => encShort 0x1B o
  | .shortEmitN64 o => encShort 0x1C o
  | .sysr o => [longW o.b 0x28 (encSys o)]
  | .sysw o => [longW o.b 0x29 (encSys o)]
  | .phint g m => [longW true 0x2A (encLe g.val m.val 0 0)]
  | .phintAll => [longW true 0x2A 1]
  | .boexp b a c na => [longW b 0x2B (encLe a.val c.val 0 na.toNat)]
  | .bowait b d a n => [longW b 0x2C (encLe d.val a.val 0 n.toNat)]
  | .tlwait b d h v => [longW b 0x2D (encLe d.val h.val v.val 0)]
  | .tlread b d h => [longW b 0x2E (encLe d.val h.val 0 0)]
  | .cgrp b c n => [longW b 0x2F (encLe c.val 0 0 n.val)]
  | .ld o => [longW o.b 0x30 (encLm o.a o.t o.m)]
  | .st o => [longW o.b 0x31 (encLm o.a o.t o.m)]
  | .ldnt o => [longW o.b 0x32 (encLm o.a o.t o.m)]
  | .stnt o => [longW o.b 0x33 (encLm o.a o.t o.m)]
  | .ldExt o => extLm 0x30 o
  | .stExt o => extLm 0x31 o
  | .ldntExt o => extLm 0x32 o
  | .stntExt o => extLm 0x33 o
  | .atom o => extLq 0x34 o
  | .waita o => extLq 0x35 o
  | .drain b sc => [longW b 0x36 (sc.code * 2 ^ 19)]
  | .fence b sc => [longW b 0x37 (sc.code * 2 ^ 19)]
  | .bar b => [longW b 0x38 0]
  | .barArrive b => [longW b 0x38 1]
  | .barWait b => [longW b 0x38 2]
  | .barGang b => [longW b 0x38 4]
  | .barArriveGang b => [longW b 0x38 5]
  | .barWaitGang b => [longW b 0x38 6]
  | .barLvl b s => [longW b 0x38 (encLe 0 s.val 0 8)]
  | .barArriveLvl b s => [longW b 0x38 (encLe 0 s.val 0 9)]
  | .barWaitLvl b s => [longW b 0x38 (encLe 0 s.val 0 10)]
  | .barNamed b i n => extBar b 0 i n
  | .barArriveNamed b i n => extBar b 1 i n
  | .barWaitNamed b i n => extBar b 2 i n
  | .bankmodeCache b n => [longW b 0x39 n.val]
  | .bankmodeScratch b n => [longW b 0x39 (16 + n.val)]
  | .bankmodeFifo b n => [longW b 0x39 (32 + n.val)]
  | .spmap b s w => [longW b 0x3A (encLe s.val 0 0 w.val)]
  | .voteAll b d s => [longW b 0x3B (d.val * 2 ^ 16 + s.val * 2 ^ 13)]
  | .voteAny b d s => [longW b 0x3B (d.val * 2 ^ 16 + s.val * 2 ^ 13 + 1)]
  | .voteBallot b d s => [longW b 0x3B (s.val * 2 ^ 13 + d.val * 2 ^ 4 + 2)]
  | .voteEq b a t d => [longW b 0x3B (a.val * 2 ^ 19 + d.val * 2 ^ 16 + t.code * 2 ^ 9 + 3)]
  | .shfl b a src t m => [longW b 0x3C (encShfl a src t m)]
  | .reduce o =>
      [longW o.b 0x3D (o.a.val * 2 ^ 19 + encRedMask o.mask + o.t.code * 2 ^ 9 + o.op.code +
        match o.dest with
        | some d => d.val * 2 ^ 4
        | none => 2 ^ 3)]
  | .scan o =>
      [longW o.b 0x3E (o.a.val * 2 ^ 19 + encRedMask o.mask + o.t.code * 2 ^ 9 +
        o.exclusive.toNat * 2 ^ 3 + o.op.code)]
  | .bra b c off => [longW b 0x40 (encBraCond c + off.toNat)]
  | .braExt b c off => [headW b 0x40 (encBraCond c), contW off.toNat]
  | .brx b r => [longW b 0x41 (encRegSel r)]
  | .brd b p n off => [longW b 0x42 (p.val * 2 ^ 18 + n.toNat * 2 ^ 17 + off.toNat)]
  | .brdExt b p n off => [headW b 0x42 (p.val * 2 ^ 18 + n.toNat * 2 ^ 17), contW off.toNat]
  | .join b j => [longW b 0x43 (j.val * 2 ^ 12)]
  | .call b off => [longW b 0x44 (8 * 2 ^ 18 + off.toNat)]
  | .callExt b off => [headW b 0x44 (8 * 2 ^ 18), contW off.toNat]
  | .ret b => [longW b 0x45 0]
  | .exit b => [longW b 0x46 0]
  | .pblk b p pat c => [longW b 0x47 (p.val * 2 ^ 19 + pat.toNat * 2 ^ 11 + c.val * 2 ^ 8)]
  | .brk b code => [longW b 0x48 code.toNat]
  | .trap b code => [longW b 0x49 code.toNat]
  | .reth b => [longW b 0x4A 0]
  | .rethSkip b => [longW b 0x4A 1]
  | .fresume b r => [longW b 0x4B (2 ^ 21 + r.val * 2 ^ 15)]
  | .fkill b r => [longW b 0x4C (2 ^ 21 + r.val * 2 ^ 15)]
  | .icinv b a l => [longW b 0x4D (encLe a.val l.val 0 0)]
  | .vinv b a l => [longW b 0x4E (encLe a.val l.val 0 0)]
  | .vinvAs b a l n => [longW b 0x4E (encLe a.val l.val n.val 1)]
  | .cflush b a l => [longW b 0x4F (encLe a.val l.val 0 0)]
  | .cflushInv b a l => [longW b 0x4F (encLe a.val l.val 0 1)]
  | .sadd o => [longW o.b 0x50 (encLs o)]
  | .ssub o => [longW o.b 0x51 (encLs o)]
  | .smul o => [longW o.b 0x52 (encLs o)]
  | .sand o => [longW o.b 0x53 (encLs o)]
  | .sor o => [longW o.b 0x54 (encLs o)]
  | .sshl o => [longW o.b 0x55 (encLs o)]
  | .sshr o => [longW o.b 0x56 (encLs o)]
  | .smov b d o => [longW b 0x57 (d.val * 2 ^ 17 + encSOperand o)]
  | .saddExt o => extLs 0x50 o.b o.d o.a o.imm
  | .ssubExt o => extLs 0x51 o.b o.d o.a o.imm
  | .smulExt o => extLs 0x52 o.b o.d o.a o.imm
  | .sandExt o => extLs 0x53 o.b o.d o.a o.imm
  | .sorExt o => extLs 0x54 o.b o.d o.a o.imm
  | .sshlExt o => extLs 0x55 o.b o.d o.a o.imm
  | .sshrExt o => extLs 0x56 o.b o.d o.a o.imm
  | .smovExt b d imm => extLs 0x57 b d 0 imm
  | .scmp b p c a o =>
      [longW b 0x58 (p.val * 2 ^ 19 + c.code * 2 ^ 16 + a.val * 2 ^ 11 + encZOperand o)]
  | .sld b d a off => [longW b 0x59 (d.val * 2 ^ 17 + a.val * 2 ^ 12 + 2 ^ 11 + off.toNat)]
  | .sldExt b d a off => extLs 0x59 b d a off
  | .launch b d q r => [longW b 0x5A (encLe d.val q.val r.val 0)]
  | .succ b => [longW b 0x5B 0]
  | .pwait b d n => [longW b 0x5C (encLe d.val 0 0 n.val)]
  | .pwaitAll b d => [longW b 0x5C (encLe d.val 0 0 4)]
  | .redt b a n t d op =>
      [longW b 0x5D (a.val * 2 ^ 19 + n.val * 2 ^ 13 + t.code * 2 ^ 9 + d.val * 2 ^ 4 + op.code)]
  | .dbar b => [longW b 0x5E 0]
  | .dbarValue b d v ty op => [longW b 0x5E (encBarValue d v ty op)]
  | .xbar b => [longW b 0x5F 0]
  | .xbarValue b d v ty op => [longW b 0x5F (encBarValue d v ty op)]
  | .coll b r => [longW b 0x1D (encLe r.val 0 0 0)]
  | .tcfg b n s => [longW b 0x60 (encLt 0 n.val 0 s.val 0)]
  | .tld b n s p => [longW b 0x61 (encLt 0 n.val 0 s.val p.toNat)]
  | .tst b n s p => [longW b 0x62 (encLt 0 n.val 0 s.val p.toNat)]
  | .tzero b n => [longW b 0x63 (encLt 0 n.val 0 0 0)]
  | .acctTile b a => [longW b 0x64 (encLt a.val 0 0 0 0)]
  | .acctVec b a => [longW b 0x64 (encLt a.val 0 0 0 1)]
  | .acctLoad b a n => [longW b 0x64 (encLt a.val n.val 0 0 2)]
  | .acctStore b a n => [longW b 0x64 (encLt a.val n.val 0 0 3)]
  | .acctRmax b a => [longW b 0x64 (encLt a.val 0 0 0 4)]
  | .acctRmin b a => [longW b 0x64 (encLt a.val 0 0 0 5)]
  | .acctRsum b a => [longW b 0x64 (encLt a.val 0 0 0 6)]
  | .acctRcol b a c => [longW b 0x64 (encLt a.val 0 0 c.val 7)]
  | .acctWcol b a c => [longW b 0x64 (encLt a.val 0 0 c.val 8)]
  | .mma b a ta tb z => [longW b 0x65 (encLt a.val ta.val tb.val 0 z.toNat)]
  | .mloop b a ta tb d z => [longW b 0x66 (encLt a.val ta.val tb.val (d.val * 4) z.toNat)]
  | .mpair b a ta tb d z => [longW b 0x67 (encLt a.val ta.val tb.val (d.val * 4) z.toNat)]
  | .tmask b a d n => [longW b 0x68 (encLt a.val 0 0 (d.val * 4) n.val)]
  | .maudit b d => [longW b 0x69 (encLt 0 0 0 (d.val * 2) 0)]
  | .mstat b d clr => [longW b 0x6A (encLt 0 0 0 d.val clr.toNat)]
  | .vpush b a t => [longW b 0x6B (a.val * 2 ^ 19 + t.code * 2 ^ 9)]
  | .vpushn b a d t => [longW b 0x6C (a.val * 2 ^ 19 + d.val * 2 ^ 13 + t.code * 2 ^ 9)]
  | .vpop b g t => [longW b 0x6D (g.val * 2 ^ 13 + t.code * 2 ^ 9)]
  | .vfree b d => [longW b 0x6E (encLe d.val 0 0 0)]
  | .pgreqNow b d => [longW b 0x6F (encLe d.val 0 0 0)]
  | .pgreqDrain b d => [longW b 0x6F (encLe d.val 0 0 1)]
  | .pgreqUngate b d => [longW b 0x6F (encLe d.val 0 0 2)]
  | .pgreqCancel b d => [longW b 0x6F (encLe d.val 0 0 3)]
  | .copy o => [longW o.b 0x70 (encCopy o)]
  | .copym o => [longW o.b 0x71 (encCopy o)]
  | .gath o => [longW o.b 0x72 (encCopy o)]
  | .scat o => [longW o.b 0x73 (encCopy o)]
  | .tagwait b d k => [longW b 0x74 (encLe d.val 0 0 k.val)]
  | .tagfirst b d m => [longW b 0x75 (encLe d.val m.val 0 0)]
  | .tagclr b k => [longW b 0x76 (encLe 0 0 0 k.val)]
  | .boinit b a c => [longW b 0x77 (encLe a.val c.val 0 0)]
  | .nop b p => [longW b 0x78 p.toNat]
  | .hint b h p => [longW b (0x78 + h.val) p.toNat]
  | .hintExt b h p q => [headW b (0x78 + h.val) p.toNat, contW q.toNat]
  | .lratioWrite _ => []
  | .trapVecWrite _ => []
  | .rangeAckComplete _ => []
  | .loadResponse _ => []
  | .storeAcceptance _ => []
  | .globalAcknowledgement _ => []
  | .acklostTimeout _ => []
  | .globalAckLoss _ => []
  | .homeAccess _ => []
  | .faultRingRecord _ => []
  | .handlerEntry _ => []
  | .deferredPop _ => []
  | .codeStoreFill _ => []
  | .lratioSwitch _ => []
  | .lratioResume _ => []
  | .fifoBankServe _ _ => []
  | .bankSwitchComplete _ _ => []
  | .barrierSwathRelease _ => []
  | .copyOpPerform _ => []
  | .boLanding _ _ _ => []
  | .copyOpComplete _ => []
  | .vxPushAdmit _ => []
  | .crownGateEffect _ => []
  | .crownWake _ => []
  | .matrixStep _ => []
  | .mpairBond _ => []
  | .mpairBondTimeout _ => []
  | .collEpisodeLost _ _ _ => []
  | .collOpComplete _ => []
  | .collSilenceTimeout _ => []
  | .nopRecord _ => []
  | .kernelRecord _ => []
  | .admitRecord _ => []
  | .withdrawRecord _ => []
  | .withdrawalComplete _ => []
  | .unknownRecord _ => []
  | .placementPass _ => []
  | .linkWindowEnd => []
  | .runShareWindowEnd _ => []
  | .refreshCharge _ => []
  | .governorSample _ => []
  | .forcedSave _ => []
  | .contextSave _ => []
  | .vaultScrubError _ _ => []
  | .dieReady _ => []
  | .linkDown _ => []
  | .linkUp _ => []
  | .scaleupPortDown _ _ => []
  | .scaleupPortUp _ _ _ _ _ => []
  | .barRead _ _ _ => []
  | .barWrite _ _ _ => []
  | .mqtail _ _ => []
  | .recover _ => []
  | .capabilityWrite _ _ _ => []
  | .packageReset => []
  | .viconfig _ _ => []
  | .partition _ _ => []
  | .ascreate _ _ => []
  | .asdestroy _ _ => []
  | .qreg _ _ => []
  | .qunreg _ _ => []
  | .setreg _ _ => []
  | .fifogrant _ _ => []
  | .save _ _ => []
  | .kill _ _ => []
  | .diereset _ _ => []
  | .gate _ _ => []
  | .subscribe _ _ => []
  | .attest _ _ => []
  | .debug _ _ => []
  | .ckptwin _ _ => []
  | .fabric _ _ => []
  | .update _ _ => []
  | .notifySample _ _ => []
  | .supplyLossWarning => []
  | .illegalEncoding => []
  | .pciExpressLinkUp => []
  | .pciExpressLinkDown => []

/-- The slot an instruction stands in: 1 for the second op of a short pair (R103). -/
def Instr.slot : Instr → Bool
  | .snop o => o.slot
  | .shortAddF32 o => o.slot
  | .shortSubF32 o => o.slot
  | .shortMulF32 o => o.slot
  | .shortMinF32 o => o.slot
  | .shortMaxF32 o => o.slot
  | .shortMovF32 o => o.slot
  | .shortNegF32 o => o.slot
  | .shortAddI32 o => o.slot
  | .shortSubI32 o => o.slot
  | .shortMulI32 o => o.slot
  | .shortMinI32 o => o.slot
  | .shortMaxI32 o => o.slot
  | .shortMinN32 o => o.slot
  | .shortMaxN32 o => o.slot
  | .shortAndN32 o => o.slot
  | .shortOrN32 o => o.slot
  | .shortXorN32 o => o.slot
  | .shortAndnN32 o => o.slot
  | .shortShlN32 o => o.slot
  | .shortShrN32 o => o.slot
  | .shortSarI32 o => o.slot
  | .shortPopcN32 o => o.slot
  | .shortClzN32 o => o.slot
  | .shortAddF64 o => o.slot
  | .shortMulF64 o => o.slot
  | .shortAddI64 o => o.slot
  | .shortEmit o => o.slot
  | .shortEmitN64 o => o.slot
  | _ => false

end Sys2Proof
end

