-- ==== Sys2Proof/Machine/Operands.lean ====
section
/-!
DEFINITION. Operands: which strand an instruction belongs to (R33-R35), the registers it reads and writes for the
presence rules (R155-R157), and the values its operand forms give (R55, R108, R110, R112, R117, R127).
-/

namespace Sys2Proof

/-- What kind of place an instruction has in its fragment. -/
inductive Place where
  /-- A strand instruction on SCk. -/
  | strand (k : Fin 8)
  /-- A meeting instruction (R35). -/
  | meeting
  /-- SNOP and hint words: no strand, no effect (R113, R123). -/
  | silent
  deriving DecidableEq, Repr

/-- A register, for the presence rules. -/
inductive RegName where
  | g (r : Fin 64)
  | s (r : Fin 32)
  | p (r : Fin 8)
  deriving DecidableEq, Repr

/-- What the presence rules need of a strand instruction: strand, guard, registers read, registers written. -/
structure Uses where
  a : Fin 8
  grd : Option Guard
  reads : List RegName
  writes : List RegName
  deriving DecidableEq, Repr

/-- The other register of a pair (R55). -/
def gPartner (r : Fin 64) : Fin 64 := Fin.ofNat 64 (r.val + 1)

/-- The general registers of an operand of type t. -/
def gRegs (t : Ty) (r : Fin 64) : List RegName :=
  if t.is64 then [.g r, .g (gPartner r)] else [.g r]

/-- Registers of an SX operand. -/
def Src.regs (t : Ty) : Src → List RegName
  | .g r => gRegs t r
  | .s r => [.s r]

/-- Registers of an extended operand. -/
def XSrc.regs (t : Ty) : XSrc → List RegName
  | .g r => gRegs t r
  | .s r => [.s r]
  | .imm _ => []

/-- Registers of an operand where G stands. -/
def GSrc.regs (t : Ty) : GSrc → List RegName
  | .g r => gRegs t r
  | .imm _ => []

/-- The predicate of a guard. -/
def guardRegs : Option Guard → List RegName
  | some g => [.p g.p]
  | none => []

/-- Registers of a memory operand: the base and the 32-bit index (R112, R234). -/
def MemOperand.regs (m : MemOperand) : List RegName :=
  .s m.s :: match m.idx with
    | some (g, _) => [.g g]
    | none => []

/-- A 32-bit shift count or field descriptor is one register whatever T is; SHL, SHR, SAR and BFE read 32 bits
(R191, R192). -/
def countTy : Ty := .n32

/-- Uses of a short op whose operand is G of type t. -/
def shortUses (t : Ty) (o : ShortOp) : Uses := ⟨o.a, none, gRegs t o.g, []⟩

/-- Uses of a strand instruction; none for every other instruction. -/
def Instr.uses : Instr → Option Uses
  | .add o | .sub o | .mul o | .fdiv o => some ⟨o.a, none, o.src.regs o.t, []⟩
  | .addExt o | .subExt o | .mulExt o | .fdivExt o => some ⟨o.a, o.grd, o.src.regs o.t, []⟩
  | .min o | .max o | .mov o | .div o | .rem o | .and o | .or o | .xor o | .andn o =>
      some ⟨o.a, none, o.src.regs o.t, []⟩
  | .minExt o | .maxExt o | .movExt o | .divExt o | .remExt o | .andExt o | .orExt o | .xorExt o | .andnExt o =>
      some ⟨o.a, o.grd, o.src.regs o.t, []⟩
  | .shl o | .shr o | .sar o | .bfe o => some ⟨o.a, none, o.src.regs countTy, []⟩
  | .shlExt o | .shrExt o | .sarExt o | .bfeExt o => some ⟨o.a, o.grd, o.src.regs countTy, []⟩
  | .mac o | .madd o => some ⟨o.a, none, .s o.s :: gRegs o.t o.g, []⟩
  | .macExt o | .maddExt o => some ⟨o.a, o.grd, .s o.s :: o.src.regs o.t, []⟩
  | .addLi o | .movLi o | .andLi o | .orLi o | .xorLi o => some ⟨o.a, none, [], []⟩
  | .shlLi o | .shrLi o | .sarLi o => some ⟨o.a, none, [], []⟩
  | .neg o | .abs o | .not o | .popc o | .clz o | .brev o => some ⟨o.a, none, gRegs o.t o.g, []⟩
  | .negExt o | .absExt o | .notExt o | .popcExt o | .clzExt o | .brevExt o =>
      some ⟨o.a, o.grd, o.src.regs o.t, []⟩
  | .cmp o => some ⟨o.a, none, gRegs o.t o.g, [.p o.d]⟩
  | .cmpExt o => some ⟨o.a, o.grd, o.src.regs o.t, [.p o.d]⟩
  | .sel o => some ⟨o.a, none, .p o.p :: gRegs o.t o.g, []⟩
  | .selExt o => some ⟨o.a, o.grd, .p o.p :: o.src.regs o.t, []⟩
  | .cvt o => some ⟨o.a, none, if o.t == .si8 || o.from_ == .si8 then [.g o.g] else [], []⟩
  | .cvtExt o => some ⟨o.a, o.grd,
      (if o.t == .si8 || o.from_ == .si8 then o.src.regs .n32 else []) ++
        (match o.ol with
        | some k => [.s (Fin.ofNat 32 (2 * k.val)), .s (Fin.ofNat 32 (2 * k.val + 1))]
        | none => []), []⟩
  | .bfi o => some ⟨o.a, none, .s o.s :: gRegs o.t o.g, []⟩
  | .bfiExt o => some ⟨o.a, o.grd, .s o.s :: o.src.regs o.t, []⟩
  | .xfn o => some ⟨o.a, none, [], []⟩
  | .xfnExt o => some ⟨o.a, o.grd, [], []⟩
  | .emit o => some ⟨o.a, none, [], gRegs o.t o.g⟩
  | .emitExt o => some ⟨o.a, o.grd, [], gRegs o.t o.g⟩
  | .emitp o => some ⟨o.a, none, [], [.p o.d]⟩
  | .emitpExt o => some ⟨o.a, o.grd, [], [.p o.d]⟩
  | .emits o => some ⟨o.a, none, [], [.s o.d]⟩
  | .emitsExt o => some ⟨o.a, o.grd, [], [.s o.d]⟩
  | .shortAddF32 o | .shortSubF32 o | .shortMulF32 o | .shortMinF32 o | .shortMaxF32 o | .shortMovF32 o
  | .shortNegF32 o | .shortAddI32 o | .shortSubI32 o | .shortMulI32 o | .shortMinI32 o | .shortMaxI32 o
  | .shortMinN32 o | .shortMaxN32 o | .shortAndN32 o | .shortOrN32 o | .shortXorN32 o | .shortAndnN32 o
  | .shortShlN32 o | .shortShrN32 o | .shortSarI32 o | .shortPopcN32 o | .shortClzN32 o => some (shortUses .n32 o)
  | .shortAddF64 o | .shortMulF64 o | .shortAddI64 o => some (shortUses .n64 o)
  | .shortEmit o => some ⟨o.a, none, [], [.g o.g]⟩
  | .shortEmitN64 o => some ⟨o.a, none, [], gRegs .n64 o.g⟩
  | .ld o | .st o | .ldnt o | .stnt o => some ⟨o.a, none, o.m.regs, []⟩
  | .ldExt o | .stExt o | .ldntExt o | .stntExt o => some ⟨o.a, o.grd, o.m.regs, []⟩
  | .atom o => some ⟨o.a, o.grd, o.m.regs, []⟩
  | .vpush _ a _ => some ⟨a, none, [], []⟩
  | .vpushn _ a d _ => some ⟨a, none, [], [.p d]⟩
  | .acctTile _ a | .acctVec _ a | .acctRmax _ a | .acctRmin _ a | .acctRsum _ a => some ⟨a, none, [], []⟩
  | .acctLoad _ a _ | .acctStore _ a _ => some ⟨a, none, [], []⟩
  | .acctRcol _ a _ | .acctWcol _ a _ => some ⟨a, none, [], []⟩
  | .mma _ a _ _ _ => some ⟨a, none, [], []⟩
  | .mloop _ a _ _ d _ | .mpair _ a _ _ d _ =>
      some ⟨a, none, (List.range 4).map fun i => .s (Fin.ofNat 32 (4 * d.val + i)), []⟩
  | .tmask _ a d _ => some ⟨a, none, (List.range 4).map fun i => .s (Fin.ofNat 32 (4 * d.val + i)), []⟩
  | _ => none

/-- The place of an instruction in its fragment (R33, R35, R113, R123). -/
def Instr.place (i : Instr) : Place :=
  match i.uses with
  | some u => .strand u.a
  | none =>
    match i with
    | .snop _ | .nop _ _ | .hint _ _ _ | .hintExt _ _ _ _ => .silent
    | _ => .meeting

/-- The registers of a SYSR or SYSW: a pair for a 64-bit system register and general registers (R176). -/
def sysRegs (o : SysOp) : List RegName :=
  match o.r with
  | .s r => [.s r]
  | .g r => if (sregInfo o.sreg).any fun i => i.wide then [.g r, .g (gPartner r)] else [.g r]

/-- Scalars that a meeting instruction reads, for the presence rule (R156). -/
def Instr.meetReads : Instr → List RegName
  | .sysw o => sysRegs o
  | .phint g m => [.s g, .s m]
  | .boexp _ a c _ => [.s a, .s c]
  | .bowait _ _ a _ => [.s a]
  | .tlwait _ _ h v => [.s h, .s v]
  | .tlread _ _ h => [.s h]
  | .cgrp _ c _ => [.s c]
  | .waita o => o.m.regs ++ guardRegs o.grd
  | .barLvl _ s | .barArriveLvl _ s | .barWaitLvl _ s => [.s s]
  | .spmap _ s _ => [.s s]
  | .voteAll _ _ s | .voteAny _ _ s | .voteBallot _ _ s => [.p s]
  | .shfl _ _ src _ _ => src.regs .n32
  | .reduce o => match o.mask with
      | some p => [.p p]
      | none => []
  | .scan o => match o.mask with
      | some p => [.p p]
      | none => []
  | .bra _ (.pred p _) _ | .braExt _ (.pred p _) _ => [.p p]
  | .brx _ (.s r) => [.s r]
  | .brx _ (.g r) => gRegs .n64 r
  | .brd _ p _ _ | .brdExt _ p _ _ => [.p p]
  | .pblk _ p _ _ => [.p p]
  | .fresume _ r | .fkill _ r => [.s r, .s (Fin.ofNat 32 (r.val + 1))]
  | .icinv _ a l | .vinv _ a l | .cflush _ a l | .cflushInv _ a l => [.s a, .s l]
  | .vinvAs _ a l n => [.s a, .s l, .s n]
  | .sadd o | .ssub o | .smul o | .sand o | .sor o | .sshl o | .sshr o =>
      .s o.a :: match o.o with
        | .s r => [.s r]
        | .imm _ => []
  | .saddExt o | .ssubExt o | .smulExt o | .sandExt o | .sorExt o | .sshlExt o | .sshrExt o => [.s o.a]
  | .smov _ _ (.s r) => [.s r]
  | .scmp _ _ _ a o => .s a :: match o with
      | .s r => [.s r]
      | .imm _ => []
  | .sld _ _ a _ | .sldExt _ _ a _ => [.s a]
  | .launch _ _ q r => [.s q, .s r]
  | .dbarValue _ _ v _ _ | .xbarValue _ _ v _ _ => [.s v]
  | .coll _ r => [.s r]
  | .tcfg _ _ s => [.s s]
  | .tld _ _ s p | .tst _ _ s p => .s s :: if p then [.s (Fin.ofNat 32 (s.val + 1))] else []
  | .maudit _ d => [.s (Fin.ofNat 32 (2 * d.val)), .s (Fin.ofNat 32 (2 * d.val + 1))]
  | .copy o | .copym o => [.s o.d, .s o.f, .s o.l]
  | .gath o | .scat o => [.s o.d, .s o.f, .s o.l, .s (Fin.ofNat 32 (o.l.val + 1))]
  | .tagfirst _ _ m => [.s m]
  | .boinit _ a c => [.s a, .s c]
  | _ => []

/-- Registers that a meeting instruction writes, for R157 and R182. -/
def Instr.meetWrites : Instr → List RegName
  | .sysr o => sysRegs o
  | .bowait _ d _ _ | .tlwait _ d _ _ | .tlread _ d _ => [.s d]
  | .voteAll _ d _ | .voteAny _ d _ | .voteEq _ _ _ d => [.p d]
  | .voteBallot _ d _ => [.s d]
  | .reduce o => match o.dest with
      | some d => .s d :: if !o.op.plain && o.t.is64 then [.s (Fin.ofNat 32 (d.val + 1))] else []
      | none => []
  | .fresume _ r | .fkill _ r => [.s r]
  | .sadd o | .ssub o | .smul o | .sand o | .sor o | .sshl o | .sshr o => [.s o.d]
  | .saddExt o | .ssubExt o | .smulExt o | .sandExt o | .sorExt o | .sshlExt o | .sshrExt o => [.s o.d]
  | .smov _ d _ | .smovExt _ d _ => [.s d]
  | .scmp _ p _ _ _ => [.p p]
  | .sld _ d _ _ | .sldExt _ d _ _ => [.s d]
  | .launch _ d _ _ | .pwait _ d _ | .pwaitAll _ d => [.s d]
  | .redt _ _ _ _ d _ => [.s d]
  | .dbarValue _ d _ _ _ | .xbarValue _ d _ _ _ => [.s d]
  | .mstat _ d _ | .vfree _ d | .pgreqNow _ d | .pgreqDrain _ d | .pgreqUngate _ d | .pgreqCancel _ d => [.s d]
  | .tagwait _ d _ | .tagfirst _ d _ => [.s d]
  | .vpop _ g t => gRegs t g
  | _ => []

/-- A strand instruction whose lanes access memory (R67, R86, R284): through the lane's address, by outlier capture, or as the reads of
a matrix loop. -/
def Instr.isMem : Instr → Bool
  | .ld _ | .ldExt _ | .st _ | .stExt _ | .ldnt _ | .ldntExt _ | .stnt _ | .stntExt _ | .atom _ => true
  | .mloop _ _ _ _ _ _ | .mpair _ _ _ _ _ _ => true
  | .cvtExt o => o.ol.isSome
  | _ => false

/-- The memory operand of LD and ST, which push to and pop from FIFO banks (R247). -/
def Instr.fifoOperand : Instr → Option MemOperand
  | .ld o | .st o => some o.m
  | .ldExt o | .stExt o => some o.m
  | _ => none

/-- The write flag of a memory instruction's record (R170). -/
def Instr.writesMem : Instr → Bool
  | .st _ | .stExt _ | .stnt _ | .stntExt _ | .atom _ => true
  | _ => false

/-- A strand instruction that acquires (R82, R86). -/
def Instr.acquires : Instr → Bool
  | .ldExt o => o.ord == .acq
  | .atom o => o.ord == .acq || o.ord == .ar
  | _ => false

/-- The scope of a release of a strand instruction (R82, R87, R337). -/
def Instr.releases : Instr → Option Scope
  | .stExt o => if o.ord == .rel then some o.sc else none
  | .atom o => if o.ord == .rel || o.ord == .ar then some o.sc else none
  | .vpush _ _ _ | .vpushn _ _ _ _ => some .gang
  | _ => none

/-- The blocking instructions, which end their run (R106). -/
def Instr.blocking : Instr → Bool
  | .join _ _ | .bar _ | .barArrive _ | .barWait _ | .barGang _ | .barArriveGang _ | .barWaitGang _
  | .barLvl _ _ | .barArriveLvl _ _ | .barWaitLvl _ _ | .barNamed _ _ _ | .barArriveNamed _ _ _
  | .barWaitNamed _ _ _ | .waita _ | .fence _ _ | .drain _ _ | .sld _ _ _ _ | .sldExt _ _ _ _
  | .tagwait _ _ _ | .bowait _ _ _ _ | .tlwait _ _ _ _ | .pwait _ _ _ | .pwaitAll _ _ | .vpush _ _ _
  | .vpop _ _ _ | .redt _ _ _ _ _ _ | .dbar _ | .dbarValue _ _ _ _ _ | .xbar _ | .xbarValue _ _ _ _ _
  | .coll _ _ | .mpair _ _ _ _ _ _ | .phint _ _ | .phintAll | .brk _ _ | .trap _ _ | .reth _ | .rethSkip _
  | .exit _ => true
  | _ => false

end Sys2Proof

/-! ### Values -/

namespace Sys2Proof.Machine

open Sys2Proof

/-- Low w bits of a 64-bit value. -/
def lowBits (t : Ty) (v : W64) : Nat := v.toNat % 2 ^ t.width

/-- A result written to a vector-mode accumulator (R151): an I type of 32 bits or fewer is sign-extended to 64 bits,
every other type zero-extended, a 64-bit result fills all. -/
def accImage (t : Ty) (v : Nat) : W64 :=
  if t.isSigned then sext64 t.width v else w64 (v % 2 ^ t.width)

/-- The low w bits of general register r in a lane, from the pair for a 64-bit type (R55). -/
def gValue (w : Warp) (t : Ty) (r : Fin 64) (l : Fin 32) : Nat :=
  if t.is64 then (w.g[r])[l].toNat + (w.g[gPartner r])[l].toNat * 2 ^ 32
  else (w.g[r])[l].toNat % 2 ^ t.width

/-- The low w bits of a scalar register (R55). -/
def sValue (w : Warp) (t : Ty) (r : Fin 32) : Nat := (w.s[r]).toNat % 2 ^ t.width

/-- An SX operand in a lane. -/
def srcValue (w : Warp) (t : Ty) (l : Fin 32) : Src → Nat
  | .g r => gValue w t r l
  | .s r => sValue w t r

/-- The lanes a guard leaves (R118). -/
def guardMask (w : Warp) : Option Guard → Mask
  | none => BitVec.allOnes 32
  | some g => if g.n then ~~~(w.p[g.p]) else w.p[g.p]

/-- The effective address of a lane (R112): base, scaled signed index, offset, modulo 2^64. -/
def effAddr (w : Warp) (m : MemOperand) (off : W64) (l : Fin 32) : W64 :=
  let idx : W64 := match m.idx with
    | some (g, k) => (w.g[g])[l].signExtend 64 <<< k.val
    | none => 0
  w.s[m.s] + idx + off

/-- Operand B of LS (R127). -/
def sOperand (w : Warp) : SOperand → W64
  | .s r => w.s[r]
  | .imm v => v.signExtend 64

/-- Operand B of LZ (R127). -/
def zOperand (w : Warp) : ZOperand → W64
  | .s r => w.s[r]
  | .imm v => v.signExtend 64

/-- RD or RS operand, scalar value where the scalar form stands. -/
def regSelLane (w : Warp) (l : Fin 32) : RegSel → W64
  | .g r => w64 ((w.g[r])[l].toNat + (w.g[gPartner r])[l].toNat * 2 ^ 32)
  | .s r => w.s[r]

end Sys2Proof.Machine
end

