-- ==== Sys2Proof/Machine/Find.lean ====
section
/-!
DEFINITION. Finding and replacing warps, fragments, units, interfaces and address spaces, and the words at a position.
-/

namespace Sys2Proof.Machine

open Sys2Proof

/-- An outcome of the machine. -/
abbrev Out := Host.Outcome State Fault Refusal

/-! ### Causes (R168) -/

/-- Bits of R168. -/
def cTRANSLATION : Nat := 0
def cPLACEMENT : Nat := 1
def cPERMSWAP : Nat := 2
def cILLEGAL : Nat := 8
def cMISTARGET : Nat := 9
def cUNLISTED : Nat := 10
def cNONCANON : Nat := 11
def cMISALIGNED : Nat := 12
def cPERMISSION : Nat := 13
def cMEMERR : Nat := 14
def cACKLOST : Nat := 15
def cFPEXC : Nat := 16
def cDIVZERO : Nat := 17
def cNONUNIFORM : Nat := 18
def cILLSTATE : Nat := 19
def cBARDEPTH : Nat := 20
def cFRAGEXH : Nat := 21
def cACCMODE : Nat := 22
def cACCFULL : Nat := 23
def cSPFAULT : Nat := 24
def cBANKFAULT : Nat := 25
def cVGATED : Nat := 26
def cCOLLTIMEOUT : Nat := 27
def cSOFTTRAP : Nat := 28
def cPRIVILEGE : Nat := 29
def cCSTACK : Nat := 30
def cMATRIX : Nat := 31
def cNESTED : Nat := 32

/-- The order of causes (R169, R284). -/
def causeRank (b : Nat) : Nat :=
  if b == cNONCANON then 0 else if b == cMISALIGNED then 1 else if b == cTRANSLATION then 2
  else if b == cPLACEMENT then 3 else if b == cPERMSWAP then 4 else if b == cPERMISSION then 5
  else if b == cMEMERR then 6 else 7

/-! ### Finding and replacing warps and fragments -/

/-- The warp stands in slot `slot` of core `core`. -/
def sameWarp (core slot : Nat) (w : Warp) : Bool := w.core == core && w.slot == slot

/-- The resident warp of a slot. -/
def State.warp? (s : State) (core slot : Nat) : Option Warp := s.warps.find? (sameWarp core slot)

/-- Replace the warp that stands in w's slot. -/
def State.setWarp (s : State) (w : Warp) : State :=
  { s with warps := replaceAll (sameWarp w.core w.slot) (fun _ => w) s.warps }

/-- A fragment of a warp. -/
def Warp.frag? (w : Warp) (uid : Nat) : Option Fragment := w.frags.find? fun f => f.uid == uid

/-- Replace the fragment with f's identity. -/
def Warp.setFrag (w : Warp) (f : Fragment) : Warp :=
  { w with frags := replaceAll (fun x => x.uid == f.uid) (fun _ => f) w.frags }

/-- The executing fragment with its warp. -/
structure Focus where
  c : Cursor
  w : Warp
  f : Fragment
  deriving DecidableEq, Repr

/-- The fragment the cursor names. -/
def State.focus? (s : State) : Option Focus :=
  match s.cursor with
  | none => none
  | some c =>
    match s.warp? c.core c.slot with
    | none => none
    | some w =>
      match w.frag? c.uid with
      | none => none
      | some f => some ⟨c, w, f⟩

/-- The effect of an instruction of a fragment, or the named fault where the cursor names none. -/
def onFocus (s : State) (k : Focus → State) : Out :=
  match s.focus? with
  | some x => .next (k x)
  | none => .fault .noFragment

/-- Put the executing warp and fragment back. -/
def put (s : State) (w : Warp) (f : Fragment) : State := s.setWarp (w.setFrag f)

/-- The die of a core (R10). -/
def dieOfCore (core : Nat) : Fin 4 := Fin.ofNat 4 (core / 64)

/-- The package core group of a core (R10). -/
def cgOfCore (core : Nat) : Fin 64 := Fin.ofNat 64 (core / 4)

/-- The rank of a core in its core group (R10). -/
def rankOf (core : Nat) : Nat := core % 4

/-- A core by its package index. -/
def coreFin (core : Nat) : Fin 256 := Fin.ofNat 256 core

/-- The vertical pair of a core (R10). -/
def pairOf (core : Nat) : Fin 128 := Fin.ofNat 128 (core / 2)

/-- A block by identity. -/
def State.block? (s : State) (id : Nat) : Option Block := s.blocks.find? fun b => b.id == id

/-- A gang by identity. -/
def State.gang? (s : State) (id : Nat) : Option Gang := s.gangs.find? fun g => g.id == id

/-- A die level by identity. -/
def State.level? (s : State) (id : Nat) : Option DieLevel := s.levels.find? fun d => d.id == id

/-- A launch by identity. -/
def State.launch? (s : State) (id : Nat) : Option Launch := s.launches.find? fun l => l.id == id

/-- What a warp belongs to: block, gang, die level, launch. -/
structure Owner where
  block : Block
  gang : Gang
  level : DieLevel
  launch : Launch
  deriving DecidableEq, Repr

/-- The units of a warp. -/
def State.owner? (s : State) (w : Warp) : Option Owner :=
  (s.block? w.block).bind fun b => (s.gang? b.gang).bind fun g => (s.level? g.level).bind fun d =>
    (s.launch? d.launch).map fun l => ⟨b, g, d, l⟩

/-- Every die runs a placement pass soon (R376). -/
def State.wakeDispatch (s : State) : State :=
  { s with dies := Vector.ofFn fun d => { s.dies[d] with passDue := true } }

/-- The address space a warp executes in; 0 where it has no launch. -/
def State.asidOf (s : State) (w : Warp) : Nat :=
  match s.owner? w with
  | some o => o.launch.asid
  | none => 0

/-- A virtual interface. -/
def State.iface? (s : State) (vi : Nat) : Option Iface := s.ifaces.find? fun i => i.vi == vi

/-- A partition of an interface. -/
def State.part? (s : State) (vi p : Nat) : Option Partition :=
  (s.iface? vi).bind fun i => i.parts.find? fun q => q.index == p

/-- The partition of a warp's launch. -/
def State.partOf (s : State) (w : Warp) : Option Partition :=
  (s.owner? w).bind fun o => s.part? o.launch.queue.vi o.launch.part

/-- An address space. -/
def State.space? (s : State) (asid : Nat) : Option AddrSpace := s.spaces.find? fun a => a.asid == asid

/-- The unretired lanes of a warp, U of R215. -/
def Warp.unretired (w : Warp) : Mask := ~~~w.retired

/-! ### Code words (R148) -/

/-- The word address of a position (R103). -/
def wordOf (p : Pos) : Nat := p.toNat / 2

/-- The slot of a position. -/
def slotOf (p : Pos) : Bool := p.getLsbD 0

/-- The position of a word address, modulo the 57-bit space (R103, R206). -/
def posOfWord (wa : Nat) : Pos := BitVec.ofNat 56 (wa % 2 ^ 55 * 2)

/-- The position of the code byte address in a 64-bit value. -/
def posOfAddr (a : W64) : Pos := posOfWord (a.toNat / 4)

/-- The byte address of a position's word. -/
def addrOfPos (p : Pos) : W64 := w64 (wordOf p * 4)

/-- A word in the code store of a core group. -/
def State.codeWord? (s : State) (cg : Fin 64) (asid wa : Nat) : Option W32 :=
  (s.cgs[cg].store.find? fun e => e.asid == asid && e.wa == wa).map fun e => e.word

/-- What stands at a position: an instruction with the position after it, a word that is no instruction (with the strand of
the instruction it names, R125), or words not in the code store (with the first one missing). -/
inductive Fetched where
  | instr (i : Instr) (next : Pos)
  | bad (e : DecodeError) (k : Option (Fin 8))
  | missing (wa : Nat)
  deriving DecidableEq, Repr

/-- The position after an instruction of n words at p; the first op of a short pair is followed by the second. -/
def nextPos (p : Pos) (pair : Bool) (n : Nat) : Pos :=
  if pair && !slotOf p then p + 1#56 else posOfWord (wordOf p + n)

/-- What stands at a position, by the word at each word address (R102-R104, R115). -/
def fetchBy (word : Nat → Option W32) (p : Pos) : Fetched :=
  let wa := wordOf p
  match word wa with
  | none => .missing wa
  | some w0 =>
    let w1 := word ((wa + 1) % 2 ^ 55)
    let n := moreWords w0 w1
    let w2 := word ((wa + 2) % 2 ^ 55)
    if n ≥ 1 && w1.isNone then .missing ((wa + 1) % 2 ^ 55)
    else if n ≥ 2 && w2.isNone then .missing ((wa + 2) % 2 ^ 55)
    else
      match decodeWords (slotOf p) w0 (w1.toList ++ (if w1.isSome then w2.toList else [])) with
      | .ok (i, k) => .instr i (nextPos p (tagOf w0 == 1) k)
      | .error e => .bad e (strandOfWord (slotOf p) w0)

/-- Fetch at a position (R148): from the code store. -/
def State.fetch (s : State) (cg : Fin 64) (asid : Nat) (p : Pos) : Fetched := fetchBy (s.codeWord? cg asid) p

end Sys2Proof.Machine
end

