-- ==== Sys2Proof/Machine/Memory.lean ====
section
/-!
DEFINITION. The device's memory: bytes by package physical address in canonical form, dirty bytes, uncorrectable
errors, indeterminate locations (R98), forwarded .E values (R422), physical and virtual addresses (R17, R412, R453),
translation at the home (R413-R417) and the routes between dies (R437, R439).
-/

namespace Sys2Proof.Machine

open Sys2Proof

/-! ### Byte lists in canonical form -/

/-- What an address reads as: an unlisted byte reads zero (log 1). -/
def cellRead : List Host.Cell → Nat → Byte
  | [], _ => 0
  | (k, v) :: cs, a => if k == a then v else cellRead cs a

/-- Put a byte in its place; a zero byte is not listed. -/
def cellWrite : List Host.Cell → Nat → Byte → List Host.Cell
  | [], a, b => if b == 0 then [] else [(a, b)]
  | (k, v) :: cs, a, b =>
    if a < k then (if b == 0 then (k, v) :: cs else (a, b) :: (k, v) :: cs)
    else if k == a then (if b == 0 then cs else (a, b) :: cs)
    else (k, v) :: cellWrite cs a b

/-- The canonical form: addresses strictly rising from lo, no entry zero. -/
def cellsFrom : Nat → List Host.Cell → Bool
  | _, [] => true
  | lo, (k, v) :: cs => decide (lo ≤ k) && v != 0 && cellsFrom (k + 1) cs

/-- The canonical form of a byte list. -/
def cellsWf (cs : List Host.Cell) : Bool := cellsFrom 0 cs

/-- Bytes from an address up. -/
def cellReads (cs : List Host.Cell) (a : Nat) : Nat → List Byte
  | 0 => []
  | n + 1 => cellRead cs a :: cellReads cs (a + 1) n

/-- Write bytes from an address up. -/
def cellWrites (cs : List Host.Cell) (a : Nat) : List Byte → List Host.Cell
  | [] => cs
  | b :: bs => cellWrites (cellWrite cs a b) (a + 1) bs

/-- The device memory's canonical form. -/
def Memory.wf (m : Memory) : Bool := cellsWf m.cells

/-! ### Memory -/

/-- A byte of the device's memory. -/
def Memory.byte (m : Memory) (pa : Nat) : Byte := cellRead m.cells pa

/-- A write performed at the home: the line is dirty until written back (R419), and an indeterminate location becomes
determinate (R98). -/
def Memory.put (m : Memory) (asid pa : Nat) (b : Byte) : Memory :=
  { m with
    cells := cellWrite m.cells pa b
    dirty := if m.dirty.any (fun d => d.1 == pa) then m.dirty else (pa, cellRead m.cells pa, asid) :: m.dirty
    indet := m.indet.filter fun d => d.pa != pa
    watch := m.watch.filter fun d => d.2.pa != pa }

/-- Write bytes from a physical address up. -/
def Memory.puts (m : Memory) (asid pa : Nat) : List Byte → Memory
  | [] => m
  | b :: bs => (m.put asid pa b).puts asid (pa + 1) bs

/-- The 32-byte unit holds an uncorrectable error (R424). -/
def Memory.poisoned (m : Memory) (pa n : Nat) : Bool :=
  m.poison.any fun u => pa / 32 ≤ u && u ≤ (pa + n - 1) / 32

/-- Write back the dirty bytes that satisfy a test: units with an uncorrectable error are not written and keep the earlier
value (R425), which the location then holds. The address spaces named by such lines' tags come with the result. (DESIGN CHOICE, log 26.) -/
def Memory.writeBack (m : Memory) (p : Nat → Bool) : Memory × List Nat :=
  let out := m.dirty.filter fun d => p d.1
  let bad := out.filter fun d => m.poison.contains (d.1 / 32)
  ({ m with
     cells := bad.foldl (fun cs d => cellWrite cs d.1 d.2.1) m.cells
     dirty := m.dirty.filter fun d => !p d.1
     poison := m.poison.filter fun u => !(bad.any fun d => d.1 / 32 == u) }, bad.map fun d => d.2.2)

/-- Lose the dirty bytes that satisfy a test: an abrupt die reset (R426). -/
def Memory.loseDirty (m : Memory) (p : Nat → Bool) : Memory × List Nat :=
  let out := m.dirty.filter fun d => p d.1
  ({ m with
     cells := out.foldl (fun cs d => cellWrite cs d.1 d.2.1) m.cells
     dirty := m.dirty.filter fun d => !p d.1 }, out.map fun d => d.2.2)

/-- A byte as a read finds it at the home: an indeterminate location gives any of its values; the bytes of one lost store go
together in one read (R80, R98). -/
def Memory.pick (m : Memory) (idx pa : Nat) : Byte :=
  match m.indet.find? fun d => d.pa == pa && Config.readsOld idx d.tag with
  | some d => d.byte
  | none => m.byte pa

/-- One byte as an agent of a die reads it: the die's latest forwarded value (R422), else the home's. -/
def State.byteFor (s : State) (die : Option (Fin 4)) (pa : Nat) : Byte :=
  match (s.forwards.reverse.find? fun f => !f.dropped && some f.die == die && f.pa == pa) with
  | some f => f.byte
  | none => s.mem.pick s.freeIndex pa

/-- A read of some bytes has drawn a free value. -/
def State.drawn (s : State) (pas : List Nat) : State :=
  if s.mem.indet.any fun d => pas.contains d.pa then { s with freeIndex := s.freeIndex + 1 } else s

/-- Bytes as an agent of a die reads them. -/
def State.bytesFor (s : State) (die : Option (Fin 4)) (pa n : Nat) : List Byte × State :=
  let pas := (List.range n).map fun k => pa + k
  (pas.map (s.byteFor die), s.drawn pas)

/-- What the loss of an acknowledgement would leave of the bytes that a store is about to replace. -/
def Memory.alts (m : Memory) (req : Nat) (pas : List Nat) : List (Nat × Alt) :=
  pas.flatMap fun a => (req, ⟨a, m.byte a, req⟩) :: (m.indet.filter fun d => d.pa == a).map fun d => (req, d)

/-- A store has been performed whose acknowledgement is on its way: its alternatives are kept. -/
def State.watching (s : State) (ds : List (Nat × Alt)) : State := { s with mem := { s.mem with watch := ds ++ s.mem.watch } }

/-- Bytes written past every cache (R250): what their vaults hold is what was written. -/
def State.undirty (s : State) (pas : List Nat) : State :=
  { s with mem := { s.mem with dirty := s.mem.dirty.filter fun d => !pas.contains d.1 } }

/-- Units of 32 bytes that a write of n bytes covers whole: their error is gone (R262). -/
def clearsUnit (pa n u : Nat) : Bool := pa ≤ 32 * u && 32 * u + 32 ≤ pa + n

/-- Write bytes at the home. -/
def State.memWrite (s : State) (asid pa : Nat) (bs : List Byte) : State :=
  let m := s.mem.puts asid pa bs
  { s with mem := { m with poison := m.poison.filter fun u => !clearsUnit pa bs.length u } }

/-! ### Physical addresses (R412, R453) -/

/-- A core group is granted to an interface. -/
def Iface.grants? (i : Iface) (d g : Nat) : Bool := i.cgs.getLsbD (16 * d + g)

/-- The granted core groups of a package die, ascending. -/
def Iface.cgsOf (i : Iface) (d : Nat) : List Nat := (List.range 16).filter (i.grants? d)

/-- The package dies that hold a granted core group, ascending. -/
def Iface.diesOf (i : Iface) : List Nat := (List.range 4).filter fun d => !(i.cgsOf d).isEmpty

/-- Package die of a logical die. -/
def Iface.packageDie (i : Iface) (l : Nat) : Option Nat := i.diesOf[l]?

/-- Logical die of a package die. -/
def Iface.logicalDie (i : Iface) (d : Nat) : Option Nat := i.diesOf.idxOf? d

/-- Package core group of a die by its logical number; the vault of the same number lies above it. -/
def Iface.packageCg (i : Iface) (d l : Nat) : Option Nat := (i.cgsOf d)[l]?

/-- Logical core group of a package core group of die d. -/
def Iface.logicalCg (i : Iface) (d g : Nat) : Option Nat := (i.cgsOf d).idxOf? g

/-- The place of home agent (logical die, logical vault) among the interface's agents (R417). -/
def Iface.agentIndex (i : Iface) (l v : Nat) : Option Nat :=
  match i.packageDie l with
  | none => none
  | some d =>
    if v < (i.cgsOf d).length then
      some (((i.diesOf.take l).map fun x => (i.cgsOf x).length).foldl (· + ·) 0 + v)
    else none

/-- A physical address of an interface as a package address; none where it lies in no vault and no share. Within a vault
the offset itself lies in the interface's share. -/
def Iface.toPackage (i : Iface) (pa : Nat) : Option Nat :=
  if pa / 2 ^ 47 % 2 == 0 then
    if pa / 2 ^ 38 % 2 ^ 9 != 0 then none
    else
      match i.packageDie (pa / 2 ^ 36 % 4) with
      | none => none
      | some d =>
        match i.packageCg d (pa / 2 ^ 32 % 16) with
        | none => none
        | some v =>
          let off := pa % 2 ^ 32
          if i.vaultBase ≤ off && off < i.vaultBase + i.vaultSize then some (d * 2 ^ 36 + v * 2 ^ 32 + off) else none
  else
    let off := pa % 2 ^ 40
    let n := (i.diesOf.map fun x => (i.cgsOf x).length).foldl (· + ·) 0
    if pa / 2 ^ 40 % 2 ^ 7 == 0 && i.tierBase ≤ off && off < i.tierBase + n * i.tierSize then some (2 ^ 47 + off)
    else none

/-- The die of the home agent of a package address: by its vault, or by the second-tier share that holds it (R417). -/
def State.dieOfPa (s : State) (pa : Nat) : Option Nat :=
  if pa < 2 ^ 47 then some (pa / 2 ^ 36)
  else
    let off := pa - 2 ^ 47
    (s.ifaces.filterMap fun i =>
      if i.tierSize == 0 || off < i.tierBase then none
      else
        let agents := i.diesOf.flatMap fun d => (i.cgsOf d).map fun _ => d
        agents[(off - i.tierBase) / i.tierSize]?).head?

/-! ### Translation (R413, R415) -/

/-- Kinds of access for translation. -/
inductive XKind where
  | read | write | atom | fetch
  deriving DecidableEq, Repr

/-- The kind reads data. -/
def XKind.reads : XKind → Bool
  | .read | .atom => true
  | _ => false

/-- The kind writes. -/
def XKind.writes : XKind → Bool
  | .write | .atom => true
  | _ => false

/-- What a translation gives: package address, home die, the entries used, and the PTE's package address. -/
structure Xlate where
  pa : Nat
  home : Nat
  e2 : W64
  pte : W64
  pteAt : Nat
  deriving DecidableEq, Repr

/-- One 64-bit entry of a table at a physical address of the interface, or the cause. -/
def State.readEntry (s : State) (i : Iface) (pa : Nat) : Except Nat (W64 × Nat) :=
  match i.toPackage pa with
  | none => .error cTRANSLATION
  | some p => if s.mem.poisoned p 8 then .error cMEMERR else .ok (w64 (leNat (cellReads s.mem.cells p 8)), p)

/-- The walk of R415 down to the region entry, with the reserved bits of each level. -/
def State.regionEntry (s : State) (i : Iface) (root va : Nat) : Except Nat W64 :=
  match s.readEntry i (root + 8 * (va / 2 ^ 42 % 2 ^ 15)) with
  | .error c => .error c
  | .ok (e1, _) =>
    if !e1.getLsbD 63 || bits e1 62 48 != 0 || bits e1 14 0 != 0 then .error cTRANSLATION
    else match s.readEntry i (bits e1 47 15 * 2 ^ 15 + 8 * (va / 2 ^ 30 % 2 ^ 12)) with
      | .error c => .error c
      | .ok (e2, _) =>
        if bits e2 63 62 == 0 || bits e2 59 48 != 0 || bits e2 16 0 != 0
            || (bits e2 63 62 == 2 && bits e2 61 60 != 0) then .error cTRANSLATION
        else .ok e2

/-- The walk of R415 down to the PTE, with the reserved bits of each level above it. -/
def State.walk (s : State) (i : Iface) (root va : Nat) : Except Nat (W64 × W64 × Nat) :=
  match s.regionEntry i root va with
  | .error c => .error c
  | .ok e2 =>
    match s.readEntry i (bits e2 47 17 * 2 ^ 17 + 8 * (va / 2 ^ 16 % 2 ^ 14)) with
    | .error c => .error c
    | .ok (pte, at_) => .ok (e2, pte, at_)

/-- The logical die of the home agent of an address (R76). -/
def homeLogical (e2 : W64) (va : Nat) : Nat := if bits e2 63 62 == 2 then va / 2 ^ 20 % 4 else bits e2 61 60

/-- InHome (R415). -/
def Iface.inHome (i : Iface) (frame : Nat) (e2 : W64) (va : Nat) : Bool :=
  let v := va / 2 ^ 16 % 16
  let l := homeLogical e2 va
  if bits e2 63 62 == 3 then
    match i.agentIndex l v with
    | none => false
    | some k =>
      let off := frame % 2 ^ 47
      frame / 2 ^ 47 % 2 == 1 && i.tierBase + k * i.tierSize ≤ off && off < i.tierBase + (k + 1) * i.tierSize
  else frame / 2 ^ 47 % 2 == 0 && frame / 2 ^ 36 % 4 == l && frame / 2 ^ 32 % 16 == v

/-- The checks of R415 on a PTE. -/
def Iface.check (i : Iface) (e2 pte : W64) (at_ va : Nat) (kind : XKind) : Except Nat Xlate :=
  let swap := bits pte 58 57
  let frame := bits pte 47 16 * 2 ^ 16
  if !pte.getLsbD 63 || swap == 3 || bits pte 56 48 != 0 || bits pte 15 2 != 0 then .error cTRANSLATION
  else if !i.inHome frame e2 va then .error cPLACEMENT
  else if swap == 1 || (swap == 2 && kind.writes) || (kind == .fetch && !pte.getLsbD 60) then .error cPERMSWAP
  else if (kind.reads && !pte.getLsbD 62) || (kind.writes && !pte.getLsbD 61) then .error cPERMISSION
  else match i.toPackage (frame + va % 2 ^ 16), i.packageDie (homeLogical e2 va) with
    | some p, some d => .ok { pa := p, home := d, e2 := e2, pte := pte, pteAt := at_ }
    | _, _ => .error cTRANSLATION

/-- The interface and root of an address space. -/
def State.rootOf (s : State) (asid : Nat) : Option (Iface × Nat) :=
  (s.space? asid).bind fun a => (s.iface? a.vi).map fun i => (i, a.root)

/-- Translate (R415) by the tables, or with `stale` by a cached translation where there is one (R95, R416). -/
def State.xlate (s : State) (asid va : Nat) (kind : XKind) (stale : Bool) : Except Nat Xlate :=
  match s.rootOf asid with
  | none => .error cTRANSLATION
  | some (i, root) =>
    match (if stale then s.tcache.find? fun t => t.asid == asid && t.page == va / 2 ^ 16 else none) with
    | some t =>
      match i.toPackage (bits t.e2 47 17 * 2 ^ 17 + 8 * (va / 2 ^ 16 % 2 ^ 14)) with
      | some at_ => i.check t.e2 t.pte at_ va kind
      | none => .error cTRANSLATION
    | none =>
      match s.walk i root va with
      | .error c => .error c
      | .ok (e2, pte, at_) => i.check e2 pte at_ va kind

/-- A translation that is used: A and D are set (R415) and the entries are cached (R416). -/
def State.useXlate (s : State) (asid va : Nat) (kind : XKind) (x : Xlate) : State :=
  let pte1 := x.pte ||| 1 ||| (if kind.writes then 2 else 0)
  let s1 := if pte1 == x.pte then s
    else
      let now := w64 (leNat (cellReads s.mem.cells x.pteAt 8))
      s.memWrite asid x.pteAt (leBytes 8 (now ||| 1 ||| (if kind.writes then 2 else 0)).toNat)
  let e : TcEntry := { asid := asid, page := va / 2 ^ 16, e2 := x.e2, pte := pte1 }
  { s1 with tcache := e :: s1.tcache.filter fun t => !(t.asid == asid && t.page == e.page) }

/-- The region entry that the tables hold for an address; 0, which is INVALID, where the walk to it fails. -/
def State.liveRegion (s : State) (asid va : Nat) : W64 :=
  match s.rootOf asid with
  | none => 0
  | some (i, root) =>
    match s.regionEntry i root va with
    | .ok e2 => e2
    | .error _ => 0

/-- The region entry that a core group holds for an address (R414). -/
def State.heldRegion (s : State) (cg : Option (Fin 64)) (asid va : Nat) : Option W64 :=
  (s.regions.find? fun r => some r.cg == cg && r.asid == asid && r.region == va / 2 ^ 30).map fun r => r.e2

/-- A core group that holds no entry for the region of an address takes the one that the tables hold (R414). -/
def State.noteRegion (s : State) (cg : Option (Fin 64)) (asid va : Nat) : State :=
  match cg, s.heldRegion cg asid va with
  | some c, none =>
    { s with regions := { cg := c, asid := asid, region := va / 2 ^ 30, e2 := s.liveRegion asid va } :: s.regions }
  | _, _ => s

/-- The region entry by which a requester chooses an address's home: the one its core group holds or the tables' own, as the
choice of the memory path says (R95, R414). -/
def State.regionOf (s : State) (cg : Option (Fin 64)) (asid va : Nat) : W64 :=
  match (if s.choice.stale then s.heldRegion cg asid va else none) with
  | some e2 => e2
  | none => s.liveRegion asid va

/-- The home die of an address by its requester's region entry, for reachability; none where the region is invalid there (R414).
(DEDUCED, log 35.) -/
def State.homeOf (s : State) (cg : Option (Fin 64)) (asid va : Nat) : Option Nat :=
  let e2 := s.regionOf cg asid va
  if bits e2 63 62 == 0 then none else (s.rootOf asid).bind fun r => r.1.packageDie (homeLogical e2 va)

/-! ### Reachability (R426, R439) -/

/-- Link k is up. -/
def State.linkUp (s : State) (k : Nat) : Bool := s.links[Fin.ofNat 4 k].up

/-- Messages pass from die a to die b, one way round or the other. -/
def State.route (s : State) (a b : Nat) : Bool :=
  if a == b then true
  else if (a + 1) % 4 == b then s.linkUp a || (s.linkUp (a + 1) && s.linkUp (a + 2) && s.linkUp (a + 3))
  else if (b + 1) % 4 == a then s.linkUp b || (s.linkUp (b + 1) && s.linkUp (b + 2) && s.linkUp (b + 3))
  else (s.linkUp a && s.linkUp (a + 1)) || (s.linkUp (a + 3) && s.linkUp (a + 2))

/-- The home die serves requests of a die now: it is ready and there is a route. -/
def State.serves (s : State) (src home : Nat) : Bool := s.dies[Fin.ofNat 4 home].ready && s.route src home

/-! ### Address-space access of engines and services -/

/-- Each byte of a virtual range with its translation; the cause and the address of the first that has none. -/
def State.xlates (s : State) (asid : Nat) (kind : XKind) (stale : Bool) : List Nat → Except (Nat × Nat) (List Xlate)
  | [] => .ok []
  | va :: vas =>
    match s.xlate asid va kind stale with
    | .error c => .error (c, va)
    | .ok x =>
      match s.xlates asid kind stale vas with
      | .error e => .error e
      | .ok xs => .ok (x :: xs)

/-- The pages that a range of n bytes meets, by one address in each: the first byte, then each page's start. -/
def pageStarts (va n : Nat) : List Nat :=
  if n == 0 then []
  else va :: (List.range ((va + n - 1) / 2 ^ 16 - va / 2 ^ 16)).map fun k => (va / 2 ^ 16 + k + 1) * 2 ^ 16

/-- The parts of a range of bytes that lie in one page each: address and length. -/
def pageParts (va n : Nat) : List (Nat × Nat) :=
  (pageStarts va n).map fun a => (a, min (va + n) ((a / 2 ^ 16 + 1) * 2 ^ 16) - a)

/-- An engine reads n bytes of an address space: the bytes, or the first cause with its address. -/
def State.readVa (s : State) (die : Option (Fin 4)) (asid va n : Nat) : Except (Nat × Nat) (List Byte × State) :=
  (pageParts va n).foldl (fun acc p =>
    match acc with
    | .error e => .error e
    | .ok (bs, s1) =>
      match s1.xlate asid p.1 .read false with
      | .error c => .error (c, p.1)
      | .ok x =>
        if s1.mem.poisoned x.pa p.2 then .error (cMEMERR, p.1)
        else
          let (more, s2) := (s1.useXlate asid p.1 .read x).bytesFor die x.pa p.2
          .ok (bs ++ more, s2)) (.ok ([], s))

/-- The translations that a read by `readVa` used where it met an uncorrectable error or a page without one: they take effect on the
tables (R415). -/
def State.readTouch (s : State) (asid va n : Nat) : State :=
  ((pageParts va n).foldl (fun acc p =>
    match acc.1, acc.2.xlate asid p.1 .read false with
    | true, .ok x => (!acc.2.mem.poisoned x.pa p.2, acc.2.useXlate asid p.1 .read x)
    | _, _ => (false, acc.2)) (true, s)).2

/-- An engine writes bytes to an address space; nothing is written where some page has no translation. -/
def State.writeVa (s : State) (asid va : Nat) (bs : List Byte) : Except (Nat × Nat) State :=
  match s.xlates asid .write false (pageStarts va bs.length) with
  | .error e => .error e
  | .ok _ =>
    .ok ((pageParts va bs.length).foldl (fun s1 p =>
      match s1.xlate asid p.1 .write false with
      | .error _ => s1
      | .ok x => (s1.useXlate asid p.1 .write x).memWrite asid x.pa ((bs.drop (p.1 - va)).take p.2)) s)

/-- The bytes written, or the state as it was where the write has no translation. -/
def State.tryWriteVa (s : State) (asid va : Nat) (bs : List Byte) : State :=
  match s.writeVa asid va bs with
  | .ok s1 => s1
  | .error _ => s

/-- A little-endian number of n bytes at a virtual address; none where it faults. -/
def State.readNum (s : State) (asid va n : Nat) : Option Nat :=
  match s.readVa none asid va n with
  | .ok (bs, _) => some (leNat bs)
  | .error _ => none

/-! ### Code words in memory (R148, R126, R143) -/

/-- The word at a word address as the code store would hold it, without filling: the store's copy, else memory through the
page tables; none where the fetch would fault. -/
def State.codeAt (s : State) (cg : Fin 64) (asid wa : Nat) : Option W32 :=
  match s.codeWord? cg asid wa with
  | some w => some w
  | none =>
    match s.xlate asid (wa * 4) .fetch false with
    | .ok x => some (w32 (leNat (cellReads s.mem.cells x.pa 4)))
    | .error _ => none

/-- The code object and kernel of a launch. -/
def State.kernelOf (s : State) (l : Launch) : Option (CodeObject × Kernel) :=
  (s.objects.find? fun o => o.asid == l.asid && o.base == l.obj).bind fun o => (o.kernels[l.kernel]?).map fun k => (o, k)

/-- The target bitmap of the executing kernel has the word (R143). -/
def State.listed (s : State) (w : Warp) (addr : Nat) : Bool :=
  match s.owner? w with
  | none => false
  | some o =>
    match s.kernelOf o.launch with
    | none => false
    | some (obj, k) => obj.code ≤ addr && addr % 4 == 0 && k.targets.contains ((addr - obj.code) / 4)

end Sys2Proof.Machine
end

