-- ==== Sys2Proof/Machine/Ops.lean ====
section
/-!
DEFINITION. The operations on fragments, warps and registers that every meaning shares: completing an instruction (R35, R36), stopping a fragment, taking an exception on either route and
returning from one (R166-R173), splitting (R39, R169) and the fold's entries (R163, R165).
-/

namespace Sys2Proof.Machine

open Sys2Proof

/-! ### Registers and presence (R154-R158) -/

/-- Write a 32-bit or 64-bit value to general register r in the lanes of a mask (R55). -/
def Warp.writeG (w : Warp) (wide : Bool) (r : Fin 64) (m : Mask) (v : Fin 32 → W64) : Warp :=
  let g1 := w.g.set r (Lanes.update w.g[r] m fun l => (v l).setWidth 32)
  if wide then
    let q := gPartner r
    { w with g := g1.set q (Lanes.update g1[q] m fun l => (v l).extractLsb' 32 32) }
  else { w with g := g1 }

/-- Write a scalar register and set its presence. -/
def Warp.writeS (w : Warp) (r : Fin 32) (v : W64) : Warp :=
  { w with s := w.s.set r v, sPresent := w.sPresent ||| (1#32 <<< r.val) }

/-- Write the bits of a predicate in the lanes of a mask. -/
def Warp.writeP (w : Warp) (r : Fin 8) (m v : Mask) : Warp :=
  { w with p := w.p.set r ((w.p[r] &&& ~~~m) ||| (v &&& m)) }

/-- Write an accumulator's vector or row value in the lanes of a mask. -/
def Warp.writeAcc (w : Warp) (a : Fin 8) (m : Mask) (v : Fin 32 → W64) : Warp :=
  let x := w.acc[a]
  { w with acc := w.acc.set a { x with val := Lanes.update x.val m v } }

/-- Set presence of a register in lanes (one bit for a scalar). -/
def Warp.setPresent (w : Warp) (m : Mask) : RegName → Warp
  | .g r => { w with gPresent := w.gPresent.set r (w.gPresent[r] ||| m) }
  | .p r => { w with pPresent := w.pPresent.set r (w.pPresent[r] ||| m) }
  | .s r => { w with sPresent := w.sPresent ||| (1#32 <<< r.val) }

/-- Clear presence of a register in lanes. -/
def Warp.clearPresent (w : Warp) (m : Mask) : RegName → Warp
  | .g r => { w with gPresent := w.gPresent.set r (w.gPresent[r] &&& ~~~m) }
  | .p r => { w with pPresent := w.pPresent.set r (w.pPresent[r] &&& ~~~m) }
  | .s r => { w with sPresent := w.sPresent &&& ~~~(1#32 <<< r.val) }

/-- A register is present in every lane of a mask. -/
def Warp.isPresent (w : Warp) (m : Mask) : RegName → Bool
  | .g r => (w.gPresent[r] &&& m) == m
  | .p r => (w.pPresent[r] &&& m) == m
  | .s r => w.sPresent.getLsbD r.val

/-- Set presence of a list of registers. -/
def Warp.setAllPresent (w : Warp) (m : Mask) (rs : List RegName) : Warp :=
  rs.foldl (fun w r => w.setPresent m r) w

/-! ### Completion (R35, R36) -/

/-- The fragment just after a meeting instruction: fence PC, fetch PC and every strand PC at `pos`, live bits and done
masks clear, no predicate-block record (R35). -/
def Fragment.atFence (f : Fragment) (pos : Pos) : Fragment :=
  { f with fetchPC := pos, fencePC := pos, strands := Vector.replicate 8 ⟨false, pos⟩
           done := Vector.replicate 8 0, pblk := none, covIdx := 0, pend := [] }

/-- A meeting instruction of the executing fragment completes and execution goes on at `pos`. -/
def finishMeeting (s : State) (w : Warp) (f : Fragment) (pos : Pos) : State :=
  put s w { f.atFence pos with status := .ready }

/-- A strand instruction at `pos` completes in every lane of its fragment: its strand's PC moves past it and the strand's
done mask clears (R36, R166). -/
def Fragment.strandDone (f : Fragment) (k : Fin 8) (pos next : Pos) : Fragment :=
  { f with strands := f.strands.set k ⟨true, next⟩, done := f.done.set k 0
           pend := f.pend.filter fun e => e.pos != pos }

/-- The registers that the dispatched instruction at a position writes. -/
def Fragment.writesAt (f : Fragment) (pos : Pos) : List RegName :=
  ((f.pend.filter fun e => e.pos == pos).filterMap fun e => e.instr.uses).flatMap fun u => u.writes

/-- The executing strand instruction completes: its writes are present in its lanes (R155). -/
def finishStrand (s : State) (c : Cursor) (w : Warp) (f : Fragment) (k : Fin 8) : State :=
  put s (w.setAllPresent f.lanes (f.writesAt c.pos)) (f.strandDone k c.pos c.next)

/-- The executing fragment waits and its instruction stands at its fence PC. -/
def waitHere (s : State) (w : Warp) (f : Fragment) (x : Wait) : State := put s w { f with status := .waiting x }

/-! ### The fold (R163, R165, R40) -/

/-- FRAG.ID.ENTRY of a fragment without an entry. -/
def noEntry : BitVec 9 := 511#9

/-- The home entry of a slot. -/
def homeEntry (slot : Nat) : BitVec 9 := BitVec.ofNat 9 (256 + slot)

/-- The pool entries of a core that are held. -/
def State.heldEntries (s : State) (core : Nat) : List Nat :=
  ((s.warps.filter fun w => w.core == core).flatMap fun w => w.frags.map fun f => f.entry.toNat).filter (· < 192)

/-- The lowest-numbered free pool entry of a core. -/
def State.freeEntry? (s : State) (core : Nat) : Option (BitVec 9) :=
  let held := s.heldEntries core
  ((List.range 192).find? fun e => !held.contains e).map (BitVec.ofNat 9)

/-- FOLD.STAT.FREE (R167). -/
def State.freeEntries (s : State) (core : Nat) : Nat := 192 - (s.heldEntries core).length

/-- The fragments of a core that run without an entry, lowest slot first and, in one warp, longest without (R165). A fragment that is
parked or stopped does not run, and claims no entry. (DESIGN CHOICE, log 48.) -/
def State.entryless (s : State) (core : Nat) : Option (Warp × Fragment) :=
  (minBy (fun wf => wf.1.slot * 2 ^ 64 + wf.2.noEntrySince)
    ((s.warps.filter fun w => w.core == core).flatMap fun w =>
      (w.frags.filter fun f => f.entry == noEntry && f.status != .parked && f.status != .stopped).map fun f => (w, f)))

/-- A free pool entry goes to a fragment that runs without one, as long as both exist (R165). -/
def State.grantEntries (s : State) (core : Nat) : Nat → State
  | 0 => s
  | n + 1 =>
    match s.freeEntry? core, s.entryless core with
    | some e, some (w, f) => State.grantEntries (put s w { f with entry := e }) core n
    | _, _ => s

/-- Entries were freed on a core. -/
def State.settleEntries (s : State) (core : Nat) : State := s.grantEntries core 48

/-- No core has both a free entry and a fragment that runs without one (R165). -/
def State.claimEntries (s : State) : State := ((s.warps.map fun w => w.core).eraseDups).foldl State.settleEntries s

/-- What stands at a position: in the code store, or, without filling it, in memory (R148). -/
def State.peek (s : State) (cg : Fin 64) (asid : Nat) (p : Pos) : Fetched := fetchBy (s.codeAt cg asid) p

/-- More positions than a code section has (R136). -/
def codePositions : Nat := 2 ^ 25

/-- The position, from p on, of the next instruction of strand k or of the next meeting instruction (R36). A position
that cannot be fetched ends the search. -/
def State.nextOfStrand (s : State) (cg : Fin 64) (asid : Nat) (k : Fin 8) : Nat → Pos → Pos
  | 0, p => p
  | n + 1, p =>
    match s.peek cg asid p with
    | .instr i next =>
      match i.place with
      | .strand j => if j == k then p else s.nextOfStrand cg asid k n next
      | .meeting => p
      | .silent => s.nextOfStrand cg asid k n next
    | _ => p

/-! ### Stopping a fragment (R36, R158) -/

/-- The dispatched instructions of strand k, oldest first. -/
def Fragment.pendOf (f : Fragment) (k : Fin 8) : List Pend :=
  f.pend.filter fun e => e.instr.place == .strand k

/-- Registers whose presence dispatched instructions have cleared. -/
def Fragment.clearedRegs (f : Fragment) : List RegName :=
  f.pend.flatMap fun e => match e.instr.uses with
    | some u => u.writes
    | none => []

/-- A result returned to a lane by a load or an ATOM is written as its instruction says (R249, R253); other instructions
write nothing. -/
def Warp.deliver (w : Warp) (i : Instr) (l : Fin 32) (v : W64) (flags : Nat) : Warp :=
  let put (a : Fin 8) (t : Ty) : Warp :=
    w.writeAcc a (maskOf (· == l)) fun _ => accImage t (lowBits t v)
  match i with
  | .ld o | .ldnt o => put o.a o.t
  | .ldExt o | .ldntExt o => put o.a o.t
  | .atom o =>
    let w1 := if o.aop == 7#4 then w.writeAcc o.a (maskOf (· == l)) fun _ => v else put o.a o.t
    { w1 with fpstat := w1.fpstat ||| w32 flags }
  | _ => w

/-- The fragment's requests in flight for an instruction position. -/
def reqOf (w : Warp) (uid : Nat) (pos : Pos) (r : Req) : Bool :=
  r.frag == ⟨w.core, w.slot, uid⟩ && r.pos == pos

/-- An answer is a value. -/
def Answer.isValue : Answer → Bool
  | .value _ _ => true
  | .cause _ _ => false

/-- What has been performed of a request, as its answer. -/
def Req.ans? (r : Req) : Option Answer :=
  match r.phase with
  | .performed a => some a
  | .accepted | .global => some (.value 0 0)
  | .issued => none

/-- The parts of a lane's access that have been performed (R80). -/
def State.laneParts (s : State) (w : Warp) (f : Fragment) (e : Pend) (l : Fin 32) : List Part :=
  (e.parts.filter fun p => p.lane == l) ++
  (s.reqs.filter fun r => reqOf w f.uid e.pos r && r.lane == l).filterMap fun r =>
    r.ans?.map fun a => ⟨l, r.idx, r.count, a⟩

/-- Every part of a lane's access has come back. -/
def wholeLane (ps : List Part) : Bool := ps.any fun p => ps.length == p.count

/-- The answer of a lane by its parts: the highest-ranked cause (R169), else the bytes put together. -/
def joinParts (ps : List Part) : Answer :=
  let cs := ps.filterMap fun p => match p.ans with
    | .cause b a => some (b, a)
    | .value _ _ => none
  match minBy (fun c => causeRank c.1) cs with
  | some (b, a) => .cause b a
  | none =>
    match ps with
    | [p] => p.ans
    | _ => .value (w64 (sumBy (fun p => match p.ans with
        | .value v _ => v.toNat * 2 ^ (8 * p.idx)
        | .cause _ _ => 0) ps)) 0

/-- The lanes of a dispatched instruction whose accesses have been performed: their effects stand, and they are not
executed again (R36). -/
def State.performedLanes (s : State) (w : Warp) (f : Fragment) (e : Pend) : Mask :=
  maskOf fun l =>
    (e.answers.any fun a => a.1 == l && a.2.isValue)
      || (let ps := s.laneParts w f e l; wholeLane ps && (joinParts ps).isValue)

/-- The values that have come back, or are on their way, to the lanes of a dispatched instruction. -/
def State.flightValues (s : State) (w : Warp) (f : Fragment) (e : Pend) : List (Fin 32 × W64 × Nat) :=
  ((e.answers ++ (lanesOf f.lanes).filterMap fun l =>
      let ps := s.laneParts w f e l
      if wholeLane ps then some (l, joinParts ps) else none).filterMap fun a => match a.2 with
    | .value v fl => some (a.1, v, fl)
    | .cause _ _ => none)

/-- A dispatched instruction has been performed in every lane of its fragment in which it executes. -/
def State.performedAll (s : State) (w : Warp) (f : Fragment) (e : Pend) : Bool :=
  let m := s.performedLanes w f e &&& f.lanes
  m != 0 && (e.lanes &&& f.lanes &&& ~~~m) == 0

/-- The dispatched instructions of strand k that a stop finds incomplete, oldest first. -/
def State.openOf (s : State) (w : Warp) (f : Fragment) (k : Fin 8) : List Pend :=
  (f.pendOf k).filter fun e => !s.performedAll w f e

/-- The strand PCs at a stop: the oldest instruction of the strand that has not completed, else the next instruction of the
strand or the next meeting instruction (R36). -/
def State.stopStrands (s : State) (w : Warp) (f : Fragment) : Vector StrandPC 8 :=
  Vector.ofFn fun k =>
    let x := f.strands[k]
    if x.live then
      match (s.openOf w f k).head? with
      | some e => ⟨true, e.pos⟩
      | none =>
        let from_ := ((f.pendOf k).getLast?.map fun e => e.next).getD x.pos
        ⟨true, s.nextOfStrand (cgOfCore w.core) (s.asidOf w) k codePositions from_⟩
    else x

/-- An .E store that its issuing die may read: its global point is still to come, or its acknowledgement (R83). -/
def Req.openE (r : Req) : Bool :=
  r.kind == .storeE && r.remote && (match r.phase with
    | .performed (.value _ _) | .accepted | .global => true
    | _ => false)

/-- A request that a stop cancels: one whose instruction waits for it (R158). An STNT goes on (R91), and so does an
.E store that has been accepted. -/
def Req.cancellable (r : Req) : Bool := r.kind != .stnt && !r.openE

/-- The instruction of an .E store that has been accepted has completed (R85). -/
def State.letGo (s : State) (r : Req) : Req :=
  if r.openE && !r.answered then
    { r with phase := if s.forwards.any (fun f => f.req == r.id) then .accepted else .global, answered := true
             acceptedAt := s.time }
  else r

/-- A waiting FIFO access without some lanes. -/
def FifoWait.drop (m : Mask) (x : FifoWait) : FifoWait :=
  let keep := fun {α : Type} (vs : List α) => (((lanesOf x.lanes).zip vs).filter fun v => !inMask m v.1).map Prod.snd
  { x with lanes := x.lanes &&& ~~~m, push := x.push.map keep, addrs := keep x.addrs }

/-- Waiting accesses without some lanes of a fragment (R247). -/
def dropLanes (fr : FragRef) (m : Mask) (xs : List FifoWait) : List FifoWait :=
  (replaceAll (fun x => x.frag == fr) (FifoWait.drop m) xs).filter fun x => x.lanes != 0

/-- A bank without the waiting pushes and pops of some lanes of a fragment. -/
def Bank.dropWaits (fr : FragRef) (m : Mask) (b : Bank) : Bank :=
  { b with pushes := dropLanes fr m b.pushes, pops := dropLanes fr m b.pops }

/-- Some bank of a core has a push or pop of a fragment waiting. -/
def Core.waitsFor (c : Core) (fr : FragRef) : Bool :=
  (List.finRange 12).any fun k => (c.banks[k].pushes ++ c.banks[k].pops).any fun x => x.frag == fr

/-- The cores without the FIFO accesses of some lanes of a fragment; unchanged where none waits. -/
def State.dropFifoWaits (s : State) (fr : FragRef) (m : Mask) : Vector Core 256 :=
  if (List.finRange 256).any fun c => s.cores[c].waitsFor fr then
    Vector.ofFn fun c => { s.cores[c] with banks := Vector.ofFn fun k => s.cores[c].banks[k].dropWaits fr m }
  else s.cores

/-- A group without some lanes. -/
def VPush.drop (m : Mask) (v : VPush) : VPush :=
  { v with lanes := v.lanes &&& ~~~m, entries := v.entries.map fun e => Lanes.update e m fun _ => 0 }

/-- The vertical pairs without the waiting pushes of a fragment that stops, or of those of its lanes that do (R338). -/
def State.dropPushes (s : State) (w : Warp) (uid : Nat) (m : Mask) : Vector Pair 128 :=
  let fr : FragRef := ⟨w.core, w.slot, uid⟩
  let p := s.pairs[pairOf w.core]
  if p.waits.any fun v => v.frag == fr then
    let whole := (w.frags.find? fun f => f.uid == uid).all fun f => (f.lanes &&& ~~~m) == 0
    let ws := if whole then p.waits.filter fun v => v.frag != fr
      else p.waits.map fun v => if v.frag == fr then v.drop m else v
    s.pairs.set (pairOf w.core) { p with waits := ws }
  else s.pairs

/-- A half of an MPAIR whose bond has ended waits for its bond again (R296). -/
def State.awaitBond (s : State) (r : FragRef) : State :=
  match (s.warp? r.core r.slot).bind fun w => (w.frag? r.uid).map fun f => (w, f) with
  | some (w, f) => if f.status == .ready then put s w { f with status := .waiting .bond } else s
  | none => s

/-- Stop a fragment by R36 and R158: its matrix loops stop at their step boundary (R293), and a partner half waits again
(R296); accesses of its dispatched instructions that have been performed complete, the others
are cancelled; the strand PCs and done masks say what has completed; every register is present in its lanes. -/
def State.stopFragment (s : State) (w : Warp) (f : Fragment) : State × Warp × Fragment :=
  let strands := s.stopStrands w f
  let done := Vector.ofFn fun k =>
    match (s.openOf w f k).head?, (f.pendOf k).head? with
    | some e, some d =>
      let m := s.performedLanes w f e &&& f.lanes
      (if d.pos == e.pos then f.done[k] ||| m else m : Mask)
    | none, some _ => 0
    | _, none => f.done[k]
  let w1 := f.pend.foldl (fun w e =>
    (s.flightValues w f e).foldl (fun w lv => w.deliver e.instr lv.1 lv.2.1 lv.2.2) w) w
  let w2 := w1.setAllPresent f.lanes f.clearedRegs
  let me : FragRef := ⟨w.core, w.slot, f.uid⟩
  let unbond := fun (m : MatrixOp) => if m.bond == some me then { m with bond := none, since := s.time } else m
  let s1 := { s with
    matrix := (s.matrix.filter fun m => m.frag != me).map unbond
    reqs := (s.reqs.filter fun (r : Req) => !(r.frag == me && inMask f.lanes r.lane && r.cancellable)).map fun (r : Req) =>
      if r.frag == me && inMask f.lanes r.lane then s.letGo r else r
    pairs := s.dropPushes w f.uid f.lanes
    cores := if f.pend.any (fun e => e.flight != 0) then s.dropFifoWaits me f.lanes else s.cores }
  let halves := (s.matrix.filter fun m => m.bond == some me).map fun m => m.frag
  (halves.foldl State.awaitBond s1, w2, { f with strands := strands, done := done, pend := [] })

/-! ### Causes (R168-R172) -/

/-- One lane's cause: lane, bit of TRAP.CAUSE, address for FAULT.ADDR. -/
abbrev LaneCause := Fin 32 × Nat × W64

/-- The causes of the recoverable route (R168). -/
def recoverable (b : Nat) : Bool := b == 0 || b == 1 || b == 2 || b == 32

/-- TRANSLATION, PLACEMENT, PERMSWAP and NESTED, which FRESUME clears (R225). -/
def recoverableBits : W64 := 0x0000_0001_0000_0007#64

/-- The bitmap of a list of causes. -/
def bitmapOf (cs : List LaneCause) : W64 := cs.foldl (fun m c => m ||| (1#64 <<< c.2.1)) 0

/-- The lanes of a list of causes. -/
def lanesOfCauses (cs : List LaneCause) : Mask := maskOf fun l => cs.any fun c => c.1 == l

/-- The lowest-numbered cause bit of a bitmap, 0 where it is empty. -/
def firstCause (m : W64) : Nat := ((List.range 33).find? fun b => m.getLsbD b).getD 0

/-- FAULT.ADDR of a lane by a list of causes. -/
def causeAddr (cs : List LaneCause) (l : Fin 32) : W64 := ((cs.find? fun c => c.1 == l).map fun c => c.2.2).getD 0

/-- What is common to one raising: TRAP.INFO.CODE, a write access, a fetch. -/
structure RaiseInfo where
  code : BitVec 16
  write : Bool
  fetch : Bool
  deriving DecidableEq, Repr

/-- No code, no access. -/
def RaiseInfo.plain : RaiseInfo := ⟨0, false, false⟩

/-- The stop information that a raising leaves (R174), joined to what already stands (R41). -/
def StopInfo.join (old : StopInfo) (cs : List LaneCause) (all : W64) (place : Place) (ri : RaiseInfo) : StopInfo :=
  let m := lanesOfCauses cs
  { lanes := old.lanes ||| m
    code := ri.code
    first := BitVec.ofNat 8 (firstCause all)
    meet := match place with
      | .strand _ => false
      | _ => true
    strand := match place with
      | .strand k => k
      | _ => 0
    addr := Lanes.of fun l => if inMask m l then causeAddr cs l else old.addr[l]
    write := ri.write
    fetch := ri.fetch }

/-- The strand number of a fault-ring record: 8 for a meeting instruction or a code fill (R170). -/
def ringStrand : Place → BitVec 8
  | .strand k => BitVec.ofNat 8 k.val
  | _ => 8

/-- The fault-ring record of a recoverable stop (R170): LANES are all the lanes that raised a cause, and VADDR is the access of the
lowest of them. (DEDUCED, log 23.) -/
def dueRecord (f : Fragment) (cs : List LaneCause) (place : Place) (ri : RaiseInfo) : DueRecord :=
  let rs := cs.filter fun c => recoverable c.2.1
  let m := lanesOfCauses cs
  { vaddr := ((lowest? m).map (causeAddr cs)).getD 0
    lanes := m
    done := match place with
      | .strand k => f.done[k]
      | _ => 0
    cause := BitVec.ofNat 8 (firstCause (bitmapOf rs))
    strand := ringStrand place
    flags := BitVec.ofNat 8 (b2n ri.write + 2 * b2n ri.fetch + 4 * b2n f.handler) }

/-- Handler-route causes of a bitmap. -/
def handlerBits (m : W64) : W64 := m &&& ~~~recoverableBits

/-- The record of NESTED (R170, R172): the new handler-route cause in FLAGS bits 7:3. -/
def nestedRecord (f : Fragment) (cs : List LaneCause) (place : Place) (ri : RaiseInfo) : DueRecord :=
  let m := lanesOfCauses cs
  { vaddr := ((lowest? m).map (causeAddr cs)).getD 0
    lanes := m
    done := match place with
      | .strand k => f.done[k]
      | _ => 0
    cause := 32
    strand := ringStrand place
    flags := BitVec.ofNat 8 (b2n ri.write + 2 * b2n ri.fetch + 4 * b2n f.handler + 8 * firstCause (handlerBits (bitmapOf cs))) }

/-- Handler entry (R171): the frame takes the fence PC, the strand PCs, the done masks, the predicate-block record and what
the stop left, with FIRST the lowest cause that still stands (R174); the fragment runs from TRAP.VEC in handler mode. -/
def Fragment.enterHandler (f : Fragment) (vec : W64) : Fragment :=
  let p := posOfAddr vec
  { f with
    frame := { fence := f.fencePC, pcv := f.strands, done := f.done, pblk := f.pblk
               info := { f.info with first := BitVec.ofNat 8 (firstCause f.causes) } }
    handler := true
    trapPending := false
    status := .ready
    fetchPC := p, fencePC := p
    strands := Vector.replicate 8 ⟨false, p⟩
    done := Vector.replicate 8 0
    pblk := none, covIdx := 0, pend := [], runLen := 0 }

/-- A change of the LCLK ratio is in progress on the core group (R160, R162). -/
def State.busy (s : State) (core : Nat) : Bool := (s.cgs[cgOfCore core].phase).isSome

/-- A stopped fragment with handler-route causes and no handler parks with NESTED (R171, R172); those causes are not
kept, and the replay raises them afresh. -/
def Fragment.nest (f : Fragment) : Fragment :=
  let r : DueRecord :=
    { vaddr := ((lowest? f.info.lanes).map fun l => f.info.addr[l]).getD 0
      lanes := f.info.lanes
      done := if f.info.meet then 0 else f.done[f.info.strand]
      cause := 32
      strand := if f.info.meet then 8 else BitVec.ofNat 8 f.info.strand.val
      flags := BitVec.ofNat 8 (b2n f.info.write + 2 * b2n f.info.fetch + 4 * b2n f.handler
        + 8 * firstCause (handlerBits f.causes)) }
  { f with causes := (f.causes &&& recoverableBits) ||| (1#64 <<< 32), status := .parked, trapPending := false
           due := f.due ++ [r] }

/-- The handler route for a stopped fragment that is not in handler mode: entry at once, NESTED where there is no handler,
or held while the ratio changes (R162, R171). -/
def State.handlerRoute (s : State) (w : Warp) (f : Fragment) : Fragment :=
  if s.busy w.core then { f with status := .waiting (.retry s.time none), trapPending := true }
  else if w.trapVec == 0 then f.nest
  else f.enterHandler w.trapVec

/-- Record causes against a fragment that has stopped and take its route (R169-R172): a recoverable cause parks it and a
record falls due; a handler-route cause enters the handler; in handler mode, or with no handler, it parks with
NESTED and the new cause is not recorded. In handler mode a raising of both kinds does both. (DESIGN CHOICE, log 23.) -/
def State.takeRoute (s : State) (w : Warp) (f : Fragment) (cs : List LaneCause) (place : Place) (ri : RaiseInfo) :
    Fragment :=
  let m := bitmapOf cs
  if (m &&& recoverableBits) != 0 then
    let nests : Bool := f.handler && handlerBits m != 0
    let all := f.causes ||| (if f.handler then m &&& recoverableBits else m) ||| (if nests then 1#64 <<< 32 else 0)
    let f1 := { f with causes := all, info := f.info.join cs all place ri, status := .parked, arrivedAt := s.clock }
    { f1 with due := f1.due ++ dueRecord f1 cs place ri ::
                (if nests then [nestedRecord f (cs.filter fun c => !recoverable c.2.1) place ri] else []) }
  else if f.handler || w.trapVec == 0 then
    let f1 := { f with causes := f.causes ||| (1#64 <<< 32), status := .parked, arrivedAt := s.clock }
    let f2 := if f.handler then f1 else { f1 with info := f.info.join cs (f.causes ||| m) place ri }
    { f2 with due := f2.due ++ [nestedRecord f cs place ri] }
  else
    let all := f.causes ||| m
    s.handlerRoute w
      { f with causes := all, info := f.info.join cs all place ri, arrivedAt := s.clock }

/-- The causes that have come back to lanes of a fragment's dispatched instructions, other than the one at `pos` (R41). -/
def Fragment.lateCauses (f : Fragment) (m : Mask) (pos : Pos) : List (Pend × List LaneCause) :=
  f.pend.filterMap fun e =>
    let cs := e.answers.filterMap fun a => match a.2 with
      | .cause b ad => if inMask m a.1 then some (a.1, b, ad) else none
      | .value _ _ => none
    if e.pos == pos || cs.isEmpty then none else some (e, cs)

/-- A cause that reaches a parked fragment adds to its bitmap, with a further record where it is recoverable (R41). -/
def Fragment.joinLate (f : Fragment) (late : Pend × List LaneCause) : Fragment :=
  let m := bitmapOf late.2
  let all := f.causes ||| m
  let place := late.1.instr.place
  let ri := { RaiseInfo.plain with write := late.1.instr.writesMem }
  let info := f.info.join late.2 all place ri
  let kept := { info with code := f.info.code, meet := f.info.meet, strand := f.info.strand, write := f.info.write }
  let f1 := { f with causes := all
                     info := if handlerBits m != 0 && handlerBits f.causes == 0 then info else kept }
  if (m &&& recoverableBits) == 0 then f1 else { f1 with due := f1.due ++ [dueRecord f1 late.2 place ri] }

/-- The causes that have come back when a fragment stops: they join the bitmap where it parks; the handler route, and handler
mode, cancel their instructions (R41, R158). -/
def Fragment.joinAll (f : Fragment) (late : List (Pend × List LaneCause)) : Fragment :=
  if f.status == .parked && !f.handler then late.foldl Fragment.joinLate f else f

/-- The empty stop information: nothing recorded. -/
def StopInfo.none : StopInfo := { lanes := 0, code := 0, first := 0, meet := false, strand := 0, addr := Lanes.all 0, write := false, fetch := false }

/-- The empty frame. -/
def Frame.none : Frame :=
  { fence := 0, pcv := Vector.replicate 8 ⟨false, 0⟩, done := Vector.replicate 8 0, pblk := Option.none
    info := StopInfo.none }

/-- The predicate-block record as it stands at a covered position i. -/
def PblkRec.shifted (r : PblkRec) (i : Nat) : PblkRec :=
  { r with pat := r.pat >>> i, cntM1 := Fin.ofNat 8 (r.cntM1.val - i) }

/-- A fragment at a meeting instruction that raises a cause: its fence PC stands at that instruction (R169, R174), and so
does every strand PC (R36). -/
def Fragment.atMeeting (f : Fragment) : Fragment :=
  { f with
    fencePC := f.fetchPC
    strands := Vector.ofFn fun k => { f.strands[k] with pos := f.fetchPC }
    done := Vector.replicate 8 0
    pblk := match f.pblk with
      | some r => if f.covIdx ≤ r.cntM1.val then some (r.shifted f.covIdx) else none
      | none => none
    covIdx := 0 }

/-- The fragment as a stop at a place finds it. -/
def Fragment.stopAt (f : Fragment) : Place → Fragment
  | .strand _ => f
  | _ => f.atMeeting

/-- The whole fragment stops on causes, without a split; its lanes that are not among the causes did not take them. For
a strand instruction `notDone` are the lanes in which it has not completed (R166). -/
def State.stopWith (s : State) (w : Warp) (f : Fragment) (cs : List LaneCause) (place : Place) (ri : RaiseInfo) :
    State :=
  let (s1, w1, f1) := s.stopFragment w { f with info := if f.handler then f.info else StopInfo.none }
  let at_ := match place with
    | .strand k => (f1.strands[k]).pos
    | _ => f.fetchPC
  put s1 w1 ((s1.takeRoute w1 (f1.stopAt place) cs place ri).joinAll (f.lateCauses f.lanes at_))

/-- A cause in every lane of the executing fragment, without a split (R125 and the chapters). -/
def raiseAll (s : State) (x : Focus) (place : Place) (cause : Nat) (addr : Fin 32 → W64) (ri : RaiseInfo) : State :=
  s.stopWith x.w x.f ((lanesOf x.f.lanes).map fun l => (l, cause, addr l)) place ri

/-- A cause in every lane with no address. -/
def raisePlain (s : State) (x : Focus) (place : Place) (cause : Nat) : State :=
  raiseAll s x place cause (fun _ => 0) RaiseInfo.plain

/-- ILLEGAL, on the handler route, in every lane, without a split, with no effect (R125). -/
def raiseIllegal (s : State) (x : Focus) (place : Place) : State := raisePlain s x place cILLEGAL

/-- Put a new fragment into a warp. -/
def Warp.addFrag (w : Warp) (f : Fragment) : Warp :=
  { w with frags := w.frags ++ [f], nextUid := w.nextUid + 1 }

/-- A fragment of some lanes of f, at f's fence and strand PCs, in entry e (R39). -/
def Fragment.child (f : Fragment) (uid : Nat) (e : BitVec 9) (lanes : Mask) (byFault : Bool) : Fragment :=
  { f with uid := uid, entry := e, lanes := lanes, origin := some ⟨f.uid, f.entry, byFault⟩
           links := if byFault then [f.uid] else []
           done := Vector.ofFn fun k => f.done[k] &&& lanes
           info := if f.handler then f.info else StopInfo.none
           causes := 0, due := [], ringSeq := none, pend := [], noEntrySince := 0
           lostAcks := Lanes.of fun l => if inMask lanes l then f.lostAcks[l] else none
           stntFaults := f.stntFaults.filter fun t => inMask lanes t.lane }

/-- The fragment without some lanes. -/
def Fragment.without (f : Fragment) (lanes : Mask) : Fragment :=
  { f with lanes := f.lanes &&& ~~~lanes
           done := Vector.ofFn fun k => f.done[k] &&& ~~~lanes
           pend := f.pend.map fun e => { e with lanes := e.lanes &&& ~~~lanes, flight := e.flight &&& ~~~lanes
                                                answers := e.answers.filter fun a => !inMask lanes a.1
                                                parts := e.parts.filter fun p => !inMask lanes p.lane }
           lostAcks := Lanes.of fun l => if inMask lanes l then none else f.lostAcks[l]
           stntFaults := f.stntFaults.filter fun t => !inMask lanes t.lane }

/-- The launch of a warp ends with FOLDEXH (R167): every warp of the launch stops; the dispatch engine completes it. -/
def State.endLaunch (s : State) (id status detail : Nat) : State :=
  { s with
    launches := replaceAll (fun l => l.id == id && l.ending.isNone) (fun l => { l with ending := some (status, detail) })
      s.launches }

/-- Lanes of the instruction at a position whose accesses are under way. -/
def Fragment.flightAt (f : Fragment) (pos : Pos) : Mask :=
  (f.pend.filter fun e => e.pos == pos).foldl (fun m e => m ||| e.flight) 0

/-- The instruction reads memory and does nothing else. -/
def onlyLoads : Instr → Bool
  | .ld o | .ldnt o => !o.m.sp
  | .ldExt o | .ldntExt o => !o.m.sp
  | _ => false

/-- Loads of the lanes that split off as f that have come back in some of them only: they are cancelled there (R158). (DEDUCED,
log 50.) -/
def State.cancelLoads (s : State) (w : Warp) (f : Fragment) : State × Fragment :=
  let part := fun (e : Pend) => onlyLoads e.instr && !s.performedAll w f e
  let gone := f.pend.filter part
  ({ s with reqs := s.reqs.filter fun r => !(inMask f.lanes r.lane && gone.any fun e => reqOf w f.uid e.pos r) },
    { f with pend := f.pend.map fun e => if part e then { e with answers := [], parts := [] } else e })

/-- An instruction of the fragment other than the one at a position has been performed in some of the lanes that would split off and is
under way in others: the split waits for it (R268). -/
def State.splitBusy (s : State) (w : Warp) (f : Fragment) (pos : Pos) (m : Mask) : Bool :=
  f.pend.any fun e =>
    let done := s.performedLanes w f e &&& m
    e.pos != pos && !onlyLoads e.instr && done != 0 && (e.lanes &&& m &&& ~~~done) != 0

/-- Causes in some lanes of the executing fragment (R166, R169): those lanes split off as one new fragment, stopped at the
instruction; or, when they are all its lanes, the fragment itself stops; or, with no pool entry free or for a
fragment without an entry, the whole fragment stops and the done mask says in which lanes the instruction
completed. `x.w` and `x.f` are the warp and fragment with the instruction's effects in its other lanes, the
instruction still dispatched. The result says whether the fragment goes on. Causes in all the lanes leave nothing to split: FOLD.STAT.EXH
and STRICT have no part in it, with an entry or without. (DESIGN CHOICE, log 49.) -/
def State.splitCauses (s : State) (x : Focus) (cs : List LaneCause) (place : Place) (ri : RaiseInfo) : State × Bool :=
  let m := lanesOfCauses cs &&& x.f.lanes
  if m == 0 then (put s x.w x.f, true)
  else if m == x.f.lanes then (s.stopWith x.w x.f cs place ri, false)
  else
    match (if x.f.entry == noEntry then none else s.freeEntry? x.w.core) with
    | some e =>
      let f0 := x.f.child x.w.nextUid e m true
      -- the new fragment stops with the dispatched instructions of its lanes
      let c := s.cancelLoads x.w { f0 with pend := x.f.pend, uid := x.f.uid, lanes := m }
      let (s1, w1, f1) := c.1.stopFragment x.w c.2
      let f2 := { f1 with uid := x.w.nextUid }
      let w2 := { w1 with frags := w1.frags }
      let moved := s1.reqs.map fun (r : Req) =>
        if r.frag == ⟨x.w.core, x.w.slot, x.f.uid⟩ && inMask m r.lane
        then { r with frag := ⟨x.w.core, x.w.slot, x.w.nextUid⟩ } else r
      let s2 : State := { s1 with reqs := moved }
      let f3 := (s2.takeRoute w2 (f2.stopAt place) cs place ri).joinAll (x.f.lateCauses m x.c.pos)
      (s2.setWarp ((w2.setFrag (x.f.without m)).addFrag f3), true)
    | none =>
      let f1 := match place with
        | .strand k => { x.f with done := x.f.done.set k (x.f.done[k] ||| (x.f.lanes &&& ~~~m &&& ~~~x.f.flightAt x.c.pos)) }
        | _ => x.f
      let w1 := { x.w with exh := true }
      let s1 := s.stopWith w1 f1 cs place ri
      if w1.foldCtl.getLsbD 0 then
        match s.owner? x.w with
        | some o => (s1.endLaunch o.launch.id 6 x.w.core, false)
        | none => (s1, false)
      else (s1, false)

/-- A matrix loop of the fragment is under way: its lanes are not split until it ends (R281). -/
def State.loopBusy (s : State) (w : Warp) (f : Fragment) : Bool :=
  s.matrix.any fun m => m.frag == ⟨w.core, w.slot, f.uid⟩

/-- A strand instruction has computed its effects: it completes in the lanes without a cause, and the others split off.
Where a matrix loop holds the lanes together, it has not begun. -/
def finishLanes (s : State) (x : Focus) (k : Fin 8) (cs : List LaneCause) (ri : RaiseInfo) : State :=
  match cs with
  | [] => finishStrand s x.c x.w x.f k
  | _ =>
    if s.loopBusy x.w x.f || s.splitBusy x.w x.f x.c.pos (lanesOfCauses cs) then s else
    let (s1, goesOn) := s.splitCauses x cs (.strand k) ri
    if goesOn then
      match s1.focus? with
      | some y => finishStrand s1 y.c y.w y.f k
      | none => s1
    else s1

end Sys2Proof.Machine
end

