-- ==== Sys2Proof/Machine/Flags.lean ====
section
/-!
DEFINITION. Status flags (R71-R73), the lane results of strand instructions, and the shared frame of every strand
arithmetic instruction (R178-R183, R205): ILLEGAL first, ACCMODE next, the effect in the active lanes, FPEXC and
DIVZERO in the lanes that raise them.
-/

namespace Sys2Proof.Machine

open Sys2Proof

/-- What a lane's computation gives: the new low w bits, the flags it raises, and a cause in its place. -/
structure LaneRes where
  val : Nat
  flags : Nat
  cause : Option Nat
  deriving DecidableEq, Repr

/-- A lane result from a rounded result. -/
def FRes.lane (r : FRes) : LaneRes := ⟨r.bits, r.flags, none⟩

/-- A lane result without flags. -/
def LaneRes.plain (v : Nat) : LaneRes := ⟨v, 0, none⟩

/-- The union of the flags of the lanes in a mask. -/
def orFlags (m : Mask) (r : Fin 32 → LaneRes) : Nat := (lanesOf m).foldl (fun n l => n ||| (r l).flags) 0

/-- The lanes of a mask that raise a flag enabled in FPEN (R73). -/
def trapLanes (w : Warp) (m : Mask) (r : Fin 32 → LaneRes) : Mask :=
  m &&& maskOf fun l => ((r l).flags &&& w.fpen.toNat) != 0

/-- The lanes of a mask with a cause of their own. -/
def causeLanes (m : Mask) (r : Fin 32 → LaneRes) : Mask := m &&& maskOf fun l => (r l).cause.isSome

/-- FPSTAT takes every flag raised, FPTRIG those of the lanes that trap (R71, R73). -/
def Warp.raiseFlags (w : Warp) (m : Mask) (r : Fin 32 → LaneRes) : Warp :=
  { w with
    fpstat := w.fpstat ||| w32 (orFlags m r)
    fptrig := w.fptrig ||| (w32 (orFlags (trapLanes w m r) r) &&& w.fpen) }

/-- The causes of a strand arithmetic instruction: a lane's own, or FPEXC. -/
def laneCauses (w : Warp) (m : Mask) (r : Fin 32 → LaneRes) : List LaneCause :=
  (lanesOf (causeLanes m r ||| trapLanes w m r)).map fun l => (l, ((r l).cause).getD cFPEXC, 0)

/-- The lanes in which the instruction takes effect. -/
def goodLanes (w : Warp) (m : Mask) (r : Fin 32 → LaneRes) : Mask := m &&& ~~~(causeLanes m r ||| trapLanes w m r)

/-- The active lanes of the executing instruction: what the cover and the done mask leave, and the guard (R33, R118). -/
def activeLanes (x : Focus) (grd : Option Guard) : Mask := x.c.lanes &&& guardMask x.w grd

/-- A cause in the active lanes of a strand instruction, without effect. -/
def laneCause (s : State) (x : Focus) (k : Fin 8) (m : Mask) (cause : Nat) : State :=
  finishLanes s x k ((lanesOf m).map fun l => (l, cause, 0)) RaiseInfo.plain

/-- ACCMODE of a strand instruction (R153): its active lanes split off. -/
def accMode (s : State) (x : Focus) (k : Fin 8) (m : Mask) : State := laneCause s x k m cACCMODE

/-- The frame of a strand instruction: ILLEGAL before anything (R125, R121), then its effect on the active lanes. -/
def strandInstr (i : Instr) (k : Fin 8) (grd : Option Guard) (s : State) (eff : Focus → Mask → State) : Out :=
  onFocus s fun x =>
    if i.wf && !(x.c.covered && grd.isSome) then eff x (activeLanes x grd) else raiseIllegal s x (.strand k)

/-- Complete with flags and causes by lane, after `upd` has written the lanes that take effect. -/
def commitLanes (s : State) (x : Focus) (k : Fin 8) (m : Mask) (r : Fin 32 → LaneRes) (upd : Warp → Mask → Warp) :
    State :=
  let w1 := upd (x.w.raiseFlags m r) (goodLanes x.w m r)
  finishLanes s { x with w := w1 } k (laneCauses x.w m r) RaiseInfo.plain

/-- A function of warp, lane and the accumulator's low bits. -/
abbrev LaneFn := Warp → Fin 32 → Nat → LaneRes

/-- a := f(a) on a vector-mode accumulator (R151, R181). -/
def vecArith (s : State) (x : Focus) (k : Fin 8) (tin tout : Ty) (f : LaneFn) (m : Mask) : State :=
  let r := fun l => f x.w l (lowBits tin (x.w.acc[k].val)[l])
  commitLanes s x k m r fun w good => w.writeAcc k good fun l => accImage tout (r l).val

/-- The combined result of a lane's 32 columns (R279): the flags of all, the first cause. -/
def rowRes (f : LaneFn) (w : Warp) (tl : TileAcc) (l : Fin 32) : LaneRes :=
  let rs := (List.finRange 32).map fun c => f w l ((tl.cols[c])[l]).toNat
  ⟨0, rs.foldl (fun n r => n ||| r.flags) 0, (rs.find? fun r => r.cause.isSome).bind fun r => r.cause⟩

/-- The column-wise effect on a tile-mode accumulator (R279). -/
def tileArith (s : State) (x : Focus) (k : Fin 8) (f : LaneFn) (tl : TileAcc) (m : Mask) : State :=
  commitLanes s x k m (rowRes f x.w tl) fun w good =>
    let cols := Vector.ofFn fun c =>
      Lanes.update tl.cols[c] good fun l => w32 (f x.w l ((tl.cols[c])[l]).toNat).val
    { w with acc := w.acc.set k { w.acc[k] with tile := some { tl with cols := cols } } }

/-- a := f(a) in the active lanes; `onTile` says that R279 gives the instruction its column-wise effect. -/
def accArith (i : Instr) (k : Fin 8) (grd : Option Guard) (tin tout : Ty) (onTile : Bool) (f : LaneFn) (s : State) :
    Out :=
  strandInstr i k grd s fun x m =>
    match x.w.acc[k].tile with
    | none => vecArith s x k tin tout f m
    | some tl => if onTile then tileArith s x k f tl m else accMode s x k m

/-- A strand instruction that reads its accumulator and writes a predicate bit per lane (R194): the bit is `val` ≠ 0. -/
def predArith (i : Instr) (k : Fin 8) (grd : Option Guard) (t : Ty) (d : Fin 8) (rowOk : Bool) (f : LaneFn)
    (s : State) : Out :=
  strandInstr i k grd s fun x m =>
    if x.w.acc[k].tile.isSome && !rowOk then accMode s x k m
    else
      let r := fun l => f x.w l (lowBits t (x.w.acc[k].val)[l])
      commitLanes s x k m r fun w good => w.writeP d good (maskOf fun l => (r l).val != 0)

/-! ### Meeting instructions -/

/-- The frame of a meeting instruction: ILLEGAL before anything, also under a PBLK cover (R121, R125). -/
def meetInstr (i : Instr) (s : State) (eff : Focus → State) : Out :=
  onFocus s fun x => if i.wf && !x.c.covered then eff x else raiseIllegal s x .meeting

/-- The executing meeting instruction completes with its effects in warp and state. -/
def meetDone (s : State) (x : Focus) (w : Warp) : State := finishMeeting s w x.f x.c.next

/-- The time since which the executing fragment has waited. -/
def waitedSince (s : State) (x : Focus) : Nat :=
  match x.f.status with
  | .waiting (.retry t _) => t
  | _ => s.time

/-- The time since which the executing fragment has waited for a home out of reach (R97, R263). -/
def outSince (s : State) (x : Focus) : Nat :=
  match x.f.status with
  | .waiting (.retry _ (some t)) => t
  | _ => s.time

/-- The executing fragment waits, and its meeting instruction is carried out again when something has changed; the time of
its first wait is kept. -/
def waitRetry (s : State) (x : Focus) : State := waitHere s x.w x.f (.retry (waitedSince s x) none)

/-- It waits for a home out of reach; the time since when is kept. -/
def waitOut (s : State) (x : Focus) : State := waitHere s x.w x.f (.retry (waitedSince s x) (some (outSince s x)))

/-- ILLSTATE in every lane with one value in bits 31:0 of FAULT.ADDR. -/
def illStateAt (s : State) (x : Focus) (place : Place) (v : W32) : State :=
  raiseAll s x place cILLSTATE (fun _ => v.setWidth 64) RaiseInfo.plain

/-- ILLSTATE of a meeting instruction. -/
def illState (s : State) (x : Focus) (v : W32) : State := illStateAt s x .meeting v

/-- Causes in some lanes at a meeting instruction: they split off, and the rest of the fragment carries on with `k`. -/
def meetSplit (s : State) (x : Focus) (cs : List LaneCause) (ri : RaiseInfo) (k : State → Focus → State) : State :=
  match cs with
  | [] => k s x
  | _ =>
    let r := s.splitCauses x cs .meeting ri
    if r.2 then
      match r.1.focus? with
      | some y => k r.1 y
      | none => r.1
    else r.1

end Sys2Proof.Machine
end

