-- ==== Sys2Proof/Machine/Arith.lean ====
section
/-!
DEFINITION. The strand arithmetic instructions (08_strand_arithmetic.md R178-R203, R279; R110, R113, R117 for their
operand forms). CVT with outlier capture accesses memory and stands in Machine/Capture.lean.
-/

namespace Sys2Proof.Machine

open Sys2Proof

/-! ### Operands -/

/-- IMM32 read as an operand of type t (R117). -/
def immX (t : Ty) (v : W32) : Nat :=
  match t with
  | .i64 => (v.signExtend 64).toNat
  | .n64 => v.toNat
  | .f64 => (roundV fmtF64 .rne false (fmtF32.decode v.toNat)).bits
  | _ => v.toNat % 2 ^ t.width

/-- IMM15 of format LI (R110). -/
def immLi (t : Ty) (v : BitVec 15) : Nat :=
  if t.isSigned then (v.signExtend 64).toNat % 2 ^ t.width
  else if t.isFloat then (roundV (fmtOf t) .rne false (fmtBF16.decode (v.toNat * 2))).bits
  else v.toNat % 2 ^ t.width

/-- Operand of an extended LA form (R117, R178). -/
def xsrcValue (w : Warp) (t : Ty) (l : Fin 32) : XSrc → Nat
  | .g r => gValue w t r l
  | .s r => sValue w t r
  | .imm v => immX t v

/-- Operand where G stands (R117, R178). -/
def gsrcValue (w : Warp) (t : Ty) (l : Fin 32) : GSrc → Nat
  | .g r => gValue w t r l
  | .imm v => immX t v

/-! ### Operations on values of a type -/

/-- ADD, SUB, MUL (R184). -/
def addR (t : Ty) (rm : Rm) (a b : Nat) : FRes :=
  if t.isFloat then fadd (fmtOf t) rm a b else .plain ((a + b) % 2 ^ t.width)

/-- SUB (R184). -/
def subR (t : Ty) (rm : Rm) (a b : Nat) : FRes :=
  if t.isFloat then fsub (fmtOf t) rm a b else .plain ((a + (2 ^ t.width - b % 2 ^ t.width)) % 2 ^ t.width)

/-- MUL (R184). -/
def mulR (t : Ty) (rm : Rm) (a b : Nat) : FRes :=
  if t.isFloat then fmul (fmtOf t) rm a b else .plain (a * b % 2 ^ t.width)

/-- MIN (R184). -/
def minR (t : Ty) (a b : Nat) : FRes :=
  if t.isFloat then fminmax (fmtOf t) false a b else .plain (if ival t b < ival t a then b else a)

/-- MAX (R184). -/
def maxR (t : Ty) (a b : Nat) : FRes :=
  if t.isFloat then fminmax (fmtOf t) true a b else .plain (if ival t a < ival t b then b else a)

/-- b × c + d with one rounding, or modulo 2^w (R186). -/
def fmaR (t : Ty) (rm : Rm) (b c d : Nat) : FRes :=
  if t.isFloat then ffma (fmtOf t) rm b c d else .plain ((b * c + d) % 2 ^ t.width)

/-- NEG (R187). -/
def negR (t : Ty) (b : Nat) : FRes :=
  if t.isFloat then fsign (fmtOf t) false b else .plain ((2 ^ t.width - b) % 2 ^ t.width)

/-- ABS (R187). -/
def absR (t : Ty) (b : Nat) : FRes :=
  if t.isFloat then fsign (fmtOf t) true b else .plain (wrapN t.width (ival t b).natAbs)

/-- Bitwise complement of w bits (R187). -/
def notN (t : Ty) (b : Nat) : Nat := 2 ^ t.width - 1 - b % 2 ^ t.width

/-- A comparison (R194). -/
def cmpR (t : Ty) (c : Cond) (a b : Nat) : LaneRes :=
  if t.isFloat then
    let r := fcmp (fmtOf t) c a b
    ⟨b2n r.1, r.2, none⟩
  else .plain (b2n (condOrd c (compare (ival t a) (ival t b))))

/-- DIV and REM of a lane (R188). -/
def divLane (rem : Bool) (t : Ty) (a b : Nat) : LaneRes :=
  if b == 0 then ⟨a, 0, some cDIVZERO⟩ else .plain (if rem then irem t a b else idiv t a b)

/-! ### Lane functions -/

/-- A two-operand result in a lane. -/
def binFn (f : Nat → Nat → FRes) (b : Warp → Fin 32 → Nat) : LaneFn := fun w l a => (f a (b w l)).lane

/-- A two-operand integer result in a lane. -/
def binNat (f : Nat → Nat → Nat) (b : Warp → Fin 32 → Nat) : LaneFn := fun w l a => .plain (f a (b w l))

/-- A result that does not depend on the accumulator. -/
def unFn (f : Nat → FRes) (b : Warp → Fin 32 → Nat) : LaneFn := fun w l _ => (f (b w l)).lane

/-- A shift count or field descriptor: bits 31:0 of the operand, whatever T is (R178). -/
def countSrc (o : Src) (w : Warp) (l : Fin 32) : Nat := srcValue w countTy l o
/-- R178, extended. -/
def countX (o : XSrc) (w : Warp) (l : Fin 32) : Nat := xsrcValue w countTy l o

/-- Format LA, long. -/
def laArith (i : Instr) (o : La) (onTile : Bool) (f : Nat → Nat → FRes) : State → Out :=
  accArith i o.a none o.t o.t (onTile && o.t == .f32) (binFn f fun w l => srcValue w o.t l o.src)

/-- Format LA, extended. -/
def laxArith (i : Instr) (o : LaX) (onTile : Bool) (f : Nat → Nat → FRes) : State → Out :=
  accArith i o.a o.grd o.t o.t (onTile && o.t == .f32) (binFn f fun w l => xsrcValue w o.t l o.src)

/-- Format LA, long, without rounding. -/
def lnArith (i : Instr) (o : Ln) (onTile : Bool) (f : Nat → Nat → FRes) : State → Out :=
  accArith i o.a none o.t o.t (onTile && o.t == .f32) (binFn f fun w l => srcValue w o.t l o.src)

/-- Format LA, extended, without rounding. -/
def lnxArith (i : Instr) (o : LnX) (onTile : Bool) (f : Nat → Nat → FRes) : State → Out :=
  accArith i o.a o.grd o.t o.t (onTile && o.t == .f32) (binFn f fun w l => xsrcValue w o.t l o.src)

/-- Format LI. -/
def liArith (i : Instr) (o : Li) (onTile : Bool) (f : Nat → Nat → FRes) : State → Out :=
  accArith i o.a none o.t o.t (onTile && o.t == .f32) (binFn f fun _ _ => immLi o.t o.imm)

/-- A bit operation (R190). -/
def bitOp (f : Nat → Nat → Nat) (a b : Nat) : FRes := .plain (f a b)

/-- ANDN on w bits (R190). -/
def andnN (t : Ty) (a b : Nat) : Nat := a &&& notN t b

/-- A shift or field extraction, long. -/
def countArith (i : Instr) (o : Ln) (f : Nat → Nat → Nat) : State → Out :=
  accArith i o.a none o.t o.t false (binNat f (countSrc o.src))

/-- A shift or field extraction, extended. -/
def countArithX (i : Instr) (o : LnX) (f : Nat → Nat → Nat) : State → Out :=
  accArith i o.a o.grd o.t o.t false (binNat f (countX o.src))

/-- A shift by an immediate (R185). -/
def liShift (i : Instr) (o : LiShift) (f : Nat → Nat → Nat) : State → Out :=
  accArith i o.a none o.t o.t false (binNat f fun _ _ => o.n.toNat)

/-- Amount of a shift: bits 7:0 (R191). -/
def amount (b : Nat) : Nat := b % 256

/-- Unary, long (R187). -/
def unArith (i : Instr) (o : Un) (f : Nat → FRes) : State → Out :=
  accArith i o.a none o.t o.t false (unFn f fun w l => gValue w o.t o.g l)

/-- Unary, extended (R187). -/
def unArithX (i : Instr) (o : UnX) (f : Nat → FRes) : State → Out :=
  accArith i o.a o.grd o.t o.t false (unFn f fun w l => gsrcValue w o.t l o.src)

/-- A short op with a two-operand meaning (R113): the operand is G. -/
def shortArith (i : Instr) (o : ShortOp) (t tb : Ty) (onTile : Bool) (f : Nat → Nat → FRes) : State → Out :=
  accArith i o.a none t t (onTile && t == .f32) (binFn f fun w l => gValue w tb o.g l)

/-! ### ADD, SUB, MUL, MIN, MAX, MOV (R184, R185) -/

/-- ADD (R184). -/
def execAdd (o : La) (s : State) : Out := laArith (.add o) o true (addR o.t o.rm) s
/-- ADD, extended (R184). -/
def execAddExt (o : LaX) (s : State) : Out := laxArith (.addExt o) o true (addR o.t o.rm) s
/-- ADD, LI (R185). -/
def execAddLi (o : Li) (s : State) : Out := liArith (.addLi o) o true (addR o.t .rne) s
/-- SUB (R184). -/
def execSub (o : La) (s : State) : Out := laArith (.sub o) o true (subR o.t o.rm) s
/-- SUB, extended (R184). -/
def execSubExt (o : LaX) (s : State) : Out := laxArith (.subExt o) o true (subR o.t o.rm) s
/-- MUL (R184). -/
def execMul (o : La) (s : State) : Out := laArith (.mul o) o true (mulR o.t o.rm) s
/-- MUL, extended (R184). -/
def execMulExt (o : LaX) (s : State) : Out := laxArith (.mulExt o) o true (mulR o.t o.rm) s
/-- MIN (R184). -/
def execMin (o : Ln) (s : State) : Out := lnArith (.min o) o true (minR o.t) s
/-- MIN, extended (R184). -/
def execMinExt (o : LnX) (s : State) : Out := lnxArith (.minExt o) o true (minR o.t) s
/-- MAX (R184). -/
def execMax (o : Ln) (s : State) : Out := lnArith (.max o) o true (maxR o.t) s
/-- MAX, extended (R184). -/
def execMaxExt (o : LnX) (s : State) : Out := lnxArith (.maxExt o) o true (maxR o.t) s
/-- MOV (R184): bits unexamined. -/
def execMov (o : Ln) (s : State) : Out := lnArith (.mov o) o true (fun _ b => .plain b) s
/-- MOV, LI (R185). -/
def execMovLi (o : Li) (s : State) : Out := liArith (.movLi o) o true (fun _ b => .plain b) s
/-- MOV, extended (R184). -/
def execMovExt (o : LnX) (s : State) : Out := lnxArith (.movExt o) o true (fun _ b => .plain b) s

/-! ### MAC, MADD (R186) -/

/-- MAC: a + B × C. -/
def macFn (t : Ty) (rm : Rm) (b : Warp → Fin 32 → Nat) (c : Fin 32) : LaneFn := fun w l a =>
  (fmaR t rm (b w l) (sValue w t c) a).lane
/-- MADD: a × B + C. -/
def maddFn (t : Ty) (rm : Rm) (b : Warp → Fin 32 → Nat) (c : Fin 32) : LaneFn := fun w l a =>
  (fmaR t rm a (b w l) (sValue w t c)).lane

/-- MAC (R186). -/
def execMac (o : La2) (s : State) : Out :=
  accArith (.mac o) o.a none o.t o.t (o.t == .f32) (macFn o.t o.rm (fun w l => gValue w o.t o.g l) o.s) s
/-- MAC, extended (R186). -/
def execMacExt (o : La2X) (s : State) : Out :=
  accArith (.macExt o) o.a o.grd o.t o.t (o.t == .f32) (macFn o.t o.rm (fun w l => gsrcValue w o.t l o.src) o.s) s
/-- MADD (R186). -/
def execMadd (o : La2) (s : State) : Out :=
  accArith (.madd o) o.a none o.t o.t (o.t == .f32) (maddFn o.t o.rm (fun w l => gValue w o.t o.g l) o.s) s
/-- MADD, extended (R186). -/
def execMaddExt (o : La2X) (s : State) : Out :=
  accArith (.maddExt o) o.a o.grd o.t o.t (o.t == .f32)
    (maddFn o.t o.rm (fun w l => gsrcValue w o.t l o.src) o.s) s

/-! ### Unary operations (R187) -/

/-- NEG. -/
def execNeg (o : Un) (s : State) : Out := unArith (.neg o) o (negR o.t) s
/-- NEG, extended. -/
def execNegExt (o : UnX) (s : State) : Out := unArithX (.negExt o) o (negR o.t) s
/-- ABS. -/
def execAbs (o : Un) (s : State) : Out := unArith (.abs o) o (absR o.t) s
/-- ABS, extended. -/
def execAbsExt (o : UnX) (s : State) : Out := unArithX (.absExt o) o (absR o.t) s
/-- NOT. -/
def execNot (o : Un) (s : State) : Out := unArith (.not o) o (fun b => .plain (notN o.t b)) s
/-- NOT, extended. -/
def execNotExt (o : UnX) (s : State) : Out := unArithX (.notExt o) o (fun b => .plain (notN o.t b)) s
/-- POPC. -/
def execPopc (o : Un) (s : State) : Out := unArith (.popc o) o (fun b => .plain (popcN o.t.width b)) s
/-- POPC, extended. -/
def execPopcExt (o : UnX) (s : State) : Out := unArithX (.popcExt o) o (fun b => .plain (popcN o.t.width b)) s
/-- CLZ. -/
def execClz (o : Un) (s : State) : Out := unArith (.clz o) o (fun b => .plain (clzN o.t.width b)) s
/-- CLZ, extended. -/
def execClzExt (o : UnX) (s : State) : Out := unArithX (.clzExt o) o (fun b => .plain (clzN o.t.width b)) s
/-- BREV. -/
def execBrev (o : Un) (s : State) : Out := unArith (.brev o) o (fun b => .plain (brevN o.t.width b)) s
/-- BREV, extended. -/
def execBrevExt (o : UnX) (s : State) : Out := unArithX (.brevExt o) o (fun b => .plain (brevN o.t.width b)) s

/-! ### Division (R188, R189) -/

/-- DIV. -/
def execDiv (o : Ln) (s : State) : Out :=
  accArith (.div o) o.a none o.t o.t false (fun w l a => divLane false o.t a (srcValue w o.t l o.src)) s
/-- DIV, extended. -/
def execDivExt (o : LnX) (s : State) : Out :=
  accArith (.divExt o) o.a o.grd o.t o.t false (fun w l a => divLane false o.t a (xsrcValue w o.t l o.src)) s
/-- REM. -/
def execRem (o : Ln) (s : State) : Out :=
  accArith (.rem o) o.a none o.t o.t false (fun w l a => divLane true o.t a (srcValue w o.t l o.src)) s
/-- REM, extended. -/
def execRemExt (o : LnX) (s : State) : Out :=
  accArith (.remExt o) o.a o.grd o.t o.t false (fun w l a => divLane true o.t a (xsrcValue w o.t l o.src)) s
/-- FDIV. -/
def execFdiv (o : La) (s : State) : Out := laArith (.fdiv o) o false (fdivR (fmtOf o.t) o.rm) s
/-- FDIV, extended. -/
def execFdivExt (o : LaX) (s : State) : Out := laxArith (.fdivExt o) o false (fdivR (fmtOf o.t) o.rm) s

/-! ### Compare and select (R194, R195) -/

/-- CMP. -/
def execCmp (o : CmpOp) (s : State) : Out :=
  predArith (.cmp o) o.a none o.t o.d false (fun w l a => cmpR o.t o.c a (gValue w o.t o.g l)) s
/-- CMP, extended. -/
def execCmpExt (o : CmpOpX) (s : State) : Out :=
  predArith (.cmpExt o) o.a o.grd o.t o.d false (fun w l a => cmpR o.t o.c a (gsrcValue w o.t l o.src)) s

/-- The lanes in which SEL moves. -/
def selLane (w : Warp) (p : Fin 8) (n : Bool) (l : Fin 32) : Bool := inMask w.p[p] l != n

/-- SEL: a lane that is not selected keeps all 64 bits of its accumulator. -/
def selEff (i : Instr) (k : Fin 8) (grd : Option Guard) (t : Ty) (p : Fin 8) (n : Bool)
    (b : Warp → Fin 32 → Nat) (s : State) : Out :=
  strandInstr i k grd s fun x m =>
    if x.w.acc[k].tile.isSome then accMode s x k m
    else
      let good := m &&& maskOf (selLane x.w p n)
      finishStrand s x.c (x.w.writeAcc k good fun l => accImage t (b x.w l)) x.f k

/-- SEL. -/
def execSel (o : SelOp) (s : State) : Out :=
  selEff (.sel o) o.a none o.t o.p o.n (fun w l => gValue w o.t o.g l) s
/-- SEL, extended. -/
def execSelExt (o : SelOpX) (s : State) : Out :=
  selEff (.selExt o) o.a o.grd o.t o.p o.n (fun w l => gsrcValue w o.t l o.src) s

/-! ### Bits and shifts (R190-R193) -/

/-- AND. -/
def execAnd (o : Ln) (s : State) : Out := lnArith (.and o) o false (bitOp (· &&& ·)) s
/-- AND, LI. -/
def execAndLi (o : Li) (s : State) : Out := liArith (.andLi o) o false (bitOp (· &&& ·)) s
/-- AND, extended. -/
def execAndExt (o : LnX) (s : State) : Out := lnxArith (.andExt o) o false (bitOp (· &&& ·)) s
/-- OR. -/
def execOr (o : Ln) (s : State) : Out := lnArith (.or o) o false (bitOp (· ||| ·)) s
/-- OR, LI. -/
def execOrLi (o : Li) (s : State) : Out := liArith (.orLi o) o false (bitOp (· ||| ·)) s
/-- OR, extended. -/
def execOrExt (o : LnX) (s : State) : Out := lnxArith (.orExt o) o false (bitOp (· ||| ·)) s
/-- XOR. -/
def execXor (o : Ln) (s : State) : Out := lnArith (.xor o) o false (bitOp (· ^^^ ·)) s
/-- XOR, LI. -/
def execXorLi (o : Li) (s : State) : Out := liArith (.xorLi o) o false (bitOp (· ^^^ ·)) s
/-- XOR, extended. -/
def execXorExt (o : LnX) (s : State) : Out := lnxArith (.xorExt o) o false (bitOp (· ^^^ ·)) s
/-- ANDN. -/
def execAndn (o : Ln) (s : State) : Out := lnArith (.andn o) o false (bitOp (andnN o.t)) s
/-- ANDN, extended. -/
def execAndnExt (o : LnX) (s : State) : Out := lnxArith (.andnExt o) o false (bitOp (andnN o.t)) s
/-- SHL. -/
def execShl (o : Ln) (s : State) : Out := countArith (.shl o) o (fun a b => shlN o.t.width a (amount b)) s
/-- SHL, LI. -/
def execShlLi (o : LiShift) (s : State) : Out := liShift (.shlLi o) o (shlN o.t.width) s
/-- SHL, extended. -/
def execShlExt (o : LnX) (s : State) : Out := countArithX (.shlExt o) o (fun a b => shlN o.t.width a (amount b)) s
/-- SHR. -/
def execShr (o : Ln) (s : State) : Out := countArith (.shr o) o (fun a b => shrN o.t.width a (amount b)) s
/-- SHR, LI. -/
def execShrLi (o : LiShift) (s : State) : Out := liShift (.shrLi o) o (shrN o.t.width) s
/-- SHR, extended. -/
def execShrExt (o : LnX) (s : State) : Out := countArithX (.shrExt o) o (fun a b => shrN o.t.width a (amount b)) s
/-- SAR. -/
def execSar (o : Ln) (s : State) : Out := countArith (.sar o) o (fun a b => sarN o.t.width a (amount b)) s
/-- SAR, LI. -/
def execSarLi (o : LiShift) (s : State) : Out := liShift (.sarLi o) o (sarN o.t.width) s
/-- SAR, extended. -/
def execSarExt (o : LnX) (s : State) : Out := countArithX (.sarExt o) o (fun a b => sarN o.t.width a (amount b)) s
/-- BFE. -/
def execBfe (o : Ln) (s : State) : Out := countArith (.bfe o) o (bfeN o.t) s
/-- BFE, extended. -/
def execBfeExt (o : LnX) (s : State) : Out := countArithX (.bfeExt o) o (bfeN o.t) s

/-- BFI (R193): B replaces a field of a; with length 0 the accumulator is unchanged. -/
def bfiEff (i : Instr) (k : Fin 8) (grd : Option Guard) (t : Ty) (b : Warp → Fin 32 → Nat) (c : Fin 32)
    (s : State) : Out :=
  strandInstr i k grd s fun x m =>
    let d := sValue x.w countTy c
    if x.w.acc[k].tile.isSome then accMode s x k m
    else if d / 256 % 256 == 0 then finishStrand s x.c x.w x.f k
    else vecArith s x k t t (fun w l a => .plain (bfiN t a (b w l) d)) m

/-- BFI. -/
def execBfi (o : BfiOp) (s : State) : Out :=
  bfiEff (.bfi o) o.a none o.t (fun w l => gValue w o.t o.g l) o.s s
/-- BFI, extended. -/
def execBfiExt (o : BfiOpX) (s : State) : Out :=
  bfiEff (.bfiExt o) o.a o.grd o.t (fun w l => gsrcValue w o.t l o.src) o.s s

/-! ### Transcendental functions (R199) -/

/-- XFN. -/
def execXfn (o : XfnOp) (s : State) : Out :=
  accArith (.xfn o) o.a none o.t o.t (o.t == .f32 && o.f != .tos24) (fun _ _ a => (xfnR o.f o.t o.rm a).lane) s
/-- XFN, extended. -/
def execXfnExt (o : XfnOpX) (s : State) : Out :=
  accArith (.xfnExt o) o.a o.grd o.t o.t (o.t == .f32 && o.f != .tos24)
    (fun _ _ a => (xfnR o.f o.t o.rm a).lane) s

/-! ### Emission (R201-R203) -/

/-- The register image of a w-bit value in a general register (R55). -/
def gImage (t : Ty) (v : Nat) : W64 :=
  if t.isSigned && t.width < 32 then w64 (wrapN 32 (sint t.width v)) else w64 v

/-- EMIT (R201): in tile mode it reads the row value (R279). -/
def emitEff (i : Instr) (k : Fin 8) (grd : Option Guard) (t : Ty) (g : Fin 64) (s : State) : Out :=
  strandInstr i k grd s fun x m =>
    let v := fun l => gImage t (lowBits t (x.w.acc[k].val)[l])
    finishStrand s x.c ((x.w.writeG t.is64 g m v).setAllPresent m (gRegs t g)) x.f k

/-- EMIT. -/
def execEmit (o : EmitOp) (s : State) : Out := emitEff (.emit o) o.a none o.t o.g s
/-- EMIT, extended. -/
def execEmitExt (o : EmitOpX) (s : State) : Out := emitEff (.emitExt o) o.a o.grd o.t o.g s

/-- EMITP (R202). -/
def emitpEff (i : Instr) (k : Fin 8) (grd : Option Guard) (t : Ty) (d : Fin 8) (s : State) : Out :=
  predArith i k grd t d true (fun _ _ a => .plain a) s

/-- EMITP. -/
def execEmitp (o : EmitpOp) (s : State) : Out := emitpEff (.emitp o) o.a none o.t o.d s
/-- EMITP, extended. -/
def execEmitpExt (o : EmitpOpX) (s : State) : Out := emitpEff (.emitpExt o) o.a o.grd o.t o.d s

/-- EMITS (R203): nothing is written where no lane is active. -/
def emitsEff (i : Instr) (k : Fin 8) (grd : Option Guard) (t : Ty) (d : Fin 32) (s : State) : Out :=
  strandInstr i k grd s fun x m =>
    match lowest? m with
    | some l => finishStrand s x.c (x.w.writeS d (accImage t (lowBits t (x.w.acc[k].val)[l]))) x.f k
    | none => finishStrand s x.c x.w x.f k

/-- EMITS. -/
def execEmits (o : EmitsOp) (s : State) : Out := emitsEff (.emits o) o.a none o.t o.d s
/-- EMITS, extended. -/
def execEmitsExt (o : EmitsOpX) (s : State) : Out := emitsEff (.emitsExt o) o.a o.grd o.t o.d s

/-! ### Short forms (R113) -/

/-- ADD.F32 a, g. -/
def execShortAddF32 (o : ShortOp) (s : State) : Out := shortArith (.shortAddF32 o) o .f32 .f32 true (addR .f32 .rne) s
/-- SUB.F32 a, g. -/
def execShortSubF32 (o : ShortOp) (s : State) : Out := shortArith (.shortSubF32 o) o .f32 .f32 true (subR .f32 .rne) s
/-- MUL.F32 a, g. -/
def execShortMulF32 (o : ShortOp) (s : State) : Out := shortArith (.shortMulF32 o) o .f32 .f32 true (mulR .f32 .rne) s
/-- MIN.F32 a, g. -/
def execShortMinF32 (o : ShortOp) (s : State) : Out := shortArith (.shortMinF32 o) o .f32 .f32 true (minR .f32) s
/-- MAX.F32 a, g. -/
def execShortMaxF32 (o : ShortOp) (s : State) : Out := shortArith (.shortMaxF32 o) o .f32 .f32 true (maxR .f32) s
/-- MOV.F32 a, g. -/
def execShortMovF32 (o : ShortOp) (s : State) : Out :=
  shortArith (.shortMovF32 o) o .f32 .f32 true (fun _ b => .plain b) s
/-- NEG.F32 a, g. -/
def execShortNegF32 (o : ShortOp) (s : State) : Out :=
  shortArith (.shortNegF32 o) o .f32 .f32 false (fun _ b => negR .f32 b) s
/-- ADD.I32 a, g. -/
def execShortAddI32 (o : ShortOp) (s : State) : Out := shortArith (.shortAddI32 o) o .i32 .i32 false (addR .i32 .rne) s
/-- SUB.I32 a, g. -/
def execShortSubI32 (o : ShortOp) (s : State) : Out := shortArith (.shortSubI32 o) o .i32 .i32 false (subR .i32 .rne) s
/-- MUL.I32 a, g. -/
def execShortMulI32 (o : ShortOp) (s : State) : Out := shortArith (.shortMulI32 o) o .i32 .i32 false (mulR .i32 .rne) s
/-- MIN.I32 a, g. -/
def execShortMinI32 (o : ShortOp) (s : State) : Out := shortArith (.shortMinI32 o) o .i32 .i32 false (minR .i32) s
/-- MAX.I32 a, g. -/
def execShortMaxI32 (o : ShortOp) (s : State) : Out := shortArith (.shortMaxI32 o) o .i32 .i32 false (maxR .i32) s
/-- MIN.N32 a, g. -/
def execShortMinN32 (o : ShortOp) (s : State) : Out := shortArith (.shortMinN32 o) o .n32 .n32 false (minR .n32) s
/-- MAX.N32 a, g. -/
def execShortMaxN32 (o : ShortOp) (s : State) : Out := shortArith (.shortMaxN32 o) o .n32 .n32 false (maxR .n32) s
/-- AND.N32 a, g. -/
def execShortAndN32 (o : ShortOp) (s : State) : Out := shortArith (.shortAndN32 o) o .n32 .n32 false (bitOp (· &&& ·)) s
/-- OR.N32 a, g. -/
def execShortOrN32 (o : ShortOp) (s : State) : Out := shortArith (.shortOrN32 o) o .n32 .n32 false (bitOp (· ||| ·)) s
/-- XOR.N32 a, g. -/
def execShortXorN32 (o : ShortOp) (s : State) : Out := shortArith (.shortXorN32 o) o .n32 .n32 false (bitOp (· ^^^ ·)) s
/-- ANDN.N32 a, g. -/
def execShortAndnN32 (o : ShortOp) (s : State) : Out :=
  shortArith (.shortAndnN32 o) o .n32 .n32 false (bitOp (andnN .n32)) s
/-- SHL.N32 a, g. -/
def execShortShlN32 (o : ShortOp) (s : State) : Out :=
  shortArith (.shortShlN32 o) o .n32 .n32 false (bitOp fun a b => shlN 32 a (amount b)) s
/-- SHR.N32 a, g. -/
def execShortShrN32 (o : ShortOp) (s : State) : Out :=
  shortArith (.shortShrN32 o) o .n32 .n32 false (bitOp fun a b => shrN 32 a (amount b)) s
/-- SAR.I32 a, g. -/
def execShortSarI32 (o : ShortOp) (s : State) : Out :=
  shortArith (.shortSarI32 o) o .i32 .n32 false (bitOp fun a b => sarN 32 a (amount b)) s
/-- POPC.N32 a, g. -/
def execShortPopcN32 (o : ShortOp) (s : State) : Out :=
  shortArith (.shortPopcN32 o) o .n32 .n32 false (fun _ b => .plain (popcN 32 b)) s
/-- CLZ.N32 a, g. -/
def execShortClzN32 (o : ShortOp) (s : State) : Out :=
  shortArith (.shortClzN32 o) o .n32 .n32 false (fun _ b => .plain (clzN 32 b)) s
/-- ADD.F64 a, g. -/
def execShortAddF64 (o : ShortOp) (s : State) : Out := shortArith (.shortAddF64 o) o .f64 .f64 false (addR .f64 .rne) s
/-- MUL.F64 a, g. -/
def execShortMulF64 (o : ShortOp) (s : State) : Out := shortArith (.shortMulF64 o) o .f64 .f64 false (mulR .f64 .rne) s
/-- ADD.I64 a, g. -/
def execShortAddI64 (o : ShortOp) (s : State) : Out := shortArith (.shortAddI64 o) o .i64 .i64 false (addR .i64 .rne) s
/-- EMIT g, a: EMIT without a type is EMIT.N32 (R201). -/
def execShortEmit (o : ShortOp) (s : State) : Out := emitEff (.shortEmit o) o.a none .n32 o.g s
/-- EMIT.N64 g, a. -/
def execShortEmitN64 (o : ShortOp) (s : State) : Out := emitEff (.shortEmitN64 o) o.a none .n64 o.g s

/-- SNOP (R113): its positions pass without effect, so the fetch moves past it. -/
def execSnop (_o : SnopOp) (s : State) : Out :=
  onFocus s fun x => put s x.w { x.f with fetchPC := x.c.next }

end Sys2Proof.Machine
end

