-- ==== Sys2Proof/Machine/Reduce.lean ====
section
/-!
DEFINITION. Reductions over lists of values (R230, R231, R348): REDUCE, SCAN, REDT and the value barriers.
-/

namespace Sys2Proof.Machine

open Sys2Proof

/-- The identity of an operation (R230). -/
def identity (op : RedOp) (t : Ty) : Nat :=
  let f := fmtOf t
  match op with
  | .add | .or | .xor => 0
  | .and => 2 ^ t.width - 1
  | .min | .mini => if t.isFloat then f.infCode else wrapN t.width (imax t)
  | .max | .maxi => if t.isFloat then f.withSign true f.infCode else wrapN t.width (imin t)

/-- The exact sum of values; a zero sum is −0 only where every value is −0 (R231). -/
def sumV : List FVal → FVal
  | [] => .fin false 0 0
  | x :: xs => xs.foldl (addV .rne) x

/-- A floating-point sum formed exactly and rounded once (R231). -/
def fsum (t : Ty) (vs : List Nat) : FRes :=
  let xs := vs.map (fval t)
  let f := fmtOf t
  if xs.any FVal.isNan then ⟨f.nan, sigFlag xs, false⟩
  else if xs.any (· == .inf false) && xs.any (· == .inf true) then ⟨f.nan, fIV, false⟩
  else roundV f .rne false (sumV xs)

/-- Fold a two-operand operation, joining flags. -/
def foldRes (g : Nat → Nat → FRes) : List Nat → FRes
  | [] => .plain 0
  | x :: xs => xs.foldl (fun acc y => (g acc.bits y).orFlags acc.flags) (.plain x)

/-- One value alone under MIN or MAX: a NaN becomes the canonical NaN (R184). -/
def loneMinMax (t : Ty) (x : Nat) : FRes :=
  if t.isFloat && (fval t x).isNan then ⟨(fmtOf t).nan, sigFlag [fval t x], false⟩ else .plain x

/-- The reduction of a list of values; the identity of none (R230). -/
def reduceVals (op : RedOp) (t : Ty) (vs : List Nat) : FRes :=
  if vs.isEmpty then .plain (identity op t)
  else match op with
    | .add => if t.isFloat then fsum t vs else .plain (vs.foldl (· + ·) 0 % 2 ^ t.width)
    | .min | .mini => match vs with
      | [x] => loneMinMax t x
      | _ => foldRes (minR t) vs
    | .max | .maxi => match vs with
      | [x] => loneMinMax t x
      | _ => foldRes (maxR t) vs
    | .and => .plain (vs.foldl (· &&& ·) (2 ^ t.width - 1))
    | .or => .plain (vs.foldl (· ||| ·) 0)
    | .xor => .plain (vs.foldl (· ^^^ ·) 0)

/-- The index of MINI and MAXI (R230): the lowest lane whose value equals the result; the lowest of all where all are NaN;
32 where there is none. -/
def reduceIndex (t : Ty) (r : Nat) (lvs : List (Fin 32 × Nat)) : Nat :=
  match lvs with
  | [] => 32
  | x :: _ =>
    if t.isFloat && (fval t r).isNan then x.1.val
    else ((lvs.find? fun y => y.2 == r).map fun y => y.1.val).getD x.1.val

end Sys2Proof.Machine
end

