-- ==== Sys2Proof/Machine/Access.lean ====
section
/-!
DEFINITION. Lane accesses: scratchpad resolution (R237-R240), one access performed at its location (R80, R83, R249,
R253), FIFO banks (R247), and the life of a memory instruction from its lanes' accesses to its completion (R85, R97,
R236, R262).
-/

namespace Sys2Proof.Machine

open Sys2Proof

/-! ### Agents and places -/

/-- Base address of a launch's die pool (R31, R363). -/
def Launch.poolBase (l : Launch) : Nat := recField l.record 48 8

/-- What an access is made for: die, address space, the die pool it reaches (R30; level, base and size), and the lanes that it is made
for (core, slot, lanes), none for an engine. -/
structure Agent where
  die : Fin 4
  asid : Nat
  pool : Option (Nat × Nat × Nat)
  who : Option (Nat × Nat × Mask)
  deriving DecidableEq, Repr

/-- The agent that some lanes of a warp are. -/
def State.agentOf (s : State) (w : Warp) (m : Mask) : Agent :=
  match s.owner? w with
  | some o =>
    { die := dieOfCore w.core, asid := o.launch.asid
      pool := if o.launch.poolMiB == 0 then none
              else some (o.level.id, o.launch.poolBase, o.launch.poolMiB * 2 ^ 20)
      who := some (w.core, w.slot, m) }
  | none => { die := dieOfCore w.core, asid := 0, pool := none, who := some (w.core, w.slot, m) }

/-- The lowest-numbered lane of a mask, by which a fragment makes the accesses of R284, R354 and R389. -/
def firstLane (m : Mask) : Mask := m &&& (0 - m)

/-- The agent of one lane. -/
def Agent.lane (ag : Agent) (l : Fin 32) : Agent :=
  { ag with who := ag.who.map fun x => (x.1, x.2.1, maskOf (· == l)) }

/-- One byte's place: the device's memory, a die pool, or a SCRATCH bank. -/
inductive Phys where
  | pa (a : Nat)
  | pool (level off : Nat)
  | bank (core : Nat) (bank : Fin 12) (off : Nat)
  deriving DecidableEq, Repr

/-- What an address names (R239). -/
inductive Loc where
  | glob (va : Nat)
  | bank (core : Nat) (bank : Fin 12) (off : Nat)
  | fifo (core : Nat) (bank : Fin 12) (off : Nat)
  | switching
  deriving DecidableEq, Repr

/-- The addresses by which uncorrectable errors in a bank's bytes are kept, beyond every physical address. -/
def bankKey (core : Nat) (bank : Fin 12) (off : Nat) : Nat := 2 ^ 50 + (core * 12 + bank.val) * 2 ^ 16 + off

/-- The addresses by which uncorrectable errors in a die pool's bytes are kept. -/
def poolKey (level off : Nat) : Nat := 2 ^ 60 + level * 2 ^ 40 + off

/-- The bank of a core. -/
def State.bank (s : State) (core : Nat) (b : Fin 12) : Bank := s.cores[coreFin core].banks[b]

/-- Replace a bank. -/
def State.setBank (s : State) (core : Nat) (b : Fin 12) (x : Bank) : State :=
  let c := coreFin core
  { s with cores := s.cores.set c { s.cores[c] with banks := s.cores[c].banks.set b x } }

/-- The bank is held by a block of a gang (R239). -/
def State.heldByGang (s : State) (b : Bank) (gang : Nat) : Bool :=
  match b.holder with
  | some (.block id) => (s.block? id).any fun k => k.gang == gang
  | _ => false

/-- The FIFO grant at an index of an interface. -/
def State.grant? (s : State) (vi index : Nat) : Option FifoGrant :=
  (s.iface? vi).bind fun i => i.grants.find? fun g => g.index == index

/-- SpResolve (R239): where n bytes at a scratchpad address are, or SPFAULT. -/
def State.spResolve (s : State) (core : Nat) (blk : Block) (vi : Nat) (windows : Vector W64 16) (ea : W64) (n : Nat) :
    Option Loc :=
  if bits ea 63 22 != 0 then none
  else
    let e := windows[Fin.ofNat 16 (bits ea 19 16)]
    let off := bits ea 15 0
    let kind := bits e 63 62
    if kind == 0 || off + n > (bits e 15 12 + 1) * 4096 then none
    else if kind == 1 then
      let c := core / 4 * 4 + bits ea 21 20
      let b : Fin 12 := Fin.ofNat 12 (bits e 3 0)
      let k := s.bank c b
      if bits e 3 0 ≥ 12 then none
      else if k.switching.isSome then some .switching
      else if !s.heldByGang k blk.gang then none
      else match k.mode with
        | .scratch => some (.bank c b off)
        | .fifo => some (.fifo c b off)
        | .cache => none
    else if kind == 2 then some (.glob (bits e 56 16 * 2 ^ 16 + off))
    else
      match s.grant? vi (bits e 9 4) with
      | none => none
      | some g =>
        let k := s.bank g.core g.bank
        if k.switching.isSome then some .switching
        else if k.mode == .fifo then some (.fifo g.core g.bank off) else none

/-- Where the access of a lane goes, or its cause with FAULT.ADDR (R75, R236, R239). -/
def State.resolveLane (s : State) (w : Warp) (sp : Bool) (ea : W64) (n : Nat) (aligned : Bool) :
    Except (Nat × W64) Loc :=
  let mis := aligned && ea.toNat % n != 0
  if sp then
    match s.owner? w with
    | none => .error (cSPFAULT, ea)
    | some o =>
      match s.spResolve w.core o.block o.launch.queue.vi o.block.windows ea n with
      | none => .error (cSPFAULT, ea)
      | some (.glob va) => if mis then .error (cMISALIGNED, w64 va) else .ok (.glob va)
      | some (.bank c b off) => if mis then .error (cMISALIGNED, ea) else .ok (.bank c b off)
      | some l => .ok l
  else if bits ea 63 57 != 0 then .error (cNONCANON, ea)
  else if mis then .error (cMISALIGNED, ea)
  else .ok (.glob ea.toNat)

/-- A virtual address of an agent lies in its die pool (R30, R32). -/
def Agent.poolAt (ag : Agent) (va : Nat) : Option (Nat × Nat) :=
  ag.pool.bind fun p => if p.2.1 ≤ va && va < p.2.1 + p.2.2 then some (p.1, va - p.2.1) else none

/-- The core group whose region cache an agent uses; none for an engine. -/
def Agent.cg (ag : Agent) : Option (Fin 64) := ag.who.map fun x => cgOfCore x.1

/-- An agent's core group takes the region entry of an address that it holds none for (R414). -/
def State.noteAt (s : State) (ag : Agent) (va : Nat) : State :=
  match ag.poolAt va with
  | some _ => s
  | none => s.noteRegion ag.cg ag.asid va

/-- The place of one byte of a global address, with the translation it used; none where the region entry by which the home is
chosen is INVALID (R76, R414). -/
def State.placeByte (s : State) (ag : Agent) (kind : XKind) (stale : Bool) (va : Nat) :
    Except Nat (Phys × Option Xlate) :=
  match ag.poolAt va with
  | some (lv, off) => .ok (.pool lv off, none)
  | none =>
    if stale && (s.heldRegion ag.cg ag.asid va).any (fun e2 => bits e2 63 62 == 0) then .error cTRANSLATION
    else match s.xlate ag.asid va kind stale with
      | .error c => .error c
      | .ok x => .ok (.pa x.pa, some x)

/-- A place further on. -/
def Phys.plus : Phys → Nat → Phys
  | .pa a, k => .pa (a + k)
  | .pool l o, k => .pool l (o + k)
  | .bank c b o, k => .bank c b (o + k)

/-- The bytes of a virtual range. Bytes of a misaligned access past the top of the 57-bit space are those from address 0 up. (DESIGN
CHOICE, log 51.) -/
def vaBytes (va n : Nat) : List Nat := (List.range n).map fun k => (va + k) % 2 ^ 57

/-- Each byte's place in turn; where some have none, the highest-ranked cause (R169). -/
def State.placeEach (s : State) (ag : Agent) (kind : XKind) (stale : Bool) (vas : List Nat) :
    Except Nat (List (Phys × Option (Nat × Xlate))) :=
  let rs := vas.map fun va => (va, s.placeByte ag kind stale va)
  match minBy causeRank (rs.filterMap fun r => match r.2 with
      | .error c => some c
      | .ok _ => none) with
  | some c => .error c
  | none => .ok (rs.filterMap fun r => match r.2 with
      | .error _ => none
      | .ok (p, x) => some (p, x.map fun x => (r.1, x)))

/-- The places of n bytes of a global address: an aligned access lies in one page. -/
def State.places (s : State) (ag : Agent) (kind : XKind) (stale : Bool) (va n : Nat) :
    Except Nat (List (Phys × Option (Nat × Xlate))) :=
  if va % n == 0 then
    match s.placeByte ag kind stale va with
    | .error c => .error c
    | .ok (p, x) => .ok ((List.range n).map fun k => (p.plus k, if k == 0 then x.map fun x => (va, x) else none))
  else s.placeEach ag kind stale (vaBytes va n)

/-- The places of an access. -/
def State.placesOf (s : State) (ag : Agent) (kind : XKind) (stale : Bool) (l : Loc) (n : Nat) :
    Except Nat (List (Phys × Option (Nat × Xlate))) :=
  match l with
  | .glob va => s.places ag kind stale va n
  | .bank c b o => .ok ((List.range n).map fun k => (.bank c b (o + k), none))
  | _ => .ok []

/-- The address by which uncorrectable errors are kept. -/
def Phys.errKey : Phys → Nat
  | .pa a => a
  | .bank c b o => bankKey c b o
  | .pool l o => poolKey l o

/-- An uncorrectable error at a place (R262). -/
def State.badUnit (s : State) (p : Phys) : Bool := s.mem.poisoned p.errKey 1

/-- Package addresses among places. -/
def physPas (ps : List Phys) : List Nat := ps.filterMap fun p => match p with
  | .pa a => some a
  | _ => none

/-- The byte at a place as an agent of a die reads it. -/
def State.byteAt (s : State) (die : Fin 4) : Phys → Byte
  | .pa a => s.byteFor (some die) a
  | .pool l o => ((s.level? l).map fun d => cellRead d.pool o).getD 0
  | .bank c b o => cellRead (s.bank c b).data o

/-- Lanes that have read the forwarded values of .E stores at some addresses are among their readers (R87). -/
def State.noteReaders (s : State) (ag : Agent) (pas : List Nat) : State :=
  match ag.who with
  | none => s
  | some r =>
    let ids := (s.forwards.filter fun f => !f.dropped && f.die == ag.die && pas.contains f.pa).map fun f => f.req
    if ids.isEmpty then s
    else { s with reqs := replaceAll (fun q => ids.contains q.id) (fun q => { q with readers := r :: q.readers }) s.reqs }

/-- The bytes at places, read at once. -/
def State.bytesAt (s : State) (ag : Agent) (ps : List Phys) : List Byte × State :=
  (ps.map (s.byteAt ag.die), (s.drawn (physPas ps)).noteReaders ag (physPas ps))

/-- The bytes at places: at once where they are the place of an aligned access, else one by one (R80). -/
def State.readPlaces (s : State) (ag : Agent) (whole : Bool) (ps : List Phys) : List Byte × State :=
  if whole then s.bytesAt ag ps
  else ps.foldl (fun acc p =>
    let r := acc.2.bytesAt ag [p]
    (acc.1 ++ r.1, r.2)) ([], s)

/-! ### The global point of an .E store (R83, R422) -/

/-- The bytes of an .E store that has been accepted and not reached its global point. -/
def State.forwardsOf (s : State) (id : Nat) : List Forward := s.forwards.filter fun f => f.req == id

/-- The global point: the store is performed at its home and its forwarded value is an ordinary copy from then on. -/
def State.globalOne (s : State) (id : Nat) : State :=
  match s.reqs.find? fun r => r.id == id with
  | none => s
  | some r =>
    let fs := s.forwardsOf id
    let ds := s.mem.alts id (fs.map fun f => f.pa)
    let s1 := (fs.foldl (fun s f => s.memWrite r.asid f.pa [f.byte]) s).watching ds
    { s1 with
      forwards := s1.forwards.filter fun f => f.req != id
      reqs := replaceAll (fun q => q.id == id) (fun q => { q with phase := if q.phase == .accepted then .global else q.phase })
        s1.reqs }

/-- The .E stores of a die whose global point comes before that of a write to some addresses (R84), in the order of their acceptance:
those to these addresses, or before one of those; none accepted after `upTo`. -/
def State.chainE (s : State) (die : Fin 4) (pas : List Nat) (upTo : Option Nat) : List Nat :=
  let ids := ((s.forwards.filter fun f => f.die == die).map fun f => f.req).eraseDups
  let before := match upTo with
    | some id => ids.takeWhile (· != id)
    | none => ids
  (before.foldr (fun id acc =>
    let mine := (s.forwardsOf id).map fun f => f.pa
    if mine.any acc.2.contains then (id :: acc.1, mine ++ acc.2) else acc) ([], pas)).1

/-- The global point of an .E store, after those that precede it (R84). -/
def State.globalPoint (s : State) (r : Req) : State :=
  let before := s.chainE (dieOfCore r.frag.core) ((s.forwardsOf r.id).map fun f => f.pa) (some r.id)
  (before.foldl State.globalOne s).globalOne r.id

/-- A write of a die reaches the home: .E stores of that die that precede it in coherence order reach their global point
first (R84). -/
def State.settleE (s : State) (die : Fin 4) (ps : List Phys) : State := (s.chainE die (physPas ps) none).foldl State.globalOne s

/-- Write a byte to a place. -/
def State.putByte (s : State) (asid : Nat) : Phys → Byte → State
  | .pa a, b => s.memWrite asid a [b]
  | .pool l o, b =>
    { s with levels := replaceAll (fun d => d.id == l) (fun d => { d with pool := cellWrite d.pool o b }) s.levels }
  | .bank c k o, b =>
    let x := s.bank c k
    s.setBank c k { x with data := cellWrite x.data o b }

/-- Write bytes to places one by one. -/
def State.putEach (s : State) (asid : Nat) : List Phys → List Byte → State
  | p :: ps, b :: bs => (s.putByte asid p b).putEach asid ps bs
  | _, _ => s

/-- Write bytes to places; a unit of 32 bytes that they cover whole has no error any more (R262). -/
def State.putBytes (s : State) (asid : Nat) (ps : List Phys) (bs : List Byte) : State :=
  let s1 := s.putEach asid ps bs
  if s1.mem.poison.isEmpty then s1
  else
    let ks := ps.map Phys.errKey
    let whole := fun (u : Nat) => (List.range 32).all fun k => ks.contains (32 * u + k)
    { s1 with mem := { s1.mem with poison := s1.mem.poison.filter fun u => !whole u } }

/-- The translations used by an access take effect on the tables. -/
def State.useAll (s : State) (ag : Agent) (kind : XKind) (ps : List (Phys × Option (Nat × Xlate))) : State :=
  ps.foldl (fun s p => match p.2 with
    | some (va, x) => (s.noteAt ag va).useXlate ag.asid va kind x
    | none => s) s

/-! ### One access performed (R83, R249, R253) -/

/-- Kind of translation of an access. -/
def AccKind.xkind : AccKind → XKind
  | .load => .read
  | .atom _ _ => .atom
  | _ => .write

/-- The kind of access writes (FLAGS bit 0 of R170). -/
def AccKind.writes : AccKind → Bool
  | .load => false
  | _ => true

/-- The access is misaligned, and performed as single bytes (R80). -/
def Loc.whole (n : Nat) : Loc → Bool
  | .glob va => va % n == 0
  | .bank _ _ o => o % n == 0
  | _ => true

/-- The region entry by which a location's home is chosen. -/
def State.noteLoc (s : State) (ag : Agent) : Loc → State
  | .glob va => s.noteAt ag va
  | _ => s

/-- Perform an access at its location: the answer for the lane. FAULT.ADDR is `addr`. -/
def State.performAt (s : State) (ag : Agent) (kind : AccKind) (l : Loc) (addr : W64) (n : Nat) (data : W64)
    (stale : Bool) : State × Answer :=
  match s.placesOf ag kind.xkind stale l n with
  | .error c => (s.noteLoc ag l, .cause c addr)
  | .ok pxs =>
    let ps := pxs.map Prod.fst
    let s0 := s.useAll ag kind.xkind pxs
    if ps.any s.badUnit then (s0, .cause cMEMERR addr)
    else
      match kind with
      | .load =>
        let (bs, s1) := s0.readPlaces ag (l.whole n) ps
        (s1, .value (w64 (leNat bs)) 0)
      | .store | .storeE => ((s0.settleE ag.die ps).putBytes ag.asid ps (leBytes n data.toNat), .value 0 0)
      | .stnt =>
        (((s0.settleE ag.die ps).putBytes ag.asid ps (leBytes n data.toNat)).undirty (physPas ps), .value 0 0)
      | .atom aop t =>
        let s1 := s0.settleE ag.die ps
        let (bs, s2) := s1.bytesAt ag ps
        let m := leNat bs
        if aop == 7#4 then
          if m == data.toNat % 2 ^ 32 then
            (s2.putBytes ag.asid ps (leBytes n (data.toNat / 2 ^ 32)), .value (w64 (m + 2 ^ 32)) 0)
          else (s2, .value (w64 m) 0)
        else
          let r := atomNew aop.toNat t m (data.toNat % 2 ^ t.width)
          (s2.putBytes ag.asid ps (leBytes n r.1), .value (w64 m) r.2)

/-- The home die of a location as seen from a die; a bank or a pool is local. -/
def State.homeDie (s : State) (ag : Agent) : Loc → Nat
  | .glob va =>
    match ag.poolAt va with
    | some _ => ag.die.val
    | none => (s.homeOf ag.cg ag.asid va).getD ag.die.val
  | _ => ag.die.val

/-- The home dies of the bytes of an access; an access to a bank goes to none. -/
def State.homesOf (s : State) (ag : Agent) (l : Loc) (n : Nat) : List Nat :=
  match l with
  | .glob va => if va % n == 0 then [s.homeDie ag l] else ((vaBytes va n).map fun a => s.homeDie ag (.glob a)).eraseDups
  | _ => []

/-- Every byte of an access is served now. -/
def State.reaches (s : State) (ag : Agent) (l : Loc) (n : Nat) : Bool := (s.homesOf ag l n).all (s.serves ag.die.val)

/-- MEM.ACKTO in nanoseconds; a value below 10 acts as 10 (R97). -/
def State.ackNs (s : State) : Nat := (max 10 s.mgmt.ackTo) * 1000

/-! ### Order among requests in flight (R86, R249, R253) -/

/-- Two ranges of virtual addresses meet. -/
def rangesMeet (a n b k : Nat) : Bool := n != 0 && k != 0 && a < b + k && b < a + n

/-- Package addresses of n bytes by the tables as they stand. -/
def State.pasOf (s : State) (ag : Agent) (kind : XKind) (va n : Nat) : List Nat :=
  match s.places ag kind false va n with
  | .ok pxs => physPas (pxs.map Prod.fst)
  | .error _ => []

/-- A request in flight, not yet performed, touches a byte of a range of its address space: by address, or as a synonym. -/
def State.meets (s : State) (ag : Agent) (va n : Nat) (r : Req) : Bool :=
  rangesMeet va n r.va.toNat r.size
    || (let ps := s.pasOf ag .read r.va.toNat r.size; (s.pasOf ag .read va n).any ps.contains)

/-- Requests of one agent that a new access to a range must follow: those of its lane, and those of its own instruction (R86, R249). -/
def State.mustFollow (s : State) (ag : Agent) (fr : FragRef) (pos : Pos) (l : Fin 32) (va n : Nat) : Bool :=
  s.reqs.any fun r => r.phase == .issued && !r.lost && r.frag.core == fr.core && r.frag.slot == fr.slot
    && (r.lane == l || (r.frag == fr && r.pos == pos)) && s.meets ag va n r

/-- An STNT of some lanes that has not been performed touches a range: a later access of these lanes waits (R86). -/
def State.stntOver (s : State) (ag : Agent) (va n : Nat) : Bool :=
  match ag.who with
  | none => false
  | some (core, slot, m) =>
    s.reqs.any fun r => r.kind == .stnt && r.frag.core == core && r.frag.slot == slot && inMask m r.lane && s.meets ag va n r

/-- The requests that an access of a lane makes: one, or one for each byte of a misaligned access (R80). -/
def State.issue (s : State) (ag : Agent) (fr : FragRef) (pos : Pos) (l : Fin 32) (kind : AccKind) (va n : Nat) (data : W64) : State :=
  let parts : List (Nat × Nat × W64) :=
    if va % n == 0 then [(va, n, data)]
    else (vaBytes va n).zipIdx.map fun a => (a.1, 1, w64 (data.toNat / 2 ^ (8 * a.2) % 256))
  let rs := parts.zipIdx.map fun p =>
    ({ id := s.nextId + p.2, frag := fr, pos := pos, lane := l, kind := kind, asid := ag.asid, va := w64 p.1.1, size := p.1.2.1
       data := p.1.2.2, remote := s.homeDie ag (.glob p.1.1) != ag.die.val, lost := false, phase := .issued, idx := p.2
       count := parts.length, readers := [], answered := kind == .stnt, issuedAt := s.time, acceptedAt := 0 } : Req)
  { s with reqs := s.reqs ++ rs, nextId := s.nextId + parts.length }

/-- The address of the access that a request is a part of. -/
def Req.base (r : Req) : W64 := w64 ((r.va.toNat + 2 ^ 57 - (if r.count == 1 then 0 else r.idx)) % 2 ^ 57)

/-! ### FIFO banks (R247, R248) -/

/-- Serve the oldest waiting push of a bank when it has room. -/
def Bank.servePush (b : Bank) : Option (Bank × FifoWait) :=
  match b.pushes with
  | [] => none
  | x :: rest =>
    let ws := x.push.getD []
    if b.fifo.length + ws.length ≤ 16384 then some ({ b with fifo := b.fifo ++ ws, pushes := rest }, x) else none

/-- Serve the oldest waiting pop of a bank when the words are present: its words, and the place in the bank of the first. -/
def Bank.servePop (b : Bank) : Option (Bank × FifoWait × List W32) :=
  match b.pops with
  | [] => none
  | x :: rest =>
    let n := popcount x.lanes
    if n ≤ b.fifo.length then
      some ({ b with fifo := b.fifo.drop n, head := (b.head + n) % 16384, pops := rest }, x, b.fifo.take n)
    else none

/-- What the lanes of a pop receive: the words, and MEMERR for a word with an uncorrectable error (R262, R424). -/
def State.popAnswers (s : State) (core : Nat) (b : Fin 12) (head : Nat) (x : FifoWait) (ws : List W32) : List (Fin 32 × Answer) :=
  ((lanesOf x.lanes).zip (ws.zip x.addrs)).zipIdx.map fun v =>
    (v.1.1, if s.badUnit (.bank core b (4 * ((head + v.2) % 16384))) then .cause cMEMERR v.1.2.2 else .value (v.1.2.1.setWidth 64) 0)

/-! ### The life of a memory instruction -/

/-- The dispatched instruction at a position, an entry for it where there is none. -/
def Fragment.pendAt (f : Fragment) (c : Cursor) (i : Instr) : Pend :=
  match f.pend.find? fun e => e.pos == c.pos with
  | some e => e
  | none =>
    { seq := 0, pos := c.pos, next := c.next, instr := i, lanes := c.lanes, covered := c.covered, flight := 0
      answers := [], parts := [], since := none }

/-- Replace the dispatched instruction of a position. -/
def Fragment.setPend (f : Fragment) (e : Pend) : Fragment :=
  if f.pend.any fun d => d.pos == e.pos then
    { f with pend := replaceAll (fun d => d.pos == e.pos) (fun _ => e) f.pend }
  else { f with pend := f.pend ++ [e] }

/-- Lanes of an instruction that wait at a FIFO bank. -/
def State.fifoLanes (s : State) (fr : FragRef) (pos : Pos) : Mask :=
  ((List.finRange 256).flatMap fun c => (List.finRange 12).flatMap fun k =>
    (s.cores[c].banks[k].pushes ++ s.cores[c].banks[k].pops).filter fun x => x.frag == fr && x.pos == pos).foldl
      (fun m x => m ||| x.lanes) 0

/-- Causes among answers. -/
def answerCauses (as : List (Fin 32 × Answer)) : List LaneCause :=
  as.filterMap fun a => match a.2 with
    | .cause b addr => some (a.1, b, addr)
    | .value _ _ => none

/-- Answers that are values. -/
def answerValues (as : List (Fin 32 × Answer)) : List (Fin 32 × Answer) :=
  as.filter fun a => match a.2 with
    | .value _ _ => true
    | .cause _ _ => false

/-- Deliver the values of answers. -/
def Warp.deliverAll (w : Warp) (i : Instr) (as : List (Fin 32 × Answer)) : Warp :=
  as.foldl (fun w a => match a.2 with
    | .value v fl => w.deliver i a.1 v fl
    | .cause _ _ => w) w

/-- A memory instruction whose lanes have all answered, or wait only at FIFO banks, gives its values to the lanes; its
causes split off (R236), once no matrix loop holds the lanes together (R281) and no other strand has half done its work there (R268); and it completes when no lane is left. -/
def settleMem (s : State) (x : Focus) (k : Fin 8) (e : Pend) (fifo : Mask) : State :=
  if (e.flight &&& ~~~fifo) != 0 || (!(answerCauses e.answers).isEmpty
      && (s.loopBusy x.w x.f || s.splitBusy x.w x.f e.pos (lanesOfCauses (answerCauses e.answers)))) then
    put s x.w (x.f.setPend e)
  else
    let w1 := x.w.deliverAll e.instr e.answers
    let causes := answerCauses e.answers
    let f1 := x.f.setPend { e with answers := answerValues e.answers }
    let s1 : State × Bool :=
      match causes with
      | [] => (put s w1 f1, true)
      | _ => s.splitCauses { x with w := w1, f := f1 } causes (.strand k) { RaiseInfo.plain with write := e.instr.writesMem }
    if s1.2 && e.flight == 0 then
      match s1.1.focus? with
      | some y => finishStrand s1.1 y.c y.w y.f k
      | none => s1.1
    else s1.1

/-- The cursor of a dispatched instruction of a fragment. -/
def pendCursor (w : Warp) (f : Fragment) (e : Pend) : Cursor :=
  { core := w.core, slot := w.slot, uid := f.uid, pos := e.pos, next := e.next, lanes := e.lanes, covered := e.covered }

/-- A lane of a dispatched instruction has its answer. -/
def State.answerLane (s : State) (fr : FragRef) (pos : Pos) (as : List (Fin 32 × Answer)) : State :=
  match s.warp? fr.core fr.slot with
  | none => s
  | some w =>
    match w.frag? fr.uid with
    | none => s
    | some f =>
      match f.pend.find? fun e => e.pos == pos with
      | none => s
      | some e =>
        match e.instr.place with
        | .strand k =>
          let m := maskOf fun l => as.any fun a => a.1 == l
          let e1 := { e with flight := e.flight &&& ~~~m, answers := e.answers ++ as }
          let s1 := { s with cursor := some (pendCursor w f e) }
          let fifo := if e1.flight == 0 then 0 else s.fifoLanes fr pos
          settleMem s1 ⟨pendCursor w f e, w, f⟩ k e1 fifo
        | _ => s

/-- A request has been answered: its lane has its answer once every part of its access has one (R80). -/
def State.answerReq (s : State) (r : Req) (a : Answer) : State :=
  if r.count == 1 then s.answerLane r.frag r.pos [(r.lane, a)]
  else
    match (s.warp? r.frag.core r.frag.slot).bind fun w => (w.frag? r.frag.uid).bind fun f =>
        (f.pend.find? fun e => e.pos == r.pos).map fun e => (w, f, e) with
    | none => s
    | some (w, f, e) =>
      let ps := e.parts ++ [⟨r.lane, r.idx, r.count, a⟩]
      let mine := ps.filter fun p => p.lane == r.lane
      if wholeLane mine then
        (put s w (f.setPend { e with parts := ps.filter fun p => p.lane != r.lane })).answerLane r.frag r.pos
          [(r.lane, joinParts mine)]
      else put s w (f.setPend { e with parts := ps })

/-- A memory instruction whose answers are complete is settled: its split had waited for a matrix loop. -/
def State.resettle (s : State) (w : Warp) (f : Fragment) (e : Pend) : State :=
  match e.instr.place with
  | .strand k =>
    let fifo := if e.flight == 0 then 0 else s.fifoLanes ⟨w.core, w.slot, f.uid⟩ e.pos
    settleMem { s with cursor := some (pendCursor w f e) } ⟨pendCursor w f e, w, f⟩ k e fifo
  | _ => s

/-- Serve the waiting pushes and pops of a bank as far as words and room allow (R247). -/
def State.serveBank (s : State) (core : Nat) (b : Fin 12) : Nat → State
  | 0 => s
  | n + 1 =>
    match (s.bank core b).servePush with
    | some (b1, x) =>
      let as := (lanesOf x.lanes).map fun l => (l, Answer.value 0 0)
      ((s.setBank core b b1).answerLane x.frag x.pos as).serveBank core b n
    | none =>
      match (s.bank core b).servePop with
      | some (b1, x, ws) =>
        let as := s.popAnswers core b (s.bank core b).head x ws
        ((s.setBank core b b1).answerLane x.frag x.pos as).serveBank core b n
      | none => s

/-- One lane of a memory instruction. -/
structure LaneAcc where
  lane : Fin 32
  ea : W64
  data : W64
  loc : Except (Nat × W64) Loc

/-- The address for FAULT.ADDR: EA, or the global address a spill window gives (R236). -/
def faultAddr (sp : Bool) (ea : W64) : Loc → W64
  | .glob va => if sp then w64 va else ea
  | _ => ea

/-- What a memory instruction asks. -/
structure MemOp where
  kind : AccKind
  t : Ty
  m : MemOperand
  off : W64
  aligned : Bool
  fifoOk : Bool
  deriving DecidableEq, Repr

/-- A FIFO access breaks the rules of R247. -/
def MemOp.fifoBad (o : MemOp) (off : Nat) : Bool :=
  !o.fifoOk || off != 0 || !(o.t == .i32 || o.t == .n32 || o.t == .f32)

/-- The location of a lane's access with the FIFO rule applied. -/
def State.laneLoc (s : State) (w : Warp) (o : MemOp) (ea : W64) : Except (Nat × W64) Loc :=
  match s.resolveLane w o.m.sp ea (o.t.width / 8) o.aligned with
  | .ok (.fifo c b off) => if o.fifoBad off then .error (cSPFAULT, ea) else .ok (.fifo c b off)
  | r => r

/-- The state of a memory instruction while its lanes are taken up. -/
structure Taken where
  s : State
  answers : List (Fin 32 × Answer)
  flight : Mask
  fifos : List (Nat × Fin 12 × List (Fin 32))

/-- Add a lane to the group of its FIFO. -/
def addFifo (core : Nat) (b : Fin 12) (l : Fin 32) :
    List (Nat × Fin 12 × List (Fin 32)) → List (Nat × Fin 12 × List (Fin 32))
  | [] => [(core, b, [l])]
  | (c, k, ls) :: rest => if c == core && k == b then (c, k, ls ++ [l]) :: rest else (c, k, ls) :: addFifo core b l rest

/-- An access must be made by requests: its home does not serve it now or is remote for an .E store, an earlier one is in its way, or the
step leaves accesses in flight (log 2). -/
def State.mustIssue (s : State) (ag : Agent) (fr : FragRef) (pos : Pos) (l : Fin 32) (kind : AccKind) (va n : Nat) : Bool :=
  s.choice.defer || !s.reaches ag (.glob va) n
    || (kind == .storeE && (s.homesOf ag (.glob va) n).any (· != ag.die.val)) || s.mustFollow ag fr pos l va n

/-- Take up one lane: its access is performed at once, or requests are issued. -/
def takeLane (x : Focus) (o : MemOp) (ag0 : Agent) (st : Taken) (a : LaneAcc) : Taken :=
  let ag := ag0.lane a.lane
  let fr : FragRef := ⟨x.w.core, x.w.slot, x.f.uid⟩
  let n := o.t.width / 8
  let now := fun (loc : Loc) =>
    let (s1, ans) := st.s.performAt ag o.kind loc (faultAddr o.m.sp a.ea loc) n a.data st.s.choice.stale
    { st with s := s1, answers := st.answers ++ [(a.lane, ans)] }
  match a.loc with
  | .error (c, addr) => { st with answers := st.answers ++ [(a.lane, .cause c addr)] }
  | .ok (.fifo c b _) =>
    { st with flight := st.flight ||| maskOf (· == a.lane), fifos := addFifo c b a.lane st.fifos }
  | .ok (.glob va) =>
    if st.s.mustIssue ag fr x.c.pos a.lane o.kind va n then
      { st with s := st.s.issue ag fr x.c.pos a.lane o.kind va n a.data, flight := st.flight ||| maskOf (· == a.lane) }
    else now (.glob va)
  | .ok loc => now loc

/-- The data a lane stores or operates with: its accumulator's 64 bits. -/
def laneData (w : Warp) (k : Fin 8) (l : Fin 32) : W64 := (w.acc[k].val)[l]

/-- Put the FIFO groups of an instruction at their banks. -/
def joinFifos (x : Focus) (k : Fin 8) (o : MemOp) (s : State) (fs : List (Nat × Fin 12 × List (Fin 32))) : State :=
  fs.foldl (fun s g =>
    let b := s.bank g.1 g.2.1
    let m := maskOf fun l => g.2.2.contains l
    let wt : FifoWait :=
      { frag := ⟨x.w.core, x.w.slot, x.f.uid⟩, pos := x.c.pos, lanes := m
        push := if o.kind == .load then none else some (g.2.2.map fun l => (laneData x.w k l).setWidth 32)
        addrs := g.2.2.map fun l => effAddr x.w o.m o.off l }
    s.setBank g.1 g.2.1
      (if o.kind == .load then { b with pops := b.pops ++ [wt] } else { b with pushes := b.pushes ++ [wt] })) s

/-- A release, FENCE or arrival of this scope waits for global points (R87). -/
def wideScope (sc : Scope) : Bool := sc == .package || sc == .system

/-- Some .E store that lanes of a warp have written, or have read on their die, is not visible to all agents yet (R87). -/
def State.openE (s : State) (w : Warp) (m : Mask) : Bool :=
  s.reqs.any fun r => r.openE
    && ((r.frag.core == w.core && r.frag.slot == w.slot && inMask m r.lane)
      || r.readers.any fun d => d.1 == w.core && d.2.1 == w.slot && (d.2.2 &&& m) != 0)

/-- The losses of some lanes are raised and no longer pending. -/
def Fragment.clearLostIn (f : Fragment) (m : Mask) : Fragment := { f with lostAcks := Lanes.update f.lostAcks m fun _ => none }

/-- The losses of all lanes are raised and no longer pending. -/
def Fragment.clearLost (f : Fragment) : Fragment := { f with lostAcks := Lanes.all none }

/-- An instruction that releases at scope PACKAGE or SYSTEM (R87, R100). -/
def releasesWide (i : Instr) : Bool := i.releases.any wideScope

/-- A location at which an access is a push to a FIFO bank (R247). -/
def isPush (kind : AccKind) : Except (Nat × W64) Loc → Bool
  | .ok (.fifo _ _ _) => kind != .load
  | _ => false

/-- The lanes in which an instruction is a release of a wide scope: by its order, or as pushes to FIFO banks (R87, R248). -/
def State.wideLanes (s : State) (w : Warp) (i : Instr) (o : MemOp) (m : Mask) : Mask :=
  if releasesWide i then m
  else if o.m.sp then m &&& maskOf fun l => isPush o.kind (s.laneLoc w o (effAddr w o.m o.off l))
  else 0

/-- The location of a lane's access, or ACKLOST for a lane that releases at a wide scope with a lost acknowledgement (R100); SPFAULT
ranks above it (R236). -/
def ackOr (loc : Except (Nat × W64) Loc) (lost : Option W64) : Except (Nat × W64) Loc :=
  match loc, lost with
  | .error (c, a), some b => if c == cSPFAULT then .error (c, a) else .error (cACKLOST, b)
  | _, some b => .error (cACKLOST, b)
  | _, none => loc

/-- The lanes whose cause is ACKLOST. -/
def ackLanes (ls : List LaneAcc) : Mask :=
  maskOf fun l => ls.any fun a => a.lane == l && match a.loc with
    | .error (c, _) => c == cACKLOST
    | .ok _ => false

/-- The effect of LD, ST, LDNT and ATOM on the active lanes. An access that meets a bank whose switch is under way waits
(R246): the instruction stays dispatched. A lane that releases at a wide scope with a lost acknowledgement takes ACKLOST in
place of its access (R100). -/
def memEffect (i : Instr) (k : Fin 8) (o : MemOp) (s : State) (x : Focus) (m : Mask) : State :=
  let wide := s.wideLanes x.w i o m
  let lanes := (lanesOf m).map fun l =>
    let ea := effAddr x.w o.m o.off l
    let loc := ackOr (s.laneLoc x.w o ea) (if inMask wide l then x.f.lostAcks[l] else none)
    ({ lane := l, ea := ea, data := laneData x.w k l, loc := loc } : LaneAcc)
  if lanes.any (fun a => match a.loc with
      | .ok .switching => true
      | _ => false) then s
  else
    let y := if ackLanes lanes == 0 then x else { x with f := x.f.clearLostIn (ackLanes lanes) }
    let t := lanes.foldl (takeLane y o (s.agentOf y.w m)) ⟨s, [], 0, []⟩
    let e := { y.f.pendAt y.c i with flight := t.flight, answers := t.answers }
    let fifo := maskOf fun l => t.fifos.any fun g => g.2.2.contains l
    let s1 := joinFifos y k o t.s t.fifos
    let s2 := settleMem s1 y k e fifo
    t.fifos.foldl (fun s g => s.serveBank g.1 g.2.1 64) s2

/-- LD, ST, LDNT, ATOM. A release of a wide scope waits for global points (R87). -/
def memInstr (i : Instr) (k : Fin 8) (grd : Option Guard) (o : MemOp) (s : State) : Out :=
  strandInstr i k grd s fun x m =>
    if x.w.acc[k].tile.isSome then accMode s x k m
    else if s.openE x.w (s.wideLanes x.w i o m) then s
    else memEffect i k o s x m

end Sys2Proof.Machine
end

