-- ==== Sys2Proof/Machine/StrandMem.lean ====
section
/-!
DEFINITION. Memory instructions (10_strand_memory.md R234-R255, SLD R130), bank modes and windows (R241-R246), and the
events of their requests (R85, R97, R100, R247, R415).
-/

namespace Sys2Proof.Machine

open Sys2Proof

/-! ### LD, ST, LDNT, ATOM (R249, R250, R253) -/

/-- The access of a long LM form (R120). -/
def lmOp (kind : AccKind) (o : Lm) (fifoOk : Bool) : MemOp := ⟨kind, o.t, o.m, 0, false, fifoOk⟩

/-- The access of an extended LM form: OFF18 signed (R116). -/
def lmxOp (kind : AccKind) (o : LmX) (fifoOk : Bool) : MemOp :=
  ⟨kind, o.t, o.m, o.off.signExtend 64, o.ord != .rlx, fifoOk && o.ord == .rlx⟩

/-- LD. -/
def execLd (o : Lm) (s : State) : Out := memInstr (.ld o) o.a none (lmOp .load o true) s
/-- LD, extended. -/
def execLdExt (o : LmX) (s : State) : Out := memInstr (.ldExt o) o.a o.grd (lmxOp .load o true) s
/-- ST: .G. -/
def execSt (o : Lm) (s : State) : Out := memInstr (.st o) o.a none (lmOp .store o true) s
/-- ST, extended: .E where XD is 1 (R82). -/
def execStExt (o : LmX) (s : State) : Out :=
  memInstr (.stExt o) o.a o.grd (lmxOp (if o.xd then .storeE else .store) o true) s
/-- LDNT. -/
def execLdnt (o : Lm) (s : State) : Out := memInstr (.ldnt o) o.a none (lmOp .load o false) s
/-- LDNT, extended. -/
def execLdntExt (o : LmX) (s : State) : Out := memInstr (.ldntExt o) o.a o.grd (lmxOp .load o false) s

/-- ATOM: OFF16 signed, natural alignment always. -/
def execAtom (o : LmQ) (s : State) : Out :=
  memInstr (.atom o) o.a o.grd ⟨.atom o.aop o.t, o.t, o.m, o.off.signExtend 64, true, false⟩ s

/-! ### STNT (R91, R92, R250) -/

/-- A fault of an STNT waits for the lane's next DRAIN or EXIT; of the bytes of one access the highest-ranked counts (R169). -/
def noteFault (fs : List StntFault) (l : Fin 32) (bit : Nat) (addr : W64) : List StntFault :=
  let same := fun (t : StntFault) => t.lane == l && t.addr == addr
  if fs.any same then replaceAll same (fun t => if causeRank bit < causeRank t.bit then ⟨l, bit, addr⟩ else t) fs
  else fs ++ [⟨l, bit, addr⟩]

/-- A fault of an STNT of a lane of a fragment. -/
def Fragment.noteStnt (f : Fragment) (l : Fin 32) (bit : Nat) (addr : W64) : Fragment :=
  { f with stntFaults := noteFault f.stntFaults l bit addr }

/-- One lane of an STNT. (DEDUCED, log 36.) -/
def stntLane (x : Focus) (o : MemOp) (ag0 : Agent) (st : State × Fragment) (a : LaneAcc) : State × Fragment :=
  let ag := ag0.lane a.lane
  let fr : FragRef := ⟨x.w.core, x.w.slot, x.f.uid⟩
  let n := o.t.width / 8
  let now := fun (loc : Loc) =>
    match st.1.performAt ag .stnt loc (faultAddr o.m.sp a.ea loc) n a.data st.1.choice.stale with
    | (s1, .value _ _) => (s1, st.2)
    | (s1, .cause b addr) => (s1, st.2.noteStnt a.lane b addr)
  match a.loc with
  | .error (c, addr) => (st.1, st.2.noteStnt a.lane c addr)
  | .ok (.glob va) =>
    if st.1.mustIssue ag fr x.c.pos a.lane .stnt va n then (st.1.issue ag fr x.c.pos a.lane .stnt va n a.data, st.2)
    else now (.glob va)
  | .ok loc => now loc

/-- STNT completes when it is issued (R85). -/
def stntInstr (i : Instr) (k : Fin 8) (grd : Option Guard) (o : MemOp) (s : State) : Out :=
  strandInstr i k grd s fun x m =>
    if x.w.acc[k].tile.isSome then accMode s x k m
    else
      let lanes := (lanesOf m).map fun l =>
        let ea := effAddr x.w o.m o.off l
        ({ lane := l, ea := ea, data := laneData x.w k l, loc := s.laneLoc x.w o ea } : LaneAcc)
      if lanes.any (fun a => match a.loc with
          | .ok .switching => true
          | _ => false) then s
      else
        let t := lanes.foldl (stntLane x o (s.agentOf x.w m)) (s, x.f)
        finishStrand t.1 x.c x.w t.2 k

/-- STNT. -/
def execStnt (o : Lm) (s : State) : Out := stntInstr (.stnt o) o.a none (lmOp .stnt o false) s
/-- STNT, extended. -/
def execStntExt (o : LmX) (s : State) : Out := stntInstr (.stntExt o) o.a o.grd (lmxOp .stnt o false) s

/-! ### Requests (R85, R97, R100, R415) -/

/-- A request by its number. -/
def State.req? (s : State) (id : Nat) : Option Req := s.reqs.find? fun r => r.id == id

/-- Replace a request. -/
def State.setReq (s : State) (r : Req) : State := { s with reqs := replaceAll (fun q => q.id == r.id) (fun _ => r) s.reqs }

/-- A request is done, with its forwarded value and what its loss would have left. -/
def State.dropReq (s : State) (id : Nat) : State :=
  { s with reqs := s.reqs.filter fun r => r.id != id, forwards := s.forwards.filter fun f => f.req != id
           mem := { s.mem with watch := s.mem.watch.filter fun d => d.1 != id } }

/-- The agent that made a request. -/
def State.reqAgent (s : State) (r : Req) : Agent :=
  let m := maskOf (· == r.lane)
  match s.warp? r.frag.core r.frag.slot with
  | some w => s.agentOf w m
  | none => { die := dieOfCore r.frag.core, asid := r.asid, pool := none, who := some (r.frag.core, r.frag.slot, m) }

/-- What a lane has still to raise changes where the lane stands: in its fragment, or in its record of the deferred-side stack.
(DESIGN CHOICE, log 41.) -/
def State.onLane (s : State) (core slot : Nat) (l : Fin 32) (lost : Lanes (Option W64) → Lanes (Option W64))
    (stnt : List StntFault → List StntFault) : State :=
  match s.warp? core slot with
  | none => s
  | some w =>
    let g := fun (f : Fragment) => { f with lostAcks := lost f.lostAcks, stntFaults := stnt f.stntFaults }
    let d := fun (x : Deferred) => { x with lostAcks := lost x.lostAcks, stntFaults := stnt x.stntFaults }
    s.setWarp { w with frags := replaceFirst (fun f => inMask f.lanes l) g w.frags
                       deferred := replaceFirst (fun x => inMask x.lanes l) d w.deferred }

/-- No response that comes now counts any more (R97, R100, R263). -/
def State.expired (s : State) (r : Req) (since : Nat) : Bool := r.remote && s.time ≥ since + s.ackNs

/-- An .E store with remote home is accepted: translated and checked, its value forwarded on the issuing die (R83, R85). -/
def State.acceptE (s : State) (ag : Agent) (r : Req) : State :=
  match s.placesOf ag .write s.choice.stale (.glob r.va.toNat) r.size with
  | .error c => s.setReq { r with phase := .performed (.cause c r.base) }
  | .ok pxs =>
    let ps := pxs.map Prod.fst
    let s1 := s.useAll ag .write pxs
    if ps.any s.badUnit then s1.setReq { r with phase := .performed (.cause cMEMERR r.base) }
    else
      let fs := ((physPas ps).zip (leBytes r.size r.data.toNat)).map fun x =>
        ({ dropped := false, req := r.id, die := ag.die, pa := x.1, byte := x.2 } : Forward)
      ({ s1 with forwards := s1.forwards ++ fs }).setReq { r with phase := .performed (.value 0 0) }

/-- A request is performed at its home: the answer of a remote home is on its way then. -/
def State.performReq (s : State) (r : Req) : State :=
  let ag := s.reqAgent r
  if r.kind == .storeE && r.remote then s.acceptE ag r
  else
    let ds := if r.remote && r.kind.writes then s.mem.alts r.id (s.pasOf ag r.kind.xkind r.va.toNat r.size) else []
    let p := s.performAt ag r.kind (.glob r.va.toNat) r.base r.size r.data s.choice.stale
    let s1 := p.1.watching ds
    if r.kind == .stnt then
      match p.2 with
      | .value _ _ => s1.dropReq r.id
      | .cause b addr => (s1.dropReq r.id).onLane r.frag.core r.frag.slot r.lane id fun fs => noteFault fs r.lane b addr
    else if !r.remote && r.kind.xkind == .write then (s1.dropReq r.id).answerReq r p.2
    else s1.setReq { r with phase := .performed p.2 }

/-- A request must be performed before another: an earlier one of its lane, or of a lower lane of its instruction, to a common byte
(R86, R249, R253). -/
def State.precedes (s : State) (r q : Req) : Bool :=
  q.id < r.id && q.phase == .issued && !q.lost
    && ((q.frag.core == r.frag.core && q.frag.slot == r.frag.slot && q.lane == r.lane) || (q.frag == r.frag && q.pos == r.pos))
    && s.meets (s.reqAgent r) r.va.toNat r.size q

/-- The requests that are performed with an ATOM's: those of its instruction at its location, in ascending lane order (R253). -/
def State.together (s : State) (r : Req) : List Req :=
  match r.kind with
  | .atom _ _ =>
    s.reqs.filter fun q => q.id == r.id || (q.phase == .issued && !q.lost && q.frag == r.frag && q.pos == r.pos
      && s.meets (s.reqAgent r) r.va.toNat r.size q)
  | _ => [r]

/-- HOME_ACCESS (R415): a request reaches its home and is performed; an accepted .E store reaches its global point. -/
def State.homeAccess (s : State) (id : Nat) : Option State :=
  match s.req? id with
  | none => none
  | some r =>
    let ag := s.reqAgent r
    if r.lost || !s.serves ag.die.val (s.homeDie ag (.glob r.va.toNat)) then none
    else match r.phase with
      | .issued =>
        if s.reqs.any (s.precedes r) then none
        else some ((s.together r).foldl State.performReq s)
      | .accepted => some (s.globalPoint r)
      | .performed (.value _ _) =>
        if r.kind == .storeE && !(s.forwardsOf id).isEmpty then some (s.globalPoint r) else none
      | _ => none

/-- LOAD_RESPONSE (R85): the value, or the cause, of a load or ATOM reaches its lane. -/
def State.loadResponse (s : State) (id : Nat) : Option State :=
  match s.req? id with
  | none => none
  | some r =>
    match r.phase with
    | .performed a =>
      if r.lost || r.kind.xkind == .write || s.expired r r.issuedAt then none
      else some ((s.dropReq id).answerReq r a)
    | _ => none

/-- STORE_ACCEPTANCE (R85): the acceptance of a remote .E store reaches the core. -/
def State.storeAcceptance (s : State) (id : Nat) : Option State :=
  match s.req? id with
  | none => none
  | some r =>
    match r.phase with
    | .performed a =>
      if r.lost || r.kind != .storeE || s.expired r r.issuedAt then none
      else if r.remote && a.isValue then some ((s.setReq (s.letGo r)).answerReq r a)
      else some ((s.dropReq id).answerReq r a)
    | _ => none

/-- GLOBAL_ACKNOWLEDGEMENT (R83, R85): it completes a .G store, and ends an .E store whose global point has passed. -/
def State.globalAck (s : State) (id : Nat) : Option State :=
  match s.req? id with
  | none => none
  | some r =>
    match r.phase with
    | .performed a =>
      if r.lost || r.kind != .store || s.expired r r.issuedAt then none else some ((s.dropReq id).answerReq r a)
    | .global => if r.lost || s.expired r r.acceptedAt then none else some (s.dropReq id)
    | _ => none

/-- Locations become indeterminate (R98): other values that reads of them may return. -/
def State.makeIndet (s : State) (ds : List Alt) : State := { s with mem := { s.mem with indet := ds ++ s.mem.indet } }

/-- Package addresses of a request's bytes by the tables as they stand. -/
def State.reqPas (s : State) (r : Req) : List Nat := s.pasOf (s.reqAgent r) r.kind.xkind r.va.toNat r.size

/-- The bytes a lost write would have left, over what the location holds. -/
def State.lostBytes (s : State) (r : Req) (pas : List Nat) : List Byte :=
  match r.kind with
  | .atom aop t =>
    let m := leNat (pas.map s.mem.byte)
    if aop == 7#4 then
      leBytes r.size (if m == r.data.toNat % 2 ^ 32 then r.data.toNat / 2 ^ 32 else m)
    else leBytes r.size (atomNew aop.toNat t m (r.data.toNat % 2 ^ t.width)).1
  | _ => leBytes r.size r.data.toNat

/-- What the loss of a request leaves to be read besides what its location holds (R98): the lost value where the store has not been
performed at its home, else what it replaced, unless a later store has been performed there. -/
def State.lostAlts (s : State) (r : Req) : List Alt :=
  let fs := s.forwardsOf r.id
  let unsent := let pas := s.reqPas r; (pas.zip (s.lostBytes r pas)).map fun x => (⟨x.1, x.2, r.id⟩ : Alt)
  let performed := (s.mem.watch.filter fun d => d.1 == r.id).map Prod.snd
  match r.kind, r.phase with
  | .load, _ => []
  | _, .performed (.cause _ _) => []
  | _, .issued => unsent
  | _, _ => if fs.isEmpty then performed else fs.map fun f => ⟨f.pa, f.byte, r.id⟩

/-- The location of a lost write becomes indeterminate (R97, R98, R100, R263). -/
def State.loseWrite (s : State) (r : Req) : State :=
  let ds := s.lostAlts r
  if ds.isEmpty then s else s.makeIndet ds

/-- ACKLOST_TIMEOUT (R97, R263): no response within MEM.ACKTO; the lane takes ACKLOST. -/
def State.acklost (s : State) (id : Nat) : Option State :=
  match s.req? id with
  | none => none
  | some r =>
    if !r.remote || r.answered || s.time < r.issuedAt + s.ackNs then none
    else some (((s.loseWrite r).dropReq id).answerReq r (.cause cACKLOST r.base))

/-- The global acknowledgement of an .E store is lost (R100). -/
def State.loseGlobal (s : State) (r : Req) : State :=
  ((s.loseWrite r).dropReq r.id).onLane r.frag.core r.frag.slot r.lane
    (fun ls => ls.set r.lane (match ls[r.lane] with
      | some a => some a
      | none => some r.base)) id

/-- GLOBAL_ACK_LOSS (R100): MEM.ACKTO passes after the acceptance. -/
def State.globalAckLoss (s : State) (id : Nat) : Option State :=
  match s.req? id with
  | none => none
  | some r =>
    if (r.phase == .accepted || r.phase == .global) && s.time ≥ r.acceptedAt + s.ackNs then some (s.loseGlobal r)
    else none

/-- An event takes effect where it is enabled; otherwise nothing happens. -/
def event (s : State) (r : Option State) : Out := .next (r.getD s)

/-- LOAD_RESPONSE. -/
def execLoadResponse (id : Nat) (s : State) : Out := event s (s.loadResponse id)
/-- STORE_ACCEPTANCE. -/
def execStoreAcceptance (id : Nat) (s : State) : Out := event s (s.storeAcceptance id)
/-- GLOBAL_ACKNOWLEDGEMENT. -/
def execGlobalAcknowledgement (id : Nat) (s : State) : Out := event s (s.globalAck id)
/-- ACKLOST_TIMEOUT. -/
def execAcklostTimeout (id : Nat) (s : State) : Out := event s (s.acklost id)
/-- GLOBAL_ACK_LOSS. -/
def execGlobalAckLoss (id : Nat) (s : State) : Out := event s (s.globalAckLoss id)
/-- HOME_ACCESS. -/
def execHomeAccess (id : Nat) (s : State) : Out := event s (s.homeAccess id)

/-- FIFO_BANK_SERVE (R247): waiting groups are served as far as words and room allow. -/
def execFifoBankServe (core : Fin 256) (bank : Fin 12) (s : State) : Out :=
  .next (s.serveBank core.val bank 64)

/-! ### FENCE and DRAIN (R251, R87, R91, R92, R100) -/

/-- Lanes of a fragment with a lost global acknowledgement, as causes (R100). -/
def lostCauses (f : Fragment) : List LaneCause :=
  (lanesOf f.lanes).filterMap fun l => (f.lostAcks[l]).map fun a => (l, cACKLOST, a)

/-- What every release of a scope does first at a meeting instruction: lost acknowledgements split off, and the rest waits
for global points; then `k`. -/
def releaseThen (s : State) (x : Focus) (sc : Scope) (k : State → Focus → State) : State :=
  if wideScope sc then
    meetSplit s { x with f := if lostCauses x.f == [] then x.f else x.f.clearLost } (lostCauses x.f) RaiseInfo.plain
      fun s1 y => if s1.openE y.w y.f.lanes then waitRetry s1 y else k s1 y
  else k s x

/-- FENCE. -/
def execFence (b : Bool) (sc : Scope) (s : State) : Out :=
  meetInstr (.fence b sc) s fun x => releaseThen s x sc fun s1 y => meetDone s1 y y.w

/-- An STNT of a lane of the fragment is outstanding. -/
def State.openStnt (s : State) (x : Focus) : Bool :=
  s.reqs.any fun r => r.kind == .stnt && r.frag.core == x.w.core && r.frag.slot == x.w.slot && inMask x.f.lanes r.lane

/-- Faults of STNTs as causes, the first of each lane (R92). -/
def stntCauses (f : Fragment) : List LaneCause :=
  (lanesOf f.lanes).filterMap fun l => (f.stntFaults.find? fun t => t.lane == l).map fun t => (l, t.bit, t.addr)

/-- STNTs of the lanes are performed first and their faults raised; then `k`. -/
def drainThen (s : State) (x : Focus) (k : State → Focus → State) : State :=
  if s.openStnt x then waitRetry s x
  else meetSplit s { x with f := { x.f with stntFaults := [] } } (stntCauses x.f) { RaiseInfo.plain with write := true } k

/-- DRAIN. -/
def execDrain (b : Bool) (sc : Scope) (s : State) : Out :=
  meetInstr (.drain b sc) s fun x => drainThen s x fun s1 y => meetDone s1 y y.w

/-! ### SLD (R130) -/

/-- Causes that some bytes of an access give by translation, and ACKLOST where some home is out of reach. -/
def State.readCauses (s : State) (ag : Agent) (va n : Nat) : List Nat :=
  (vaBytes va n).filterMap fun a =>
    if !s.serves ag.die.val (s.homeDie ag (.glob a)) then some cACKLOST
    else match s.placeByte ag .read false a with
      | .error c => some c
      | .ok _ => none

/-- SLD: every cause in every lane, without a split. -/
def sldEffect (s : State) (x : Focus) (d : Fin 32) (addr : W64) : State :=
  let ag := s.agentOf x.w x.f.lanes
  let loc := Loc.glob addr.toNat
  let raise := fun c => raiseAll s x .meeting c (fun _ => addr) RaiseInfo.plain
  if bits addr 63 57 != 0 then raise cNONCANON
  else if s.stntOver ag addr.toNat 8 then waitRetry s x
  else if !s.reaches ag loc 8 then
    (if (s.homesOf ag loc 8).all (· == ag.die.val) || s.time < outSince s x + s.ackNs then waitOut s x
     else raise ((minBy causeRank (s.readCauses ag addr.toNat 8)).getD cACKLOST))
  else
    match s.performAt ag .load loc addr 8 0 s.choice.stale with
    | (s1, .cause c _) => raiseAll s1 x .meeting c (fun _ => addr) RaiseInfo.plain
    | (s1, .value v _) => meetDone s1 x (x.w.writeS d v)

/-- SLD. -/
def execSld (b : Bool) (d a : Fin 32) (off : BitVec 11) (s : State) : Out :=
  meetInstr (.sld b d a off) s fun x => sldEffect s x d (x.w.s[a] + off.signExtend 64)
/-- SLD, extended. -/
def execSldExt (b : Bool) (d a : Fin 32) (off : BitVec 30) (s : State) : Out :=
  meetInstr (.sldExt b d a off) s fun x => sldEffect s x d (x.w.s[a] + off.signExtend 64)

/-! ### WAITA (R254, R255) -/

/-- Compare with the memory value on the left. -/
def waitaCmp (aop : Nat) (t : Ty) (m v : Nat) : Bool := condOrd (Cond.ofCode aop) (compare (ival t m) (ival t v))

/-- A WAITA while its lanes are examined: `since` says since when a lane's home has been out of reach (R263). -/
structure WaitaRun where
  s : State
  sat : Mask
  obs : Lanes W64
  since : Lanes (Option Nat)
  causes : List LaneCause

/-- One lane of a WAITA. -/
def waitaLane (x : Focus) (o : LmQ) (ag0 : Agent) (r : WaitaRun) (l : Fin 32) : WaitaRun :=
  if inMask r.sat l then r
  else
    let ag := ag0.lane l
    let ea := effAddr x.w o.m (o.off.signExtend 64) l
    let n := o.t.width / 8
    let look := fun (loc : Loc) =>
      let addr := faultAddr o.m.sp ea loc
      if !r.s.reaches ag loc n then
        match r.since[l] with
        | some t => if r.s.time ≥ t + r.s.ackNs then { r with causes := r.causes ++ [(l, cACKLOST, addr)] } else r
        | none => { r with since := r.since.set l (some r.s.time) }
      else
        match r.s.performAt ag .load loc addr n 0 r.s.choice.stale with
        | (s1, .cause c a) => { r with s := s1, causes := r.causes ++ [(l, c, a)] }
        | (s1, .value m _) =>
          let v := lowBits o.t (laneData x.w o.a l)
          if waitaCmp o.aop.toNat o.t m.toNat v then
            { r with s := s1, sat := r.sat ||| maskOf (· == l), obs := r.obs.set l m }
          else { r with s := s1, since := r.since.set l none }
    match r.s.resolveLane x.w o.m.sp ea n true with
    | .error (c, a) => { r with causes := r.causes ++ [(l, c, a)] }
    | .ok (.fifo _ _ _) => { r with causes := r.causes ++ [(l, cSPFAULT, ea)] }
    | .ok .switching => r
    | .ok (.glob va) => if r.s.stntOver ag va n then r else look (.glob va)
    | .ok loc => look loc

/-- WAITA: the lanes that are active are those of its guard when it begins (R118). -/
def execWaita (o : LmQ) (s : State) : Out :=
  meetInstr (.waita o) s fun x =>
    if x.w.acc[o.a].tile.isSome then raisePlain s x .meeting cACCMODE
    else
      let st : Mask × Mask × Lanes W64 × Lanes (Option Nat) := match x.f.status with
        | .waiting (.waita act sat obs since) => (act, sat, obs, since)
        | _ => (x.f.lanes &&& guardMask x.w o.grd, 0, Lanes.all 0, Lanes.all none)
      let m := x.f.lanes &&& st.1
      let r := (lanesOf m).foldl (waitaLane x o (s.agentOf x.w m)) ⟨s, st.2.1, st.2.2.1, st.2.2.2, []⟩
      meetSplit r.s { x with f := { x.f with status := .waiting (.waita m r.sat r.obs r.since) } } r.causes RaiseInfo.plain
        fun s1 y =>
          let my := y.f.lanes &&& m
          if (my &&& ~~~r.sat) == 0 then
            meetDone s1 y (y.w.writeAcc o.a my fun l => accImage o.t (lowBits o.t r.obs[l]))
          else put s1 y.w y.f

/-! ### Windows and bank modes (R241, R244-R246) -/

/-- The checks of SPMAP on an entry (R241). -/
def windowOk (v : W64) : Bool :=
  let kind := bits v 63 62
  bits v 61 57 == 0 && bits v 11 10 == 0 && (kind == 2 || bits v 56 16 == 0) && (kind == 3 || bits v 9 4 == 0)
    && (kind == 1 || bits v 3 0 == 0) && bits v 3 0 < 12

/-- BANKFAULT with its code, in every lane, without a split. -/
def bankFault (s : State) (x : Focus) (code : Nat) : State :=
  raiseAll s x .meeting cBANKFAULT (fun _ => 0) { RaiseInfo.plain with code := BitVec.ofNat 16 code }

/-- SPMAP. -/
def execSpmap (b : Bool) (sr : Fin 32) (w : Fin 16) (s : State) : Out :=
  meetInstr (.spmap b sr w) s fun x =>
    let v := x.w.s[sr]
    if !windowOk v then bankFault s x 4
    else
      meetDone { s with blocks := replaceAll (fun k => k.id == x.w.block) (fun k => { k with windows := k.windows.set w v })
                          s.blocks } x x.w

/-- CACHE banks of a core that stay so. -/
def State.cacheBanks (s : State) (core : Nat) : Nat :=
  ((List.finRange 12).filter fun k => (s.bank core k).mode == .cache && (s.bank core k).switching.isNone).length

/-- Why a bank switch is refused (R245). -/
def State.bankRefusal (s : State) (core : Nat) (n : Fin 12) (blk : Nat) (mode : BankMode) : Option Nat :=
  let b := s.bank core n
  if b.holder.isSome && b.holder != some (.block blk) then some 1
  else if b.mode == .fifo && mode != .fifo && (!b.fifo.isEmpty || !b.pushes.isEmpty || !b.pops.isEmpty) then some 2
  else if b.mode == .cache && mode != .cache && s.cacheBanks core == 1 then some 3
  else none

/-- The bank after a switch: SCRATCH reads zero, FIFO is empty, a CACHE way is empty and held by none. -/
def Bank.switched (mode : BankMode) (holder : Option Holder) : Bank :=
  { mode := mode, holder := if mode == .cache then none else holder, data := [], fifo := [], head := 0, pushes := [], pops := []
    switching := none }

/-- When a BANKMODE reached its bank, and whether its switch has begun. -/
def switchOrder (s : State) (f : Fragment) : Nat × Bool :=
  match f.status with
  | .waiting (.switch _ o b) => (o, b)
  | _ => (s.clock, false)

/-- An earlier BANKMODE of the core that names the bank is not complete (R246). -/
def State.switchBefore (s : State) (core : Nat) (n : Fin 12) (order : Nat) : Bool :=
  s.warps.any fun w => w.core == core && w.frags.any fun f => match f.status with
    | .waiting (.switch k o _) => k == n && o < order
    | _ => false

/-- BANKMODE: it starts the switch and waits until the switch is complete; BANKMODEs that name one bank take effect in the order in which
they reach it (R245, R246). -/
def bankmode (i : Instr) (n : Fin 12) (mode : BankMode) (s : State) : Out :=
  meetInstr i s fun x =>
    let b := s.bank x.w.core n
    let o := switchOrder s x.f
    let wait := fun (s : State) (begun : Bool) => waitHere s x.w x.f (.switch n o.1 begun)
    if b.switching.isSome || s.switchBefore x.w.core n o.1 then wait s o.2
    else if o.2 || (b.mode == mode && (mode == .cache || b.holder == some (.block x.w.block))) then meetDone s x x.w
    else match s.bankRefusal x.w.core n x.w.block mode with
      | some code => bankFault s x code
      | none => wait (s.setBank x.w.core n { b with switching := some (mode, some (.block x.w.block)) }) true

/-- BANKMODE.CACHE. -/
def execBankmodeCache (b : Bool) (n : Fin 12) (s : State) : Out := bankmode (.bankmodeCache b n) n .cache s
/-- BANKMODE.SCRATCH. -/
def execBankmodeScratch (b : Bool) (n : Fin 12) (s : State) : Out := bankmode (.bankmodeScratch b n) n .scratch s
/-- BANKMODE.FIFO. -/
def execBankmodeFifo (b : Bool) (n : Fin 12) (s : State) : Out := bankmode (.bankmodeFifo b n) n .fifo s

end Sys2Proof.Machine
end

