-- ==== Sys2Proof/Machine/Barrier.lean ====
section
/-!
DEFINITION. Barriers (R256-R261) with the die and grid barriers (R350-R352): arrival, episodes, release in swaths, and
what retirement does to them (R43).
-/

namespace Sys2Proof.Machine

open Sys2Proof

/-! ### The barriers' state -/

/-- A barrier; one that nothing has reached is in episode 0. -/
def State.barrier (s : State) (k : BarKey) : Barrier :=
  match s.barriers.find? fun b => b.key == k with
  | some b => b
  | none => { key := k, episode := 0, count := none, warps := [] }

/-- Replace a barrier. -/
def State.setBarrier (s : State) (b : Barrier) : State :=
  if s.barriers.any fun x => x.key == b.key then
    { s with barriers := replaceAll (fun x => x.key == b.key) (fun _ => b) s.barriers }
  else { s with barriers := s.barriers ++ [b] }

/-- A warp at a barrier. -/
def Barrier.warp (b : Barrier) (core slot : Nat) : BarWarp :=
  match b.warps.find? fun x => x.core == core && x.slot == slot with
  | some x => x
  | none => { core := core, slot := slot, arrived := 0, owed := 0, ep := 0, done := false }

/-- Replace a warp at a barrier. -/
def Barrier.setWarp (b : Barrier) (x : BarWarp) : Barrier :=
  { b with warps := x :: b.warps.filter fun y => !(y.core == x.core && y.slot == x.slot) }

/-- The unit that a barrier gathers. -/
def State.inUnit (s : State) (w : Warp) : BarKey → Bool
  | .block b => w.block == b
  | .named b _ => w.block == b
  | .gang g => (s.block? w.block).any fun k => k.gang == g
  | .die d => (s.owner? w).any fun o => o.level.id == d
  | .grid l => (s.owner? w).any fun o => o.launch.id == l

/-- Unretired warps of a barrier's unit. -/
def State.unitWarps (s : State) (k : BarKey) : List Warp := s.warps.filter fun w => w.unretired != 0 && s.inUnit w k

/-- The number of warps an episode expects (R257, R350). -/
def State.expected (s : State) (b : Barrier) : Nat :=
  let n := (s.unitWarps b.key).length
  match b.key, b.count with
  | .named _ _, some c => if c == 0 then n else min c n
  | _, _ => n

/-- The warp's arrival is complete: each unretired lane has arrived (R258). -/
def Warp.arrivedAll (w : Warp) (x : BarWarp) : Bool := w.unretired != 0 && (w.unretired &&& ~~~x.arrived) == 0

/-- Warps that have arrived in the open episode. -/
def State.arrivals (s : State) (b : Barrier) : Nat :=
  ((s.unitWarps b.key).filter fun w => w.arrivedAll (b.warp w.core w.slot)).length

/-! ### Release (R259, R261, R352) -/

/-- FCLK cycles in nanoseconds at 1.9 GHz, rounded up. (DESIGN CHOICE, log 43.) -/
def cyclesNs (n : Nat) : Nat := (n * 10 + 18) / 19

/-- The order in which an episode releases its warps: R261 for block, gang and named barriers, R352 for die and grid
barriers and REDT groups of episode e. (DESIGN CHOICE, log 32.) -/
def releaseKey (rot : Option Nat) (core slot : Nat) : Nat :=
  match rot with
  | none => (core % 4) * 64 + slot
  | some e =>
    let die := (core / 64 + 4 - e % 4) % 4
    let cg := (core / 4 % 16 + 16 - e % 16) % 16
    let rank := (core % 4 + 4 - e % 4) % 4
    ((die * 16 + cg) * 4 + rank) * 64 + slot

/-- Insert by a key, keeping order. -/
def insertBy {α : Type} (key : α → Nat) (x : α) : List α → List α
  | [] => [x]
  | y :: ys => if key x < key y then x :: y :: ys else y :: insertBy key x ys

/-- Sort by a key. -/
def sortBy {α : Type} (key : α → Nat) (xs : List α) : List α := xs.foldl (fun acc x => insertBy key x acc) []

/-- When the warp at a place of the release order is released: core group by core group, in swaths. -/
def State.releaseDue (s : State) (rot : Option Nat) (order : List (Nat × Nat)) (core slot : Nat) : Nat :=
  let cg := cgOfCore core
  let mine := order.filter fun x => cgOfCore x.1 == cg
  let place := (mine.idxOf? (core, slot)).getD 0
  let slope := s.cgs[cg].slope
  let swath := max 1 (bits slope 23 16)
  let groups := (order.map fun x => cgOfCore x.1).eraseDups
  let q := match rot with
    | none => 0
    | some _ => (groups.idxOf? cg).getD 0
  let gap := bits (s.dies[dieOfCore core].collCfg) 15 0
  s.time + cyclesNs (q * gap + place / swath * bits slope 15 0)

/-- A fragment becomes ready at a position after a wait, now or at its swath's time (R261). -/
def Fragment.release (f : Fragment) (clock time due : Nat) (after : Pos) : Fragment :=
  if due ≤ time then { f.atFence after with status := .ready, age := clock }
  else { f with status := .waiting (.swath due after) }

/-- Release the fragments of a warp that wait for an episode of a barrier. -/
def Warp.releaseBar (w : Warp) (k : BarKey) (ep clock time due : Nat) : Warp :=
  { w with frags := w.frags.map fun f =>
      match f.status with
      | .waiting (.barrier k' ep' after) => if k' == k && ep' == ep then f.release clock time due after else f
      | _ => f }

/-- Results of the value forms (R351): r in the destination of each warp that arrived with a value, its flags in FPSTAT. -/
def State.giveValues (s : State) (k : BarKey) : State :=
  match s.barValues.find? fun v => v.key == k with
  | none => s
  | some v =>
    let r := reduceVals v.op v.ty.ty (v.values.map BitVec.toNat)
    let s1 := v.dests.foldl (fun s d =>
      match s.warp? d.1.core d.1.slot with
      | none => s
      | some w => s.setWarp { w.writeS d.2 (w64 r.bits) with fpstat := w.fpstat ||| w32 r.flags }) s
    { s1 with barValues := s1.barValues.filter fun x => x.key != k }

/-- The rotation of a barrier's release order. -/
def Barrier.rotation (b : Barrier) : Option Nat :=
  match b.key with
  | .die _ | .grid _ => some b.episode
  | _ => none

/-- A fragment of the warp waits for the open episode of a barrier. -/
def Warp.awaits (w : Warp) (b : Barrier) : Bool :=
  w.frags.any fun f => match f.status with
    | .waiting (.barrier k ep _) => k == b.key && ep == b.episode
    | _ => false

/-- Release the open episode of a barrier: the swaths count the warps that it releases (R261). -/
def State.releaseEpisode (s : State) (b : Barrier) : State :=
  let s1 := s.giveValues b.key
  let order := sortBy (fun x => releaseKey b.rotation x.1 x.2)
    (((s1.unitWarps b.key).filter fun w => w.awaits b).map fun w => (w.core, w.slot))
  let rel := fun (w : Warp) =>
    if s1.inUnit w b.key then
      w.releaseBar b.key b.episode s1.clock s1.time (s1.releaseDue b.rotation order w.core w.slot)
    else w
  let s2 := { s1 with warps := s1.warps.map rel }
  s2.setBarrier { b with
    episode := b.episode + 1, count := none
    warps := b.warps.map fun x => { x with arrived := 0, done := false } }

/-- A warp that has been taken for a save has arrived in the open episode: its arrival is saved, and the episode is released only after
it is back (R398, R400). -/
def State.takenAt (s : State) (b : Barrier) : Bool :=
  (s.unitWarps b.key).any fun w => w.preTaken && (b.warp w.core w.slot).arrived != 0

/-- Release a barrier whose count is met (R43, R257). -/
def State.checkBarrier (s : State) (k : BarKey) : State :=
  let b := s.barrier k
  let n := s.expected b
  if n != 0 && s.arrivals b ≥ n && !s.takenAt b then s.releaseEpisode b else s

/-- An episode whose arrivals have all been withdrawn has no COUNT, operation or type. -/
def State.forgetEmpty (s : State) : State :=
  let bare := fun (b : Barrier) => b.warps.all fun x => x.arrived == 0
  { s with
    barriers := s.barriers.map fun (b : Barrier) => if bare b then { b with count := none } else b
    barValues := s.barValues.filter fun v => !bare (s.barrier v.key) }

/-- The value arrivals without those of some warps (R43, R260). -/
def dropValues (gone : WarpRef → Bool) (v : BarValues) : BarValues :=
  let kept := (v.values.zip v.dests).filter fun x => !gone x.2.1
  { v with values := kept.map Prod.fst, dests := kept.map Prod.snd }

/-! ### Arrival (R258, R260) -/

/-- Fragments of a warp that wait at a barrier, with its key. -/
def Warp.barWaits (w : Warp) : List (Nat × BarKey) :=
  w.frags.filterMap fun f => match f.status with
    | .waiting (.barrier k _ _) => some (f.uid, k)
    | _ => none

/-- Every unretired lane of the warp waits at a barrier, at two or more different ones (R260). -/
def Warp.tangled (w : Warp) : Bool :=
  w.deferred.isEmpty && w.frags.all (fun f => match f.status with
    | .waiting (.barrier _ _ _) => true
    | _ => false) && (w.barWaits.map Prod.snd).eraseDups.length > 1

/-- Withdraw the arrivals of a fragment's lanes in unreleased episodes. -/
def State.withdraw (s : State) (core slot : Nat) (m : Mask) : State :=
  { s with
    barValues := s.barValues.map (dropValues (· == ⟨core, slot⟩))
    barriers := s.barriers.map fun b =>
      { b with warps := b.warps.map fun x =>
          if x.core == core && x.slot == slot then
            { x with arrived := x.arrived &&& ~~~m, owed := if x.ep == b.episode then x.owed &&& ~~~m else x.owed }
          else x } }

/-- A fragment of a tangled warp takes ILLSTATE and leaves its barrier. -/
def State.untangleFrag (core slot : Nat) (s : State) (uid : Nat) : State :=
  match s.warp? core slot with
  | none => s
  | some w =>
    match w.frag? uid with
    | none => s
    | some f =>
      let s1 := s.withdraw core slot f.lanes
      s1.stopWith w { f with status := .ready } ((lanesOf f.lanes).map fun l => (l, cILLSTATE, 0)) .meeting
        RaiseInfo.plain

/-- R260, last paragraph. -/
def State.untangle (s : State) (core slot : Nat) : State :=
  match s.warp? core slot with
  | none => s
  | some w =>
    if w.tangled && !w.preTaken then ((w.barWaits.map Prod.fst).foldl (State.untangleFrag core slot) s).forgetEmpty else s

/-- The barriers after lanes have retired: arrivals of retired warps are withdrawn, counts that are met release (R43), and a warp whose
remaining lanes wait at two barriers leaves them (R260). -/
def State.settleBarriers (s : State) : State :=
  let live := fun (c sl : Nat) => (s.warp? c sl).any fun w => w.unretired != 0
  let bars := s.barriers.map fun (b : Barrier) => { b with warps := b.warps.filter fun x => live x.core x.slot }
  let vals := s.barValues.map (dropValues fun r => !live r.core r.slot)
  let s1 := ({ s with barriers := bars, barValues := vals }).forgetEmpty
  let s2 := (s1.barriers.map fun b => b.key).foldl State.checkBarrier s1
  (s2.warps.map fun w => (w.core, w.slot)).foldl (fun s w => s.untangle w.1 w.2) s2

/-- FORM of BAR (R256). -/
inductive BarForm where
  | sync | arrive | wait
  deriving DecidableEq, Repr

/-- A value arrival: destination, contribution, type, operation (R351). -/
structure BarValue where
  d : Fin 32
  v : W64
  ty : BarTy
  op : RedOp
  deriving DecidableEq, Repr

/-- ILLSTATE of an arrival or wait (R260, R351). A WAIT form of a named barrier compares its COUNT while the episode that it waits for is
open. (DEDUCED, log 56.) -/
def State.barBad (s : State) (x : Focus) (k : BarKey) (form : BarForm) (count : Option Nat) (v : Option BarValue) :
    Bool :=
  let b := s.barrier k
  let bw := b.warp x.w.core x.w.slot
  x.f.handler
    || (form != .wait && (bw.arrived &&& x.f.lanes) != 0)
    || (form == .wait && (x.f.lanes &&& ~~~bw.owed) != 0)
    || ((form != .wait || bw.ep == b.episode) && (match b.count, count with
        | some a, some c => a != c
        | _, _ => false))
    || (match v with
        | none => false
        | some v => (s.barValues.find? fun y => y.key == k).any fun y => y.op != v.op || y.ty != v.ty)

/-- The open episode's values once a fragment has arrived: the warp contributes what the fragment that arrived last in it gives, since
retirement of its other lanes may complete its arrival (R43, R351); nothing where that one has no value. -/
def State.addValue (s : State) (x : Focus) (k : BarKey) (v : Option BarValue) : State :=
  let me : WarpRef := ⟨x.w.core, x.w.slot⟩
  match s.barValues.find? (fun y => y.key == k), v with
  | none, none => s
  | some cur, none => { s with barValues := dropValues (· == me) cur :: s.barValues.filter fun y => y.key != k }
  | cur, some v =>
    let c := dropValues (· == me) (cur.getD { key := k, op := v.op, ty := v.ty, values := [], dests := [] })
    { s with barValues := { c with values := c.values ++ [v.v], dests := c.dests ++ [(me, v.d)] } ::
               s.barValues.filter fun y => y.key != k }

/-- The arrival of the executing fragment. -/
def State.barArrive (s : State) (x : Focus) (k : BarKey) (form : BarForm) (count : Option Nat) (v : Option BarValue) :
    State :=
  let b := s.barrier k
  let bw := b.warp x.w.core x.w.slot
  let bw1 := { bw with arrived := bw.arrived ||| x.f.lanes, ep := b.episode
                       owed := if form == BarForm.arrive then bw.owed ||| x.f.lanes else bw.owed &&& ~~~x.f.lanes }
  let bw2 := { bw1 with done := x.w.arrivedAll bw1 }
  let s1 := s.setBarrier ({ b with count := match b.count with
      | some c => some c
      | none => count }.setWarp bw2)
  let s2 := s1.addValue x k v
  let s3 :=
    if form == .arrive then finishMeeting s2 x.w x.f x.c.next
    else put s2 x.w { x.f with status := .waiting (.barrier k b.episode x.c.next) }
  (s3.checkBarrier k).untangle x.w.core x.w.slot

/-- A WAIT form (R259). -/
def State.barWait (s : State) (x : Focus) (k : BarKey) : State :=
  let b := s.barrier k
  let bw := b.warp x.w.core x.w.slot
  let s1 := s.setBarrier (b.setWarp { bw with owed := bw.owed &&& ~~~x.f.lanes })
  if bw.ep < b.episode then finishMeeting s1 x.w x.f x.c.next
  else (put s1 x.w { x.f with status := .waiting (.barrier k bw.ep x.c.next) }).untangle x.w.core x.w.slot

/-- One form of a barrier: ILLSTATE first, then the release's waits for a scope of PACKAGE (R87, R89), then arrival or
wait. -/
def State.barForm (s : State) (x : Focus) (k : BarKey) (form : BarForm) (count : Option Nat) (v : Option BarValue) :
    State :=
  if s.barBad x k form count v then raisePlain s x .meeting cILLSTATE
  else match form with
    | .wait => s.barWait x k
    | _ =>
      let sc : Scope := match k with
        | .grid _ => .package
        | .die _ => .die
        | .gang _ => .gang
        | _ => .block
      releaseThen s x sc fun s1 y => s1.barArrive y k form count v

/-- The barrier of a level; BARDEPTH where the launch's gang depth lies below it (R27, R256). -/
def State.barLevel (s : State) (x : Focus) (level : Nat) (form : BarForm) (v : Option BarValue) : State :=
  match s.owner? x.w with
  | none => raisePlain s x .meeting cBARDEPTH
  | some o =>
    if o.launch.depth < level then raisePlain s x .meeting cBARDEPTH
    else
      let k : BarKey := match level with
        | 0 => .block o.block.id
        | 1 => .gang o.gang.id
        | 2 => .die o.level.id
        | _ => .grid o.launch.id
      s.barForm x k form none v

/-! ### BAR (R256) -/

/-- BAR. -/
def execBar (b : Bool) (s : State) : Out := meetInstr (.bar b) s fun x => s.barLevel x 0 .sync none
/-- BAR.ARRIVE. -/
def execBarArrive (b : Bool) (s : State) : Out := meetInstr (.barArrive b) s fun x => s.barLevel x 0 .arrive none
/-- BAR.WAIT. -/
def execBarWait (b : Bool) (s : State) : Out := meetInstr (.barWait b) s fun x => s.barLevel x 0 .wait none
/-- BAR.GANG. -/
def execBarGang (b : Bool) (s : State) : Out := meetInstr (.barGang b) s fun x => s.barLevel x 1 .sync none
/-- BAR.ARRIVE.GANG. -/
def execBarArriveGang (b : Bool) (s : State) : Out :=
  meetInstr (.barArriveGang b) s fun x => s.barLevel x 1 .arrive none
/-- BAR.WAIT.GANG. -/
def execBarWaitGang (b : Bool) (s : State) : Out := meetInstr (.barWaitGang b) s fun x => s.barLevel x 1 .wait none
/-- BAR.LVL: bits 63:2 of the scalar are ignored. -/
def execBarLvl (b : Bool) (sr : Fin 32) (s : State) : Out :=
  meetInstr (.barLvl b sr) s fun x => s.barLevel x (bits x.w.s[sr] 1 0) .sync none
/-- BAR.ARRIVE.LVL. -/
def execBarArriveLvl (b : Bool) (sr : Fin 32) (s : State) : Out :=
  meetInstr (.barArriveLvl b sr) s fun x => s.barLevel x (bits x.w.s[sr] 1 0) .arrive none
/-- BAR.WAIT.LVL. -/
def execBarWaitLvl (b : Bool) (sr : Fin 32) (s : State) : Out :=
  meetInstr (.barWaitLvl b sr) s fun x => s.barLevel x (bits x.w.s[sr] 1 0) .wait none

/-- A named barrier of the executing block. -/
def barNamed (i : Instr) (index : Fin 128) (count : Fin 17) (form : BarForm) (s : State) : Out :=
  meetInstr i s fun x => s.barForm x (.named x.w.block index) form (some count.val) none

/-- BAR bN, c. -/
def execBarNamed (b : Bool) (index : Fin 128) (count : Fin 17) (s : State) : Out :=
  barNamed (.barNamed b index count) index count .sync s
/-- BAR.ARRIVE bN, c. -/
def execBarArriveNamed (b : Bool) (index : Fin 128) (count : Fin 17) (s : State) : Out :=
  barNamed (.barArriveNamed b index count) index count .arrive s
/-- BAR.WAIT bN, c. -/
def execBarWaitNamed (b : Bool) (index : Fin 128) (count : Fin 17) (s : State) : Out :=
  barNamed (.barWaitNamed b index count) index count .wait s

/-! ### DBAR and XBAR (R350, R351) -/

/-- DBAR. -/
def execDbar (b : Bool) (s : State) : Out := meetInstr (.dbar b) s fun x => s.barLevel x 2 .sync none
/-- DBAR with a value. -/
def execDbarValue (b : Bool) (d v : Fin 32) (ty : BarTy) (op : RedOp) (s : State) : Out :=
  meetInstr (.dbarValue b d v ty op) s fun x => s.barLevel x 2 .sync (some ⟨d, x.w.s[v], ty, op⟩)
/-- XBAR. -/
def execXbar (b : Bool) (s : State) : Out := meetInstr (.xbar b) s fun x => s.barLevel x 3 .sync none
/-- XBAR with a value. -/
def execXbarValue (b : Bool) (d v : Fin 32) (ty : BarTy) (op : RedOp) (s : State) : Out :=
  meetInstr (.xbarValue b d v ty op) s fun x => s.barLevel x 3 .sync (some ⟨d, x.w.s[v], ty, op⟩)

/-- BARRIER_SWATH_RELEASE (R261): the fragments of a core group whose swath's time has come. -/
def State.swathRelease (s : State) (cg : Fin 64) : Option State :=
  let due := fun (f : Fragment) => match f.status with
    | .waiting (.swath d _) => d ≤ s.time
    | _ => false
  if s.warps.any fun w => cgOfCore w.core == cg && w.frags.any due then
    let go := fun (f : Fragment) => match f.status with
      | .waiting (.swath d after) => if d ≤ s.time then f.release s.clock s.time d after else f
      | _ => f
    let rel := fun (w : Warp) => if cgOfCore w.core == cg then { w with frags := w.frags.map go } else w
    some { s with warps := s.warps.map rel }
  else none

/-- BARRIER_SWATH_RELEASE. -/
def execBarrierSwathRelease (cg : Fin 64) (s : State) : Out := event s (s.swathRelease cg)

end Sys2Proof.Machine
end

