-- ==== Sys2Proof/Machine/Capture.lean ====
section
/-!
DEFINITION. CVT (R196, R197) with outlier capture (R65-R67, R198).
-/

namespace Sys2Proof.Machine

open Sys2Proof

/-- The fields of a CVT in either form. -/
structure CvtArgs where
  a : Fin 8
  d : Ty
  from_ : Ty
  rm : Rm
  sat : Sat
  scale : Warp → Fin 32 → Nat
  ol : Option (Fin 16)
  grd : Option Guard

/-- The block scale of a lane: bits 31:8 of the operand as an S24 (R52). -/
def CvtArgs.sc (o : CvtArgs) (w : Warp) (l : Fin 32) : FVal := s24val (o.scale w l / 256 % 2 ^ 24)

/-- The source image of a lane. -/
def CvtArgs.src (o : CvtArgs) (w : Warp) (l : Fin 32) : Nat := lowBits o.from_ (w.acc[o.a].val)[l]

/-- The conversion of a lane. -/
def CvtArgs.res (o : CvtArgs) (w : Warp) (l : Fin 32) : FRes := cvtR o.d o.from_ o.rm o.sat (o.src w l) (o.sc w l)

/-- TERNRSV where an active lane's T2 source has code 0b10 (R197). -/
def CvtArgs.noteTern (o : CvtArgs) (m : Mask) (w : Warp) : Warp :=
  if o.from_ == .t2 && (lanesOf m).any fun l => o.src w l == 2 then { w with mxStat := w.mxStat ||| 1 } else w

/-- What became of the capture: the granted lanes, and the flag of the others. -/
structure Capture where
  s : State
  taken : Mask
  miss : Nat

/-- The first n lanes of a mask. -/
def firstLanes (m : Mask) (n : Nat) : Mask := maskOf fun l => ((lanesOf m).take n).contains l

/-- A place for 8 bytes of an agent, reachable now; none where the access would fault. -/
def State.place8 (s : State) (ag : Agent) (kind : XKind) (va : Nat) : Option (List (Phys × Option (Nat × Xlate))) :=
  if va / 2 ^ 57 != 0 || !s.serves ag.die.val (s.homeDie ag (.glob va)) then none
  else match s.places ag kind s.choice.stale va 8 with
    | .ok ps => if (ps.map Prod.fst).any s.badUnit then none else some ps
    | .error _ => none

/-- The entries that the granted lanes write (R65): place, and the 8 bytes. (DESIGN CHOICE, log 37.) -/
def State.olEntries (s : State) (ag : Agent) (o : CvtArgs) (w : Warp) (base idx c : Nat) :
    List (Fin 32) → Option (List (List (Phys × Option (Nat × Xlate)) × Nat))
  | [] => some []
  | l :: ls =>
    match s.place8 ag .write (base + 8 + 8 * c), s.olEntries ag o w base idx (c + 1) ls with
    | some p, some ps =>
      some ((p, (idx + l.val) % 2 ^ 32 + outlierF32 o.from_ (o.src w l) (o.sc w l) * 2 ^ 32) :: ps)
    | _, _ => none

/-- One bounded add and the entries it grants (R66). -/
def State.capture (s : State) (x : Focus) (o : CvtArgs) (m : Fin 16) (missed : Mask) : Capture :=
  let ag := s.agentOf x.w missed
  let addr := x.w.s[Fin.ofNat 32 (2 * m.val)]
  let idx := (x.w.s[Fin.ofNat 32 (2 * m.val + 1)]).toNat % 2 ^ 32
  let bad : Capture := ⟨s, 0, fOLERR⟩
  if bits addr 63 57 != 0 || addr.toNat % 8 != 0 then bad
  else match s.place8 ag .atom addr.toNat with
    | none => bad
    | some pxs =>
      let ps := pxs.map Prod.fst
      let s1 := (s.useAll ag .atom pxs).settleE ag.die ps
      let (bs, s2) := s1.bytesAt ag ps
      let h := leNat bs
      let c := h % 2 ^ 32
      let cap := h / 2 ^ 32
      let k := popcount missed
      let g := min k (cap - c)
      let s3 := s2.putBytes ag.asid ps (leBytes 8 (min (c + k) cap + cap * 2 ^ 32))
      match s3.olEntries ag o x.w addr.toNat idx c ((lanesOf missed).take g) with
      | none => ⟨s3, 0, fOLERR⟩
      | some es =>
        let s4 := es.foldl (fun s e =>
          let qs := e.1.map Prod.fst
          ((s.useAll ag .write e.1).settleE ag.die qs).putBytes ag.asid qs (leBytes 8 e.2)) s3
        ⟨s4, firstLanes missed g, if g < k then fOLFULL else 0⟩

/-- The addresses that a capture reads or writes: the list's head, and the entries it would grant by what the head holds now. -/
def State.captureAt (s : State) (x : Focus) (m : Fin 16) (missed : Mask) : List Nat :=
  let ag := s.agentOf x.w missed
  let addr := (x.w.s[Fin.ofNat 32 (2 * m.val)]).toNat
  if addr / 2 ^ 57 != 0 || addr % 8 != 0 then []
  else match s.place8 ag .atom addr with
    | none => [addr]
    | some pxs =>
      let h := leNat (s.bytesAt ag (pxs.map Prod.fst)).1
      let c := h % 2 ^ 32
      addr :: ((List.range (min (popcount missed) (h / 2 ^ 32 - c))).map fun k => addr + 8 + 8 * (c + k)).filter (· < 2 ^ 57)

/-- Some home that a capture needs is out of reach (R66: an access that would wait, and fault only after MEM.ACKTO). -/
def State.captureOut (s : State) (x : Focus) (m : Fin 16) (missed : Mask) : Bool :=
  (s.captureAt x m missed).any fun va => !s.reaches (s.agentOf x.w missed) (.glob va) 8

/-- An earlier STNT of the lanes is still to be performed where a capture reads or writes (R86). -/
def State.captureHeld (s : State) (x : Focus) (m : Fin 16) (missed : Mask) : Bool :=
  (s.captureAt x m missed).any fun va => s.stntOver (s.agentOf x.w missed) va 8

/-- CVT without capture. -/
def cvtPlain (s : State) (x : Focus) (o : CvtArgs) (m : Mask) : State :=
  let r := fun l => (o.res x.w l).lane
  commitLanes s { x with w := o.noteTern m x.w } o.a m r fun w good =>
    w.writeAcc o.a good fun l => accImage o.d (r l).val

/-- CVT with capture, which waits while a home it needs is out of reach: captured lanes receive zero and raise nothing; a lane that the list could not take raises FPEXC only
for OLFULL or OLERR. -/
def cvtCapture (i : Instr) (s : State) (x : Focus) (o : CvtArgs) (ol : Fin 16) (m : Mask) : State :=
  let missed := m &&& maskOf fun l => (o.res x.w l).beyond
  let e := x.f.pendAt x.c i
  let since := e.since.getD s.time
  if missed == 0 then cvtPlain s x o m
  else if s.captureHeld x ol missed then s
  else if s.captureOut x ol missed && s.time < since + s.ackNs then put s x.w (x.f.setPend { e with since := some since })
  else
    let c := s.capture x o ol missed
    let w0 := x.w
    let miss := missed &&& ~~~c.taken
    let r := fun l =>
      if inMask c.taken l then LaneRes.plain 0
      else if inMask miss l then ⟨(o.res w0 l).bits, c.miss, none⟩
      else (o.res w0 l).lane
    let all := fun l => if inMask miss l then ⟨0, (o.res w0 l).flags ||| c.miss, none⟩ else r l
    let w1 := o.noteTern m { w0 with fpstat := w0.fpstat ||| w32 (orFlags m all) }
    commitLanes c.s { x with w := w1 } o.a m r fun w good => w.writeAcc o.a good fun l => accImage o.d (r l).val

/-- CVT in either form. A capture, whose uncaptured lanes may split, waits for a matrix loop of its fragment (R281) and for another strand's half-done access (R268). -/
def cvtInstr (i : Instr) (o : CvtArgs) (s : State) : Out :=
  strandInstr i o.a o.grd s fun x m =>
    if x.w.acc[o.a].tile.isSome then accMode s x o.a m
    else match o.ol with
      | none => cvtPlain s x o m
      | some ol => if s.loopBusy x.w x.f || s.splitBusy x.w x.f x.c.pos x.f.lanes then s else cvtCapture i s x o ol m

/-- CVT. -/
def execCvt (o : CvtOp) (s : State) : Out :=
  cvtInstr (.cvt o) ⟨o.a, o.t, o.from_, o.rm, o.sat, fun w l => gValue w .n32 o.g l, none, none⟩ s
/-- CVT, extended. -/
def execCvtExt (o : CvtOpX) (s : State) : Out :=
  cvtInstr (.cvtExt o) ⟨o.a, o.t, o.from_, o.rm, o.sat, fun w l => gsrcValue w .n32 l o.src, o.ol, o.grd⟩ s

end Sys2Proof.Machine
end

