-- ==== Sys2Proof/Machine/Fold.lean ====
section
/-!
DEFINITION. The fold: fault families and reach (R214), merging (R40, R213), joins (R212, R213), convergent instructions
(R215, R216), the deferred-side stack (R163-R165), handler entry after a hold (R162, R171) and fault-ring records
(R170, R360, R455).
-/

namespace Sys2Proof.Machine

open Sys2Proof

/-! ### Fault families (R214) -/

/-- One step along a fault link, either way. -/
def Fragment.linked (f g : Fragment) : Bool := f.links.contains g.uid || g.links.contains f.uid

/-- Add to a set of fragments those one step away, n times. -/
def Warp.growFamily (w : Warp) (ids : List Nat) : Nat → List Nat
  | 0 => ids
  | n + 1 =>
    let more := (w.frags.filter fun g => !ids.contains g.uid
      && w.frags.any fun f => ids.contains f.uid && f.linked g).map Fragment.uid
    if more.isEmpty then ids else w.growFamily (ids ++ more) n

/-- The fault family of a fragment. -/
def Warp.family (w : Warp) (f : Fragment) : List Fragment :=
  let ids := w.growFamily [f.uid] 32
  w.frags.filter fun g => ids.contains g.uid

/-- The reach of a fragment. -/
def Warp.reach (w : Warp) (f : Fragment) : Mask := (w.family f).foldl (fun m g => m ||| g.lanes) 0

/-- The order of R40: a home entry first, then the lowest entry. -/
def entryKey (f : Fragment) : Nat := if 256 ≤ f.entry.toNat && f.entry != noEntry then 0 else f.entry.toNat + 1

/-- A reference to a merged fragment names the fragment that keeps its place. -/
def renamed (gone : List Nat) (keep u : Nat) : Nat := if gone.contains u then keep else u

/-- The fragment that several merge into, at a position. It has the identity of the one whose entry it keeps. -/
def mergedOf (k : Fragment) (fs : List Fragment) (lanes : Mask) (pos : Pos) (clock : Nat) : Fragment :=
  let ids := fs.map Fragment.uid
  let lost : Fin 32 → Option W64 := fun l => (fs.find? fun f => inMask f.lanes l).bind fun f => f.lostAcks[l]
  { k.atFence pos with
    lanes := lanes
    status := .ready
    causes := 0
    info := StopInfo.none
    origin := k.origin.bind fun o => if ids.contains o.uid then none else some o
    links := ((fs.flatMap Fragment.links).filter fun u => !ids.contains u).eraseDups
    lostAcks := Lanes.of lost
    stntFaults := (fs.flatMap Fragment.stntFaults).filter fun t => inMask lanes t.lane
    due := [], ringSeq := none, trapPending := false, age := clock, runLen := 0 }

/-- Merge fragments of a warp; the others' entries return to the pool. -/
def Warp.merge (w : Warp) (fs : List Fragment) (lanes : Mask) (pos : Pos) (clock : Nat) : Warp :=
  match minBy entryKey fs with
  | none => w
  | some k =>
    let ids := fs.map Fragment.uid
    let g := mergedOf k fs lanes pos clock
    let other := fun (f : Fragment) =>
      { f with links := (f.links.map (renamed ids k.uid)).eraseDups
               origin := f.origin.map fun o => if ids.contains o.uid then { o with uid := k.uid, entry := k.entry } else o }
    let defd := fun (d : Deferred) =>
      { d with origin := if ids.contains d.origin.uid then { d.origin with uid := k.uid, entry := k.entry } else d.origin }
    { w with
      frags := (w.frags.filter fun f => f.uid == k.uid || !ids.contains f.uid).map fun f =>
        if f.uid == k.uid then g else other f
      deferred := w.deferred.map defd }

/-! ### Joins (R212, R213) -/

/-- An empty rejoin register. -/
def Rejoin.empty : Rejoin := { jpc := 0, arrived := 0, member := 0 }

/-- A fragment waits on a rejoin register. -/
def Fragment.joins (f : Fragment) (j : Fin 8) : Bool := f.status == .waiting (.join j)

/-- A join whose members have all arrived merges them. -/
def Warp.settleJoin (clock : Nat) (w : Warp) (j : Fin 8) : Warp :=
  let r := w.j[j]
  if r.member == 0 || (r.member &&& ~~~r.arrived) != 0 then w
  else
    { (w.merge (w.frags.filter fun f => f.joins j) (r.arrived &&& r.member) r.jpc clock) with
      j := w.j.set j Rejoin.empty }

/-- Every join of a warp. -/
def Warp.settleJoins (w : Warp) (clock : Nat) : Warp := (List.finRange 8).foldl (Warp.settleJoin clock) w

/-! ### Convergent instructions (R215, R216) -/

/-- A fragment waits at a convergent instruction. -/
def Fragment.converging (f : Fragment) : Bool := f.status == .waiting .convergent

/-- A family whose members all wait at one convergent instruction merges there. -/
def Warp.settleConv (w : Warp) (f : Fragment) (clock : Nat) : Warp :=
  let fam := w.family f
  if f.converging && fam.all fun g => g.converging && g.fencePC == f.fencePC then
    w.merge fam (w.reach f) f.fencePC clock
  else w

/-- Every family of a warp that waits at a convergent instruction. -/
def Warp.settleConvs (w : Warp) (clock : Nat) : Warp :=
  (w.frags.map Fragment.uid).foldl (fun w u =>
    match w.frag? u with
    | some f => w.settleConv f clock
    | none => w) w

/-- R215 for the executing fragment at an instruction's place: ILLSTATE, a wait, or the effect `k`; in handler mode by
`inHandler`. -/
def convergentAt (place : Place) (s : State) (x : Focus) (inHandler : Bool) (k : State → Focus → State) : State :=
  if x.f.handler then (if inHandler then k s x else raisePlain s x place cILLSTATE)
  else
    let u := x.w.unretired
    let fam := x.w.family x.f
    if x.w.reach x.f != u then illStateAt s x place u
    else if x.f.lanes == u then k s x
    else if fam.any fun g => g.uid != x.f.uid && g.converging && g.fencePC != x.c.pos then illStateAt s x place u
    else
      let f1 := { x.f.atFence x.c.pos with status := .waiting .convergent }
      (s.setWarp (((x.w.setFrag f1).settleConv f1 s.clock))).settleEntries x.w.core

/-- R215 for a meeting instruction. -/
def convergentThen (s : State) (x : Focus) (inHandler : Bool) (k : State → Focus → State) : State :=
  convergentAt .meeting s x inHandler k

/-- Every fragment of the executing fragment's family that waits at a convergent instruction takes ILLSTATE: a member split
by BRD (R215). -/
def State.breakConv (s : State) (core slot : Nat) (uids : List Nat) : State :=
  uids.foldl (fun s u =>
    match s.warp? core slot with
    | none => s
    | some w =>
      match w.frag? u with
      | none => s
      | some f =>
        if f.converging then
          s.stopWith w { f with status := .ready }
            ((lanesOf f.lanes).map fun l => (l, cILLSTATE, w.unretired.setWidth 64)) .meeting RaiseInfo.plain
        else s) s

/-! ### The deferred-side stack (R163-R165) -/

/-- Push a record of the executing fragment's lanes. -/
def Warp.pushDeferred (w : Warp) (f : Fragment) (lanes : Mask) (pc : Pos) : Warp :=
  { w with deferred :=
      { lanes := lanes, pc := pc, origin := ⟨f.uid, f.entry, false⟩
        lostAcks := Lanes.of fun l => if inMask lanes l then f.lostAcks[l] else none
        stntFaults := f.stntFaults.filter fun t => inMask lanes t.lane } :: w.deferred }

/-- A fragment that starts at a position. -/
def Fragment.start (uid : Nat) (entry : BitVec 9) (lanes : Mask) (pos : Pos) (clock : Nat) : Fragment :=
  { uid := uid, entry := entry, lanes := lanes, status := .ready, fetchPC := pos, fencePC := pos
    strands := Vector.replicate 8 ⟨false, pos⟩, done := Vector.replicate 8 0, pblk := none, covIdx := 0, causes := 0
    origin := none, links := [], handler := false, frame := Frame.none, info := StopInfo.none, trapPending := false
    arrivedAt := 0, pend := [], runLen := 0, age := clock, due := [], ringSeq := none
    lostAcks := Lanes.all none, stntFaults := [], noEntrySince := clock }

/-- Pop the top record into an entry, or without one. -/
def Warp.popDeferred (w : Warp) (entry : BitVec 9) (clock : Nat) : Warp :=
  match w.deferred with
  | [] => w
  | d :: rest =>
    { w with deferred := rest }.addFrag
      { Fragment.start w.nextUid entry d.lanes d.pc clock with
        origin := some d.origin, lostAcks := d.lostAcks, stntFaults := d.stntFaults }

/-- A fragment's dispatched access waits at a FIFO bank and the meeting instruction at its fetch PC waits for it: the FIFO wait of R37.
(DEDUCED, log 7.) -/
def State.fifoStalled (s : State) (w : Warp) (f : Fragment) : Bool :=
  (f.pend.any fun e => e.flight != 0 && e.instr.fifoOperand.any fun m => m.sp)
    && (match s.fetch (cgOfCore w.core) (s.asidOf w) f.fetchPC with
      | .instr i _ => i.place == .meeting
      | _ => false)
    && (List.finRange 256).any fun c => s.cores[c].waitsFor ⟨w.core, w.slot, f.uid⟩

/-- A fragment is in the Ready state (R37). -/
def State.isReady (s : State) (w : Warp) (f : Fragment) : Bool := f.status == .ready && !s.fifoStalled w f

/-- DEFERRED_POP (R165): the top record pops into a free entry, which a fragment without an entry or a lower slot does not
claim first, or without one when no fragment of the warp is ready. -/
def State.deferredPop (s : State) (core slot : Nat) : Option State :=
  match s.warp? core slot with
  | none => none
  | some w =>
    if w.deferred.isEmpty || w.preTaken then none
    else
      let first := (s.entryless core).isNone
        && !(s.warps.any fun v => v.core == core && v.slot < slot && !v.preTaken && !v.deferred.isEmpty)
      match (if first then s.freeEntry? core else none) with
      | some e => some (s.setWarp (w.popDeferred e s.clock))
      | none =>
        if w.frags.any fun f => s.isReady w f then none
        else some (s.setWarp (w.popDeferred noEntry s.clock))

/-- The records of deferred-side stacks that may pop do so, one after another. -/
def State.popRecords (s : State) : Nat → State
  | 0 => s
  | n + 1 =>
    match s.warps.findSome? fun w => s.deferredPop w.core w.slot with
    | some t => t.popRecords n
    | none => s

/-- Every record that may pop has popped (R165). -/
def State.popDeferreds (s : State) : State := s.popRecords (sumBy (fun w => w.deferred.length) s.warps)

/-- DEFERRED_POP. -/
def execDeferredPop (w : WarpRef) (s : State) : Out := event s (s.deferredPop w.core w.slot)

/-! ### Handler entry after a hold (R162, R171) -/

/-- A fragment of the core group that arrived before and is still held. -/
def State.heldBefore (s : State) (core : Nat) (f : Fragment) : Bool :=
  s.warps.any fun w => cgOfCore w.core == cgOfCore core && w.frags.any fun g => g.trapPending && g.arrivedAt < f.arrivedAt

/-- HANDLER_ENTRY: once the ratio change is over, held fragments enter in the order of their causes' arrival. -/
def State.handlerEntry (s : State) (r : FragRef) : Option State :=
  match s.warp? r.core r.slot with
  | none => none
  | some w =>
    match w.frag? r.uid with
    | none => none
    | some f =>
      if !f.trapPending || s.busy w.core || w.preTaken || s.heldBefore w.core f then none
      else some (put s w { s.handlerRoute w f with age := s.clock })

/-- HANDLER_ENTRY. -/
def execHandlerEntry (f : FragRef) (s : State) : Out := event s (s.handlerEntry f)

/-! ### Rings (R360, R455) and fault-ring records (R170) -/

/-- A write of an engine; none where it would fault. -/
def State.writeVa? (s : State) (asid va : Nat) (bs : List Byte) : Option State :=
  match s.writeVa asid va bs with
  | .ok s1 => some s1
  | .error _ => none

/-- The bytes of a fault-ring record (R170). -/
def DueRecord.bytes (r : DueRecord) (w : Warp) (f : Fragment) (seq : Nat) : List Byte :=
  leBytes 8 r.vaddr.toNat ++ leBytes 4 r.lanes.toNat ++ leBytes 4 r.done.toNat ++ [r.cause, r.strand]
    ++ leBytes 2 w.core ++ leBytes 2 f.entry.toNat ++ [BitVec.ofNat 8 w.slot, r.flags] ++ leBytes 8 seq

/-- A fragment of an address space with a record due, in the order in which its stop came. -/
def State.nextDue (s : State) (asid : Nat) : Option (Warp × Fragment) :=
  minBy (fun wf => wf.2.arrivedAt)
    ((s.warps.filter fun w => s.asidOf w == asid).flatMap fun w =>
      (w.frags.filter fun f => !f.due.isEmpty).map fun f => (w, f))

/-- Write 32 bytes at the slot of record number seq of a ring, then TAIL and DONE; none where a write would fault or
the ring is full. -/
def State.ringWrite (s : State) (asid : Nat) (ring : W64) (seq size : Nat) (bs : List Byte) : Option State :=
  match s.readNum asid ring.toNat 8, s.readNum asid (ring.toNat + 8) 1, s.readNum asid (ring.toNat + 16) 8 with
  | some base, some log2n, some head =>
    if seq ≥ head + 2 ^ log2n then none
    else
      match s.writeVa? asid (base + size * (seq % 2 ^ log2n)) bs with
      | none => none
      | some s1 =>
        match s1.writeVa? asid (ring.toNat + 24) (leBytes 8 (seq + 1)) with
        | none => none
        | some s2 => s2.writeVa? asid (ring.toNat + 32) (leBytes 8 (seq + 1))
  | _, _, _ => none

/-- FAULT_RING_RECORD (R170): the next record due is written once a slot is free. -/
def State.faultRecord (s : State) (asid : Nat) : Option State :=
  match s.space? asid, s.nextDue asid with
  | some a, some (w, f) =>
    match f.due with
    | [] => none
    | r :: rest =>
      match s.ringWrite asid a.ring a.ringSeq 32 (r.bytes w f a.ringSeq) with
      | none => none
      | some s1 =>
        let s2 := put s1 w { f with due := rest, ringSeq := some (w64 a.ringSeq) }
        some { s2 with spaces := replaceAll (fun b => b.asid == asid) (fun b => { b with ringSeq := b.ringSeq + 1 }) s2.spaces }
  | _, _ => none

/-- FAULT_RING_RECORD. -/
def execFaultRingRecord (asid : BitVec 16) (s : State) : Out := event s (s.faultRecord asid.toNat)

end Sys2Proof.Machine
end

