-- ==== Sys2Proof/Machine/Engine.lean ====
section
/-!
DEFINITION. Accesses to ranges of bytes that an instruction makes for its lowest-numbered lane, or an engine for a
launch (R284, R354, R389), and undefined contents (log 3).
-/

namespace Sys2Proof.Machine

open Sys2Proof

/-- Why a range access gives nothing: a cause with its address, an earlier STNT of its lanes still to be performed (R86), or a home out
of reach. -/
inductive Stop where
  | cause (bit : Nat) (addr : Nat)
  | wait
  | out
  deriving DecidableEq, Repr

/-- The one stop that is recorded (R284): the highest cause, at its lowest address; a wait only where nothing else is. -/
def Stop.key : Stop → Nat
  | .cause b a => causeRank b * 2 ^ 64 + a
  | .out => 2 ^ 80
  | .wait => 2 ^ 81

/-- One part of a range, within a page: its places, or why there are none. -/
def State.partAt (s : State) (ag : Agent) (kind : XKind) (late : Bool) (va n : Nat) :
    Except Stop (List Phys × Option (Nat × Xlate)) :=
  if va / 2 ^ 57 != 0 then .error (.cause cNONCANON va)
  else if !s.serves ag.die.val (s.homeDie ag (.glob va)) then .error (if late then .cause cACKLOST va else .out)
  else if s.stntOver ag va n then .error .wait
  else match s.placeByte ag kind false va with
    | .error c => .error (.cause c va)
    | .ok (p, x) =>
      let ps := (List.range n).map p.plus
      let whole := fun (q : Phys) => clearsUnit p.errKey n (q.errKey / 32)
      match ps.findIdx? fun q => s.badUnit q && !(kind == .write && whole q) with
      | some k => .error (.cause cMEMERR (va + k))
      | none => .ok (ps, x.map fun x => (va, x))

/-- A part's translation takes effect on the tables. -/
def State.usePart (s : State) (ag : Agent) (kind : XKind) (x : Option (Nat × Xlate)) : State :=
  match x with
  | some (va, x) => (s.noteAt ag va).useXlate ag.asid va kind x
  | none => s

/-- The stop of a range that some parts cannot serve: the highest cause among them, at the range's own address (R284). -/
def stopOf (va : Nat) (es : List Stop) : Option Stop :=
  (minBy Stop.key es).map fun e => match e with
    | .cause b _ => .cause b va
    | e => e

/-- The stops of the parts of a range. -/
def State.partStops (s : State) (ag : Agent) (kind : XKind) (late : Bool) (parts : List (Nat × Nat)) : List Stop :=
  parts.filterMap fun p => match s.partAt ag kind late p.1 p.2 with
    | .error e => some e
    | .ok _ => none

/-- Read n bytes of a global range; `late` says that MEM.ACKTO has passed for homes out of reach. -/
def State.agRead (s : State) (ag : Agent) (late : Bool) (va n : Nat) : Except Stop (List Byte × State) :=
  let parts := pageParts va n
  match stopOf va (s.partStops ag .read late parts) with
  | some e => .error e
  | none =>
    .ok (parts.foldl (fun acc p =>
      match acc.2.partAt ag .read late p.1 p.2 with
      | .error _ => acc
      | .ok (ps, x) =>
        let (more, s2) := (acc.2.usePart ag .read x).bytesAt ag ps
        (acc.1 ++ more, s2)) ([], s))

/-- Write bytes to a global range; nothing is written where some part stops. -/
def State.agWrite (s : State) (ag : Agent) (late : Bool) (va : Nat) (bs : List Byte) : Except Stop State :=
  let parts := pageParts va bs.length
  match stopOf va (s.partStops ag .write late parts) with
  | some e => .error e
  | none =>
    .ok (parts.foldl (fun s1 p =>
      match s1.partAt ag .write late p.1 p.2 with
      | .error _ => s1
      | .ok (ps, x) =>
        ((s1.usePart ag .write x).settleE ag.die ps).putBytes ag.asid ps ((bs.drop (p.1 - va)).take p.2)) s)

/-- An aligned read of a record at a scalar's address (R354, R389): n bytes, or why not. -/
def State.recordRead (s : State) (ag : Agent) (late : Bool) (addr : W64) (n : Nat) : Except Stop (List Byte × State) :=
  if bits addr 63 57 != 0 then .error (.cause cNONCANON addr.toNat)
  else if addr.toNat % 64 != 0 then .error (.cause cMISALIGNED addr.toNat)
  else s.agRead ag late addr.toNat n

/-- MEM.ACKTO has passed since the executing fragment found a home out of reach. -/
def lateWait (s : State) (x : Focus) : Bool :=
  match x.f.status with
  | .waiting (.retry _ (some t)) => s.time ≥ t + s.ackNs
  | _ => false

/-- A stop of a meeting instruction's range access: the cause in every lane, without a split, or a wait. -/
def stopMeeting (s : State) (x : Focus) (st : Stop) (write : Bool) : State :=
  match st with
  | .cause b a => raiseAll s x .meeting b (fun _ => w64 a) { RaiseInfo.plain with write := write }
  | .wait => waitRetry s x
  | .out => waitOut s x

/-! ### Undefined contents (log 3) -/

/-- An undefined byte string, by the free-value counter. (DESIGN CHOICE, log 3.) -/
def freeBytes (idx n : Nat) : List Byte := (List.range n).map (Config.freeByte idx)

/-- The free-value counter moves on. -/
def State.nextFree (s : State) : State := { s with freeIndex := s.freeIndex + 1 }

end Sys2Proof.Machine
end

