-- ==== Sys2Proof/Machine/Matrix.lean ====
section
/-!
DEFINITION. The matrix engine (12_matrix_engine.md R270-R306): tiles, steps, ACCT, MMA, MLOOP, MPAIR, TMASK, the audit.
-/

namespace Sys2Proof.Machine

open Sys2Proof

/-! ### Tiles and their control records (R270-R274) -/

/-- Fields of TILE.CTL (R271). -/
structure TileCtl where
  fmt : Ty
  rows : Nat
  cols : Nat
  sblk : Nat
  soff : Nat
  spn : Nat
  deriving DecidableEq, Repr

/-- A control record read. -/
def ctlOf (c : W32) : TileCtl :=
  { fmt := Ty.ofCode (bits c 3 0), rows := bits c 8 4, cols := bits c 17 9, sblk := bits c 19 18, soff := bits c 25 20
    spn := bits c 27 26 }

/-- Elements that a 128-byte line holds (R272). -/
def kline (t : Ty) : Nat := 1024 / t.width

/-- Elements of a scale block. -/
def blkLen (sblk : Nat) : Nat := 32 * 2 ^ sblk

/-- Scale words of a line (R273). -/
def TileCtl.nb (c : TileCtl) : Nat := (c.cols + blkLen c.sblk) / blkLen c.sblk

/-- Kept values per group of a sparse tile (R271). -/
def TileCtl.kept (c : TileCtl) : Nat := if c.spn == 1 then 24 else if c.spn == 2 then 16 else 12

/-- Bits of element e of line j. -/
def Tile.raw (t : Tile) (f : Ty) (j e : Nat) : Nat :=
  t.content[Fin.ofNat 32 j].toNat / 2 ^ (e * f.width) % 2 ^ f.width

/-- The value of an element without its scale. -/
def elemVal (f : Ty) (x : Nat) : FVal :=
  match f with
  | .si8 => ofInt (sint 8 x)
  | .t2 => ofInt (t2val x)
  | _ => if f.isInt then ofInt (ival f x) else fval f x

/-- The scale of an element (R273). -/
def Tile.scale (t : Tile) (c : TileCtl) (j e : Nat) : FVal :=
  if c.sblk == 0 then ofInt 1
  else s24val ((t.side[Fin.ofNat 64 (c.soff + j * c.nb + e / blkLen c.sblk)]).toNat / 256)

/-- An element is within the tile's shape. -/
def TileCtl.within (c : TileCtl) (j e : Nat) : Bool := j ≤ c.rows && e ≤ c.cols

/-- Elem (R274). -/
def Tile.elem (t : Tile) (j e : Nat) : FVal :=
  let c := ctlOf t.ctl
  if !c.within j e then .fin false 0 0
  else if c.sblk == 0 then elemVal c.fmt (t.raw c.fmt j e)
  else mulV (elemVal c.fmt (t.raw c.fmt j e)) (t.scale c j e)

/-- The physical tile of a name of a block. -/
def State.tile? (s : State) (b : Block) (n : Nat) : Option Tile :=
  (b.tiles[n]?).map fun k => s.cores[coreFin b.core].tiles[k]

/-- Replace a tile by its name; a name that the block does not hold changes nothing. -/
def State.setTile (s : State) (b : Block) (n : Nat) (t : Tile) : State :=
  match b.tiles[n]? with
  | none => s
  | some k =>
    let c := coreFin b.core
    { s with cores := s.cores.set c { s.cores[c] with tiles := s.cores[c].tiles.set k t } }

/-! ### Step modes (R275) -/

/-- The mode of a step: elements along K, tiles of the spans, sparsity. -/
structure Mode where
  k : Nat
  aTiles : Nat
  bTiles : Nat
  kept : Nat
  deriving DecidableEq, Repr

/-- Groups per line of a sparse mode times 48. -/
def sparseK (n : Nat) : Nat := 48 * 48 / n

/-- StepMode: the first tiles' records. -/
def stepMode (a b : TileCtl) : Option Mode :=
  let fp8 := fun (c : TileCtl) => c.fmt.isFp8
  if a.spn == 0 && b.spn == 0 then
    if a.fmt == .bf16 && b.fmt == .bf16 && a.sblk == 0 && b.sblk == 0 then some ⟨64, 1, 1, 0⟩
    else if fp8 a && fp8 b then some ⟨128, 1, 1, 0⟩
    else if a.fmt == .si8 && b.fmt == .si8 then some ⟨128, 1, 1, 0⟩
    else if a.fmt == .si8 && b.fmt == .t2 then some ⟨256, 2, 1, 0⟩
    else none
  else if a.spn != 0 && b.spn == 0 && b.sblk == 0 then
    let k := sparseK a.kept
    if a.fmt == .bf16 && b.fmt == .bf16 then some ⟨k, 1, (k + 63) / 64, a.kept⟩
    else if fp8 a && fp8 b then some ⟨k, 1, (k + 127) / 128, a.kept⟩
    else none
  else none

/-- The names of a span. -/
def spanNames (t n : Nat) : List Nat := (List.range n).map (t + ·)

/-- The records of a span agree in FMT, SBLK and SPN. -/
def sameRecords (ts : List Tile) : Bool :=
  match ts with
  | [] => true
  | t :: rest =>
    let c := ctlOf t.ctl
    rest.all fun u => let d := ctlOf u.ctl; d.fmt == c.fmt && d.sblk == c.sblk && d.spn == c.spn

/-- Mask of group g of a sparse line (R272). -/
def Tile.groupMask (t : Tile) (j g : Nat) : Nat := t.content[Fin.ofNat 32 j].toNat / 2 ^ (768 + 48 * g) % 2 ^ 48

/-- Set bits of a group mask, ascending. -/
def setBits (m : Nat) : List Nat := (List.range 48).filter fun i => m.testBit i

/-- The masks of a sparse tile hold N bits each (R276). -/
def Tile.masksOk (t : Tile) (n : Nat) : Bool :=
  (List.range ((ctlOf t.ctl).rows + 1)).all fun j => (List.range (48 / n)).all fun g => (setBits (t.groupMask j g)).length == n

/-- The operands of a step. -/
structure Operands where
  mode : Mode
  a : List Tile
  b : List Tile
  deriving Repr

/-- The operands of a step by the first tiles, or the MATRIX code: 3 before 1, then 4. -/
def State.operands (s : State) (blk : Block) (ta tb : Nat) : Except Nat Operands :=
  match s.tile? blk ta, s.tile? blk tb with
  | some a0, some b0 =>
    match stepMode (ctlOf a0.ctl) (ctlOf b0.ctl) with
    | none => .error 1
    | some m =>
      let a := (spanNames ta m.aTiles).filterMap (s.tile? blk)
      let b := (spanNames tb m.bTiles).filterMap (s.tile? blk)
      if a.length < m.aTiles || b.length < m.bTiles then .error 3
      else if !sameRecords a || !sameRecords b then .error 1
      else .ok ⟨m, a, b⟩
  | _, _ => .error 3

/-- The group masks of a sparse A operand are well formed. -/
def Operands.masksOk (o : Operands) : Bool :=
  o.mode.kept == 0 || o.a.all fun t => t.masksOk o.mode.kept

/-- Element k of line j of a span. -/
def spanElem (ts : List Tile) (j k : Nat) : FVal :=
  match ts with
  | [] => .fin false 0 0
  | t :: _ =>
    let n := kline (ctlOf t.ctl).fmt
    match ts[k / n]? with
    | some u => u.elem j (k % n)
    | none => .fin false 0 0

/-- A product of a step. -/
def prodOf (a b : FVal) : Prod := ⟨mulV a b, mulInvalid a b⟩

/-- The logical position of kept value m of a sparse line (R276); the position that a line beyond the shape has no mask
bit for is a free value. -/
def sparsePos (idx : Nat) (t : Tile) (n i m : Nat) : Nat :=
  48 * (m / n) + ((setBits (t.groupMask i (m / n)))[m % n]?).getD ((Config.freeByte idx (64 * i + m)).toNat % 48)

/-- The products of element (i, j) of a step (R277). -/
def Operands.products (o : Operands) (idx i j : Nat) : List Prod :=
  if o.mode.kept == 0 then
    (List.range o.mode.k).map fun k => prodOf (spanElem o.a i k) (spanElem o.b j k)
  else
    match o.a with
    | [] => []
    | t :: _ => (List.range 48).map fun m => prodOf (t.elem i m) (spanElem o.b j (sparsePos idx t o.mode.kept i m))

/-- A step reads a T2 element with code 0b10 (R277). -/
def Operands.readsRsv (o : Operands) : Bool :=
  o.b.any fun t =>
    let c := ctlOf t.ctl
    c.fmt == .t2 && (List.range (c.rows + 1)).any fun j =>
      (List.range (min (c.cols + 1) o.mode.k)).any fun e => t.raw .t2 j e == 2

/-- Column c of a lane. -/
def TileAcc.at (t : TileAcc) (i c : Nat) : Nat := ((t.cols[Fin.ofNat 32 c])[Fin.ofNat 32 i]).toNat

/-- Every column zero. -/
def zeroCols : Vector (Lanes W32) 32 := Vector.replicate 32 (Lanes.all 0)

/-- The flags that 32 rows of 32 results raise together (R71). -/
def jointFlags (res : Fin 32 → Fin 32 → FRes) : Nat :=
  (List.finRange 32).foldl (fun n c => (List.finRange 32).foldl (fun n i => n ||| (res i c).flags) n) 0

/-- MatrixStep on the columns (R277): the new columns and the flags. -/
def stepCols (o : Operands) (idx : Nat) (t : TileAcc) : TileAcc × Nat :=
  let res := Vector.ofFn fun (c : Fin 32) => Vector.ofFn fun (i : Fin 32) =>
    matrixSum (t.at i.val c.val) (o.products idx i.val c.val)
  let flags := jointFlags fun i c => (res[c])[i]
  ({ t with cols := Vector.ofFn fun c => Lanes.of fun i => w32 ((res[c])[i]).bits }, flags)

/-! ### Audit (R299-R302) -/

/-- The value of an F32. -/
def f32v (x : Nat) : FVal := fmtF32.decode x

/-- Deviation of one element (R300), as an F32 code. Where one result is infinite and the other a NaN, which no case of
R300 covers, it is the largest value. (DESIGN CHOICE, log 46.) -/
def deviation (x y : Nat) : Nat :=
  let a := f32v x
  let b := f32v y
  if (a.isNan && b.isNan) || cmpV a b == some .eq then 0
  else if a.isNan || b.isNan || a.isInf || b.isInf then 0x7F7F_FFFF
  else
    let e : Int := match expOf a with
      | some e => max e (-126)
      | none => -126
    match addV .rne a b.negate with
    | .fin _ m ex => (roundV fmtF32 .rup false (.fin false m (ex - (e - 23)))).bits
    | _ => 0

/-- The entry of an audited step (R301): the largest deviation, at its lowest element index. -/
def auditEntry (o : Operands) (idx steps : Nat) (acc : Fin 8) (paired : Bool) (old new : TileAcc) : List Byte :=
  let devs := (List.range 1024).map fun k =>
    (k, deviation (new.at (k / 32) (k % 32)) (shadowSum (old.at (k / 32) (k % 32)) (o.products idx (k / 32) (k % 32))))
  let top := devs.foldl (fun m d => if m.2 < d.2 then d else m) (0, 0)
  leBytes 8 steps ++ leBytes 4 top.2 ++ leBytes 2 top.1
    ++ [BitVec.ofNat 8 acc.val, BitVec.ofNat 8 (b2n paired + 2 * b2n (o.mode.kept != 0))]

/-- Write the audit entry of a step where it is due. -/
def State.audit (s : State) (w : Warp) (o : Operands) (acc : Fin 8) (paired : Bool) (old new : TileAcc) :
    State × Warp :=
  let log2n := bits w.mxAudCfg 4 0
  if log2n == 0 || w.mxSteps.toNat % 2 ^ log2n != 0 then (s, w)
  else
    let at_ := w.mxAudRing.toNat + 16 * (w.mxAudSeq.toNat % 2 ^ bits w.mxAudCfg 12 8)
    let w1 := { w with mxAudSeq := w.mxAudSeq + 1 }
    match s.agWrite (s.agentOf w 0) true at_ (auditEntry o s.freeIndex w.mxSteps.toNat acc paired old new) with
    | .ok s1 => (s1, w1)
    | .error _ => (s, { w1 with mxStat := w1.mxStat ||| 2 })

/-- One step of a warp on its tile-mode accumulator, with flags, counts and audit. -/
def State.matrixStep (s : State) (w : Warp) (o : Operands) (acc : Fin 8) (paired : Bool) : State × Warp :=
  match w.acc[acc].tile with
  | none => (s, w)
  | some t =>
    let (t1, flags) := stepCols o s.freeIndex t
    let w1 := { w with
      acc := w.acc.set acc { w.acc[acc] with tile := some t1 }
      fpstat := w.fpstat ||| w32 flags
      mxStat := if o.readsRsv then w.mxStat ||| 1 else w.mxStat
      mxSteps := w.mxSteps + 1 }
    let (s1, w2) := s.audit w1 o acc paired t t1
    (s1.nextFree, w2)

/-! ### Tile mode (R152, R278) -/

/-- The lowest free slot of cluster k of a core. -/
def State.freeSlot? (s : State) (core : Nat) (k : Fin 8) : Option (Fin 16) :=
  let used := (s.warps.filter fun w => w.core == core).filterMap fun w => (w.acc[k].tile).map TileAcc.slot
  (List.finRange 16).find? fun n => !used.contains n

/-- Enter tile mode: columns +0, the row value is the vector value. -/
def Warp.enterTile (w : Warp) (k : Fin 8) (slot : Fin 16) : Warp :=
  { w with acc := w.acc.set k { w.acc[k] with tile := some { slot := slot, cols := zeroCols } } }

/-- Every column +0. -/
def Warp.zeroTile (w : Warp) (k : Fin 8) : Warp :=
  match w.acc[k].tile with
  | some t => { w with acc := w.acc.set k { w.acc[k] with tile := some { t with cols := zeroCols } } }
  | none => w

/-- Tile mode as MMA and MLOOP need it: entered where needed, else zeroed by Z; none where no slot is free. -/
def State.readyTile (s : State) (w : Warp) (k : Fin 8) (z : Bool) : Option Warp :=
  if w.acc[k].tile.isSome then some (if z then w.zeroTile k else w)
  else (s.freeSlot? w.core k).map fun n => w.enterTile k n

/-! ### Frames of matrix instructions -/

/-- MATRIX with a code in every lane of the fragment, without a split. -/
def matrixCause (s : State) (x : Focus) (place : Place) (code : Nat) : State :=
  raiseAll s x place cMATRIX (fun _ => 0) { RaiseInfo.plain with code := BitVec.ofNat 16 code }

/-- The block of the executing warp. -/
def blockOf (s : State) (x : Focus) : Option Block := s.block? x.w.block

/-- Some loop of the warp's block that is under way uses one of these tiles (R282). -/
def State.tilesBusy (s : State) (b : Block) (ns : List Nat) : Bool :=
  s.matrix.any fun m =>
    (s.warp? m.frag.core m.frag.slot).any fun w => w.block == b.id &&
      match s.operands b m.ta.val m.tb.val with
      | .ok o => (spanNames m.ta.val o.mode.aTiles ++ spanNames m.tb.val o.mode.bTiles).any ns.contains
      | .error _ => ns.contains m.ta.val || ns.contains m.tb.val

/-- Tiles of the spans of a step. -/
def State.spans (s : State) (b : Block) (ta tb : Nat) : List Nat :=
  match s.operands b ta tb with
  | .ok o => spanNames ta o.mode.aTiles ++ spanNames tb o.mode.bTiles
  | .error _ => [ta, tb]

/-- Loops of the warp are under way or waiting (R283, R299, R303). -/
def State.warpLoops (s : State) (w : Warp) : Bool :=
  s.matrix.any fun m => m.frag.core == w.core && m.frag.slot == w.slot

/-- A convergent matrix instruction of a strand (R280): ILLEGAL, also under a cover, then R215. -/
def convStrand (i : Instr) (k : Fin 8) (s : State) (eff : State → Focus → State) : Out :=
  onFocus s fun x =>
    if i.wf && !x.c.covered then convergentAt (.strand k) s x false eff else raiseIllegal s x (.strand k)

/-- A matrix instruction without accumulator: the block's tile N, or code 3 where the block does not hold it; it waits for
loops that use the tile. -/
def onTile (i : Instr) (n : Fin 16) (s : State) (eff : Focus → Block → Tile → State) : Out :=
  meetInstr i s fun x =>
    match blockOf s x with
    | none => matrixCause s x .meeting 3
    | some b =>
      match s.tile? b n.val with
      | none => matrixCause s x .meeting 3
      | some t => if s.tilesBusy b [n.val] then waitRetry s x else eff x b t

/-! ### TCFG, TZERO, TLD, TST (R285-R287) -/

/-- The value of TCFG is accepted (R285). -/
def tcfgOk (v : W64) : Bool :=
  let c := ctlOf (v.setWidth 32)
  let f := c.fmt
  bits v 63 28 == 0 && (f == .f32 || f == .bf16 || f.isFp8 || f == .si8 || f == .t2)
    && c.cols + 1 ≤ kline f && (f != .t2 || (c.cols + 1) % 4 == 0)
    && (c.sblk == 0 || (f != .f32 && f != .bf16)) && (f != .si8 || c.sblk == 1) && (!f.isFp8 || c.sblk ≤ 1)
    && (c.sblk == 0 || (c.rows + 1) * c.nb ≤ 64)
    && (c.spn == 0 || ((f == .bf16 || f.isFp8) && c.sblk == 0 && c.cols == 47))

/-- TCFG. -/
def execTcfg (b : Bool) (n : Fin 16) (sr : Fin 32) (s : State) : Out :=
  onTile (.tcfg b n sr) n s fun x blk t =>
    let v := x.w.s[sr]
    if tcfgOk v then meetDone (s.setTile blk n.val { t with ctl := v.setWidth 32 }) x x.w
    else matrixCause s x .meeting 2

/-- TZERO. -/
def execTzero (b : Bool) (n : Fin 16) (s : State) : Out :=
  onTile (.tzero b n) n s fun x blk t =>
    meetDone (s.setTile blk n.val { Tile.reset with ctl := t.ctl }) x x.w

/-- Bytes of a line that a tile's format uses (R287). -/
def TileCtl.lineBytes (c : TileCtl) : Nat := if c.spn != 0 then 128 else (c.cols + 1) * c.fmt.width / 8

/-- Where a tile's image stands: base, pitch, side area, modulo 2^64. -/
structure Image where
  base : W64
  pitch : W64
  side : W64
  deriving DecidableEq, Repr

/-- The packed image at an address. -/
def Image.packed (a : W64) : Image := ⟨a, 128, a + 4096⟩

/-- The pitched image: bits of s[B + 1] (R287). -/
def Image.pitched (a p : W64) : Image :=
  ⟨a, (p.extractLsb' 0 32).signExtend 64, a + (p.extractLsb' 32 32).setWidth 64⟩

/-- Address of line j. -/
def Image.line (m : Image) (j : Nat) : W64 := m.base + m.pitch * w64 j

/-- Bytes of a line as its bits. -/
def lineOf (bs : List Byte) : BitVec 1024 := BitVec.ofNat 1024 (leNat bs)

/-- The ranges of an image that a tile's record uses: address and length, line by line, then the side area. -/
def Image.parts (m : Image) (c : TileCtl) : List (Nat × Nat) :=
  ((List.range (c.rows + 1)).map fun j => ((m.line j).toNat, c.lineBytes))
    ++ (if c.sblk != 0 then [(m.side.toNat, 256)] else [])

/-- Read ranges one after another: their bytes, or the one stop that is recorded (R284). -/
def State.readAll (s : State) (ag : Agent) (late : Bool) : List (Nat × Nat) → Except Stop (List (List Byte) × State)
  | [] => .ok ([], s)
  | (a, n) :: rest =>
    match s.agRead ag late a n with
    | .ok (bs, s1) =>
      match s1.readAll ag late rest with
      | .ok (more, s2) => .ok (bs :: more, s2)
      | .error e => .error e
    | .error e =>
      match s.readAll ag late rest with
      | .ok _ => .error e
      | .error e' => .error (if e.key ≤ e'.key then e else e')

/-- A scale word as the device holds and writes it: bits 7:0 zero (R52). -/
def s24Word (x : W32) : W32 := x &&& 0xFFFF_FF00#32

/-- The tile after its image is read: other lines and bytes are zero; the side area changes where SBLK is not zero. -/
def Tile.load (t : Tile) (bss : List (List Byte)) : Tile :=
  let c := ctlOf t.ctl
  { t with
    content := Vector.ofFn fun j => if j.val ≤ c.rows then lineOf ((bss[j.val]?).getD []) else 0
    side := if c.sblk != 0 then
        Vector.ofFn fun k => s24Word (w32 (leNat ((((bss[c.rows + 1]?).getD []).drop (4 * k.val)).take 4)))
      else t.side }

/-- A tile of undefined content (R287), and with `side` of undefined side area (R292). -/
def Tile.undefined (t : Tile) (idx : Nat) (side : Bool) : Tile :=
  { t with
    content := Vector.ofFn fun j => lineOf ((List.range 128).map fun k => Config.freeByte idx (128 * j.val + k))
    side := if side then Vector.ofFn fun j => w32 (leNat ((List.range 4).map fun k => Config.freeByte idx (4096 + 4 * j.val + k)))
      else t.side }

/-- Alignment of an image (R287). -/
def Image.aligned (m : Image) (pitched : Bool) : Bool :=
  if pitched then m.base.toNat % 16 == 0 && m.pitch.toNat % 16 == 0 else m.base.toNat % 128 == 0

/-- The image that TLD and TST name. -/
def imageOf (w : Warp) (sr : Fin 32) (pitched : Bool) : Image :=
  if pitched then .pitched w.s[sr] w.s[Fin.ofNat 32 (sr.val + 1)] else .packed w.s[sr]

/-- MISALIGNED of TLD and TST in every lane. -/
def tileMisaligned (s : State) (x : Focus) (m : Image) (write : Bool) : State :=
  raiseAll s x .meeting cMISALIGNED (fun _ => m.base) { RaiseInfo.plain with write := write }

/-- TLD. -/
def execTld (b : Bool) (n : Fin 16) (sr : Fin 32) (pitched : Bool) (s : State) : Out :=
  onTile (.tld b n sr pitched) n s fun x blk t =>
    let m := imageOf x.w sr pitched
    if !m.aligned pitched then
      tileMisaligned ((s.setTile blk n.val (t.undefined s.freeIndex false)).nextFree) x m false
    else match s.readAll (s.agentOf x.w (firstLane x.f.lanes)) (lateWait s x) (m.parts (ctlOf t.ctl)) with
      | .ok (bss, s1) => meetDone (s1.setTile blk n.val (t.load bss)) x x.w
      | .error .wait => waitRetry s x
      | .error .out => waitOut s x
      | .error e => stopMeeting ((s.setTile blk n.val (t.undefined s.freeIndex false)).nextFree) x e false

/-- The bytes that TST writes, range by range. -/
def Tile.image (t : Tile) : List (List Byte) :=
  let c := ctlOf t.ctl
  ((List.range (c.rows + 1)).map fun j => leBytes c.lineBytes (t.content[Fin.ofNat 32 j]).toNat)
    ++ (if c.sblk != 0 then [(List.finRange 64).flatMap fun k => leBytes 4 (s24Word t.side[k]).toNat] else [])

/-- Stops of a list of writes. -/
def State.writeStops (s : State) (ag : Agent) (late : Bool) (ws : List (Nat × List Byte)) : List Stop :=
  ws.filterMap fun w => match s.agWrite ag late w.1 w.2 with
    | .ok _ => none
    | .error e => some e

/-- Perform the writes of a list that do not stop and that `p` names. -/
def State.writeSome (s : State) (ag : Agent) (late : Bool) (p : Nat → Bool) : Nat → List (Nat × List Byte) → State
  | _, [] => s
  | i, w :: ws =>
    let s1 := if p i then
        match s.agWrite ag late w.1 w.2 with
        | .ok s1 => s1
        | .error _ => s
      else s
    s1.writeSome ag late p (i + 1) ws

/-- TST: a stop leaves some subset of the writes performed. -/
def execTst (b : Bool) (n : Fin 16) (sr : Fin 32) (pitched : Bool) (s : State) : Out :=
  onTile (.tst b n sr pitched) n s fun x _ t =>
    let m := imageOf x.w sr pitched
    let ag := s.agentOf x.w (firstLane x.f.lanes)
    let late := lateWait s x
    if !m.aligned pitched then tileMisaligned s x m true
    else
      let ws := ((m.parts (ctlOf t.ctl)).map fun p => p.1).zip t.image
      match s.writeStops ag late ws with
      | [] => meetDone (s.writeSome ag late (fun _ => true) 0 ws) x x.w
      | e :: es =>
        let st := (minBy Stop.key (e :: es)).getD e
        match st with
        | .wait => waitRetry s x
        | .out => waitOut s x
        | _ => stopMeeting ((s.writeSome ag late (Config.partialWrite s.freeIndex) 0 ws).nextFree) x st true

/-! ### ACCT (R288) -/

/-- ACCMODE in every lane of the fragment, without a split. -/
def accModeAll (s : State) (x : Focus) (k : Fin 8) : State := raisePlain s x (.strand k) cACCMODE

/-- ACCT.TILE. -/
def execAcctTile (b : Bool) (a : Fin 8) (s : State) : Out :=
  convStrand (.acctTile b a) a s fun s1 x =>
    match s1.readyTile x.w a true with
    | some w => finishStrand s1 x.c w x.f a
    | none => raisePlain s1 x (.strand a) cACCFULL

/-- ACCT.VEC. -/
def execAcctVec (b : Bool) (a : Fin 8) (s : State) : Out :=
  convStrand (.acctVec b a) a s fun s1 x =>
    finishStrand s1 x.c { x.w with acc := x.w.acc.set a { x.w.acc[a] with tile := none } } x.f a

/-- Element (i, c) of a tile as an F32: a NaN is the canonical one, and one with its top fraction bit clear sets IV (R56). -/
def Tile.f32 (t : Tile) (i c : Nat) : FRes := (roundV fmtF32 .rne false (t.elem i c)).orFlags (sigFlag [t.elem i c])

/-- ACCT.LOAD. -/
def execAcctLoad (b : Bool) (a : Fin 8) (n : Fin 16) (s : State) : Out :=
  convStrand (.acctLoad b a n) a s fun s1 x =>
    match (blockOf s1 x).bind fun blk => (s1.tile? blk n.val).map fun t => (blk, t) with
    | none => matrixCause s1 x (.strand a) 3
    | some (blk, t) =>
      let f := (ctlOf t.ctl).fmt
      if f != .f32 && f != .bf16 then matrixCause s1 x (.strand a) 11
      else if s1.tilesBusy blk [n.val] then s1
      else match s1.readyTile x.w a false with
        | none => raisePlain s1 x (.strand a) cACCFULL
        | some w =>
          match w.acc[a].tile with
          | none => s1
          | some tl =>
            let cols := Vector.ofFn fun (c : Fin 32) => Lanes.of fun i => w32 (t.f32 i.val c.val).bits
            let acc := w.acc.set a { w.acc[a] with tile := some { tl with cols := cols } }
            finishStrand s1 x.c { w with acc := acc, fpstat := w.fpstat ||| w32 (jointFlags fun i c => t.f32 i.val c.val) } x.f a

/-- A column element converted to a tile's format (R288). -/
def storeRes (f : Ty) (x : Nat) : FRes := cvtR f .f32 .rne .dflt x (ofInt 1)

/-- ACCT.STORE. -/
def execAcctStore (b : Bool) (a : Fin 8) (n : Fin 16) (s : State) : Out :=
  convStrand (.acctStore b a n) a s fun s1 x =>
    match x.w.acc[a].tile with
    | none => accModeAll s1 x a
    | some tl =>
      match (blockOf s1 x).bind fun blk => (s1.tile? blk n.val).map fun t => (blk, t) with
      | none => matrixCause s1 x (.strand a) 3
      | some (blk, t) =>
        let f := (ctlOf t.ctl).fmt
        if f != .f32 && f != .bf16 && !f.isFp8 then matrixCause s1 x (.strand a) 11
        else if s1.tilesBusy blk [n.val] then s1
        else
          let res := fun i c => storeRes f (tl.at i c)
          let line := fun (i : Fin 32) => BitVec.ofNat 1024
            ((List.range 32).foldr (fun c n => (res i.val c).bits + 2 ^ f.width * n) 0)
          finishStrand (s1.setTile blk n.val { t with content := Vector.ofFn line }) x.c
            { x.w with fpstat := x.w.fpstat ||| w32 (jointFlags fun i c => res i.val c.val) } x.f a

/-- A row form of ACCT: ILLEGAL, ACCMODE in vector mode, then the effect in the active lanes. -/
def acctRow (i : Instr) (a : Fin 8) (s : State) (upd : Warp → TileAcc → Mask → Warp) : Out :=
  strandInstr i a none s fun x m =>
    match x.w.acc[a].tile with
    | none => accModeAll s x a
    | some tl => finishStrand s x.c (upd x.w tl m) x.f a

/-- The 32 columns of a lane. -/
def TileAcc.row (t : TileAcc) (l : Fin 32) : List Nat := (List.range 32).map (t.at l.val)

/-- Row values in the active lanes with the flags they raise. -/
def rowValues (a : Fin 8) (f : List Nat → FRes) (w : Warp) (tl : TileAcc) (m : Mask) : Warp :=
  let w1 := w.writeAcc a m fun l => accImage .f32 (f (tl.row l)).bits
  { w1 with fpstat := w1.fpstat ||| w32 ((lanesOf m).foldl (fun n l => n ||| (f (tl.row l)).flags) 0) }

/-- ACCT.RMAX. -/
def execAcctRmax (b : Bool) (a : Fin 8) (s : State) : Out :=
  acctRow (.acctRmax b a) a s (rowValues a (foldRes (maxR .f32)))
/-- ACCT.RMIN. -/
def execAcctRmin (b : Bool) (a : Fin 8) (s : State) : Out :=
  acctRow (.acctRmin b a) a s (rowValues a (foldRes (minR .f32)))
/-- ACCT.RSUM. -/
def execAcctRsum (b : Bool) (a : Fin 8) (s : State) : Out :=
  acctRow (.acctRsum b a) a s (rowValues a (fsum .f32))
/-- ACCT.RCOL. -/
def execAcctRcol (b : Bool) (a : Fin 8) (c : Fin 32) (s : State) : Out :=
  acctRow (.acctRcol b a c) a s fun w tl m => w.writeAcc a m fun l => w64 (tl.at l.val c.val)
/-- ACCT.WCOL. -/
def execAcctWcol (b : Bool) (a : Fin 8) (c : Fin 32) (s : State) : Out :=
  acctRow (.acctWcol b a c) a s fun w tl m =>
    let col := Lanes.update tl.cols[c] m fun l => ((w.acc[a].val)[l]).setWidth 32
    { w with acc := w.acc.set a { w.acc[a] with tile := some { tl with cols := tl.cols.set c col } } }

/-! ### MLOOP and MPAIR (R290-R297) -/

/-- The descriptor in s[D] to s[D + 3]. -/
structure LoopDesc where
  a : W64
  b : W64
  inc : W64
  cnt : W64
  deriving DecidableEq, Repr

/-- The descriptor of a loop. -/
def loopDesc (w : Warp) (d : Fin 8) : LoopDesc :=
  let r := fun i => w.s[Fin.ofNat 32 (4 * d.val + i)]
  ⟨r 0, r 1, r 2, r 3⟩

/-- Code 9 (R290). -/
def LoopDesc.ok (d : LoopDesc) (pair : Bool) : Bool := bits d.cnt 63 48 == 0 && (pair || bits d.cnt 47 32 == 0)

/-- The loop at this position resumes from the warp's record (R291). -/
def Warp.resumes (w : Warp) (pos : Pos) (a : Fin 8) : Bool := w.loop.valid && w.loop.pos == pos && w.loop.acc == a

/-- COUNT of a record. -/
def LoopRec.count (r : LoopRec) : Nat := bits r.cnt 31 0

/-- KEY of a record. -/
def LoopRec.key (r : LoopRec) : Nat := bits r.cnt 47 32

/-- The record after a step. -/
def LoopRec.next (r : LoopRec) : LoopRec :=
  { r with
    step := r.step + 1
    aAddr := r.aAddr + (r.inc.extractLsb' 0 32).signExtend 64
    bAddr := r.bAddr + (r.inc.extractLsb' 32 32).signExtend 64 }

/-- The executing loop completes: VALID clears and its strand goes on. -/
def loopDone (s : State) (c : Cursor) (w : Warp) (f : Fragment) (a : Fin 8) : State :=
  finishStrand s c { w with loop := { w.loop with valid := false } } f a

/-- The size of a tile's packed image in a span (R290). -/
def imageSize (c : TileCtl) : Nat := 4096 + (if c.sblk != 0 then 256 else 0)

/-- The packed images of a span, one after another from an address. -/
def spanImages (a : W64) : List Tile → List Image
  | [] => []
  | t :: ts => .packed a :: spanImages (a + w64 (imageSize (ctlOf t.ctl))) ts

/-- The stop of a span whose address is no multiple of 128: NONCANON of its accesses ranks above MISALIGNED (R284). -/
def misalignedSpan (parts : List (Nat × Nat)) (a : Nat) : Stop :=
  (minBy Stop.key (parts.map fun p => .cause (if p.1 / 2 ^ 57 != 0 then cNONCANON else cMISALIGNED) p.1)).getD
    (.cause cMISALIGNED a)

/-- Read the images of a span: the tiles as loaded, or the stop. An address that is no multiple of 128 is MISALIGNED. -/
def State.readSpan (s : State) (ag : Agent) (late : Bool) (a : W64) (ts : List Tile) :
    Except Stop (List Tile × State) :=
  let parts := (((spanImages a ts).zip ts).map fun mt => mt.1.parts (ctlOf mt.2.ctl)).flatten
  if a.toNat % 128 != 0 then .error (misalignedSpan parts a.toNat)
  else
    match s.readAll ag late parts with
    | .error e => .error e
    | .ok (bss, s1) =>
      let load := ts.foldl (fun (acc : List Tile × List (List Byte)) t =>
        let n := (ctlOf t.ctl).rows + 1 + b2n ((ctlOf t.ctl).sblk != 0)
        (acc.1 ++ [t.load (acc.2.take n)], acc.2.drop n)) ([], bss)
      .ok (load.1, s1)

/-- Replace the tiles of a span. -/
def State.setSpan (s : State) (b : Block) : Nat → List Tile → State
  | _, [] => s
  | n, t :: ts => (s.setTile b n t).setSpan b (n + 1) ts

/-- A loop with its warp, fragment, block and operands. -/
structure LoopView where
  m : MatrixOp
  w : Warp
  f : Fragment
  blk : Block
  o : Operands

/-- The view of a loop. -/
def State.loopView (s : State) (m : MatrixOp) : Option LoopView :=
  (s.warp? m.frag.core m.frag.slot).bind fun w => (w.frag? m.frag.uid).bind fun f => (s.block? w.block).bind fun b =>
    match s.operands b m.ta.val m.tb.val with
    | .ok o => some ⟨m, w, f, b, o⟩
    | .error _ => none

/-- The cursor of a loop. -/
def LoopView.cursor (v : LoopView) : Cursor :=
  { core := v.w.core, slot := v.w.slot, uid := v.f.uid, pos := v.m.pos, next := v.m.next, lanes := v.f.lanes
    covered := false }

/-- MEM.ACKTO has passed since a loop's reads found a home out of reach. -/
def State.loopLate (s : State) (m : MatrixOp) : Bool := m.out.any fun t => s.time ≥ t + s.ackNs

/-- The reads of some loops find a home out of reach: from now on the time counts. -/
def State.loopOut (s : State) (frs : List FragRef) : Option State :=
  let fresh := fun (m : MatrixOp) => frs.contains m.frag && m.out.isNone
  if s.matrix.any fresh then some { s with matrix := replaceAll fresh (fun m => { m with out := some s.time }) s.matrix } else none

/-- A loop stops on a cause at its next step (R292): the tiles of its spans are undefined, the record stands. -/
def State.loopStop (s : State) (v : LoopView) (b : Nat) (addr : Nat) (code : Nat) : State :=
  let und := fun (t : Tile) => t.undefined s.freeIndex true
  let s1 := if b == cMATRIX then s
    else ((s.setSpan v.blk v.m.ta.val (v.o.a.map und)).setSpan v.blk v.m.tb.val (v.o.b.map und)).nextFree
  let s2 := { s1 with cursor := some v.cursor }
  raiseAll s2 ⟨v.cursor, v.w, v.f⟩ (.strand v.m.acc) b (fun _ => w64 addr)
    { RaiseInfo.plain with code := BitVec.ofNat 16 code }

/-- The operand reads of a loop's next step: the tiles of A, and of B where it reads B. -/
def State.loopReads (s : State) (v : LoopView) (readsB : Bool) : Except Stop (List Tile × List Tile × State) :=
  let ag := s.agentOf v.w (firstLane v.f.lanes)
  let late := s.loopLate v.m
  match s.readSpan ag late v.w.loop.aAddr v.o.a,
      (if readsB then s.readSpan ag late v.w.loop.bAddr v.o.b else .ok (v.o.b, s)) with
  | .ok (a, s1), .ok _ =>
    match (if readsB then s1.readSpan ag late v.w.loop.bAddr v.o.b else .ok (v.o.b, s1)) with
    | .ok (b, s2) => .ok (a, b, s2)
    | .error e => .error e
  | .error e, .ok _ => .error e
  | .ok _, .error e => .error e
  | .error e, .error e' => .error (if e.key ≤ e'.key then e else e')

/-- The images of a step stand in the tiles of a loop's spans. -/
def State.loadSpans (s : State) (v : LoopView) (a b : List Tile) : State :=
  (s.setSpan v.blk v.m.ta.val a).setSpan v.blk v.m.tb.val b

/-- Perform a loop's step on its loaded tiles, and end the loop after its last step. -/
def State.loopStep (s : State) (m : MatrixOp) (a b : List Tile) : State :=
  match s.loopView m with
  | none => s
  | some v =>
    let s1 := s.loadSpans v a b
    let (s2, w1) := s1.matrixStep v.w { v.o with a := a, b := b } m.acc m.pair
    let w2 := { w1 with loop := w1.loop.next }
    let again := fun (q : MatrixOp) => if q == m then { q with since := s.time, out := none } else q
    if w2.loop.step ≥ w2.loop.count then
      let s3 := { s2 with matrix := s2.matrix.filter fun q => q != m, cursor := some v.cursor }
      loopDone s3 v.cursor w2 v.f m.acc
    else put { s2 with matrix := s2.matrix.map again } w2 v.f

/-- Code 4 of the operands that a step has loaded. -/
def masksBad (o : Operands) (a : List Tile) : Bool := !({ o with a := a } : Operands).masksOk

/-- One step of a loop that runs alone; none while a home is out of reach. Where a group mask is wrong (R276) the images are
loaded and the step writes nothing. -/
def State.soloStep (s : State) (v : LoopView) : Option State :=
  match s.loopReads v true with
  | .error (.cause b addr) => some (s.loopStop v b addr 0)
  | .error .wait => none
  | .error .out => s.loopOut [v.m.frag]
  | .ok (a, b, s1) =>
    if masksBad v.o a then some ((s1.loadSpans v a b).loopStop v cMATRIX 0 4) else some (s1.loopStep v.m a b)

/-- The crown's B tiles with the images that the base core has read (R294): content, and the side area where SBLK is not
zero (R287). -/
def crownTiles (own got : List Tile) : List Tile :=
  (own.zip got).map fun p =>
    { p.1 with content := p.2.content, side := if (ctlOf p.1.ctl).sblk != 0 then p.2.side else p.1.side }

/-- Both halves of a pair stop on their causes. -/
def State.bothStop (s : State) (base crown : LoopView) (b1 a1 c1 b2 a2 c2 : Nat) : State :=
  let s1 := s.loopStop base b1 a1 c1
  match s1.loopView { crown.m with bond := none, since := s.time } with
  | some v => s1.loopStop v b2 a2 c2
  | none => s1

/-- One step of a bonded pair (R294, R296): the base core's half reads B for both; neither performs a step that either
cannot. -/
def State.pairStep (s : State) (base crown : LoopView) : Option State :=
  match s.loopReads base true, s.loopReads crown false with
  | .error .out, _ | _, .error .out => s.loopOut [base.m.frag, crown.m.frag]
  | .error .wait, _ | _, .error .wait => none
  | .error (.cause b1 a1), .error (.cause b2 a2) => some (s.bothStop base crown b1 a1 0 b2 a2 0)
  | .error (.cause b1 a1), .ok _ => some (s.loopStop base b1 a1 0)
  | .ok _, .error (.cause b2 a2) => some (s.loopStop crown b2 a2 0)
  | .ok (a1, b1, s1), .ok _ =>
    match s1.loopReads crown false with
    | .error _ => none
    | .ok (a2, own, s2) =>
      let b2 := crownTiles own b1
      let s3 := (s2.loadSpans base a1 b1).loadSpans crown a2 b2
      match masksBad base.o a1, masksBad crown.o a2 with
      | true, true => some (s3.bothStop base crown cMATRIX 0 4 cMATRIX 0 4)
      | true, false => some (s3.loopStop base cMATRIX 0 4)
      | false, true => some (s3.loopStop crown cMATRIX 0 4)
      | false, false => some ((s2.loopStep base.m a1 b1).loopStep crown.m a2 b2)

/-- The place of an operation of a fragment in the engine's choice (R283): bonded first, then launch priority, then age. -/
def State.opKey (s : State) (w : Warp) (f : Fragment) (bonded : Bool) : Nat :=
  let prio := ((s.owner? w).map fun o => o.launch.prio).getD 0
  (if bonded then 0 else 1) * 2 ^ 72 + (7 - min prio 7) * 2 ^ 64 + min f.age (2 ^ 64 - 1)

/-- The place of a loop in the engine's choice (R283). -/
def State.loopKey (s : State) (m : MatrixOp) : Nat :=
  match s.loopView m with
  | none => 2 ^ 80
  | some v => s.opKey v.w v.f m.bond.isSome

/-- Loops of a core that can take a step. -/
def State.stepping (s : State) (core : Nat) : List MatrixOp :=
  s.matrix.filter fun m => m.frag.core == core && (!m.pair || m.bond.isSome)

/-- MATRIX_STEP: the engine of a core takes the next step of the loop it chooses. -/
def State.matrixStepOf (s : State) (core : Nat) : Option State :=
  match minBy s.loopKey (s.stepping core) with
  | none => none
  | some m =>
    match s.loopView m, m.bond with
    | some v, none => s.soloStep v
    | some v, some r =>
      match (s.matrix.find? fun q => q.frag == r && q.bond == some m.frag).bind s.loopView with
      | none => none
      | some u => if m.frag.core % 2 == 0 then s.pairStep v u else s.pairStep u v
    | none, _ => none

/-- MATRIX_STEP. -/
def execMatrixStep (core : Fin 256) (s : State) : Out := event s (s.matrixStepOf core.val)

/-! ### MMA (R289) -/

/-- The engine of a core takes a step of a pending loop ahead of an MMA (R283): a bonded pair's, or one of higher launch
priority or, within it, of an older fragment, that can be performed now. -/
def State.engineTaken (s : State) (x : Focus) : Bool :=
  match minBy s.loopKey (s.stepping x.w.core) with
  | none => false
  | some m => s.loopKey m < s.opKey x.w x.f false && (s.matrixStepOf x.w.core).isSome

/-- MMA: it waits for the warp's loops and for the engine (R283), and for loops that use its tiles (R282). -/
def execMma (b : Bool) (a : Fin 8) (ta tb : Fin 16) (z : Bool) (s : State) : Out :=
  convStrand (.mma b a ta tb z) a s fun s1 x =>
    match blockOf s1 x with
    | none => matrixCause s1 x (.strand a) 3
    | some blk =>
      if s1.warpLoops x.w || s1.tilesBusy blk (s1.spans blk ta.val tb.val) || s1.engineTaken x then s1
      else match s1.operands blk ta.val tb.val with
        | .error c => matrixCause s1 x (.strand a) c
        | .ok o =>
          if !o.masksOk then matrixCause s1 x (.strand a) 4
          else match s1.readyTile x.w a z with
            | none => raisePlain s1 x (.strand a) cACCFULL
            | some w =>
              let (s2, w1) := s1.matrixStep w o a false
              finishStrand s2 x.c w1 x.f a

/-- Two halves that bond (R295). -/
def bonds (a b : LoopView) : Bool :=
  let gang := fun (v : LoopView) => v.blk.gang
  a.m.pair && b.m.pair && a.m.bond.isNone && b.m.bond.isNone && gang a == gang b
    && a.w.loop.key == b.w.loop.key

/-- Code 6: the halves disagree in COUNT, B records or STEP. -/
def halvesDisagree (a b : LoopView) : Bool :=
  a.w.loop.count != b.w.loop.count || a.w.loop.step != b.w.loop.step
    || a.o.b.map (fun t => t.ctl) != b.o.b.map (fun t => t.ctl)

/-- A half that bonds knows its partner's half, and its fragment is ready again (R295, R296). -/
def State.bondHalf (s : State) (v u : LoopView) : State :=
  put s { v.w with loop := { v.w.loop with partner := some (u.blk.inGang, u.w.inBlock) } }
    { v.f with status := .ready, age := s.clock }

/-- MPAIR_BOND: the first waiting halves of a vertical pair that match bond, or take MATRIX with code 6. -/
def State.mpairBond (s : State) (pair : Nat) : Option State :=
  let half := fun core => (s.matrix.filter fun m => m.frag.core == core && m.pair && m.bond.isNone).filterMap s.loopView
  let cands := (half (2 * pair)).flatMap fun a => ((half (2 * pair + 1)).filter fun b => bonds a b).map fun b => (a, b)
  match cands with
  | [] => none
  | (a, b) :: _ =>
    if halvesDisagree a b then
      let s1 := s.loopStop a cMATRIX 0 6
      some (match s1.loopView b.m with
        | some v => s1.loopStop v cMATRIX 0 6
        | none => s1)
    else
      let tie := fun (m : MatrixOp) =>
        if m == a.m then { m with bond := some b.m.frag, since := s.time }
        else if m == b.m then { m with bond := some a.m.frag, since := s.time } else m
      some { (s.bondHalf a b).bondHalf b a with matrix := s.matrix.map tie }

/-- MPAIR_BOND. -/
def execMpairBond (pair : Fin 128) (s : State) : Out := event s (s.mpairBond pair.val)

/-- MPAIR_BOND_TIMEOUT (R297): a fresh half has waited longer than MX.BONDTO. -/
def State.bondTimeout (s : State) (core slot : Nat) : Option State :=
  let lim := (s.cgs[cgOfCore core].bondTo).toNat
  match (s.matrix.filter fun m => m.frag.core == core && m.frag.slot == slot && m.pair && m.bond.isNone).filterMap
      s.loopView with
  | [] => none
  | v :: _ =>
    if lim != 0 && v.w.loop.step == 0 && s.time > v.m.since + lim * 1000 then some (s.loopStop v cMATRIX 0 7) else none

/-- MPAIR_BOND_TIMEOUT. -/
def execMpairBondTimeout (w : WarpRef) (s : State) : Out := event s (s.bondTimeout w.core w.slot)

/-- The vertical partner of a core (R10). -/
def partnerCore (core : Nat) : Nat := if core % 2 == 0 then core + 1 else core - 1

/-- The gate of the crown core of a core's pair keeps it off (R340). -/
def State.crownGated (s : State) (core : Nat) : Bool :=
  let g := s.pairs[pairOf core].gate
  core % 2 == 1 && (g == Gate.gated || g == Gate.waking)

/-- A waiting half whose partner half can no longer arrive (R297): the partner core is a gated crown; the half it has bonded
with is gone, by a kill, a retirement or a skip; or no warp of its gang is left on the partner core. (DEDUCED, log 47.) -/
def State.partnerLost (s : State) (v : LoopView) : Bool :=
  let pc := partnerCore v.w.core
  let mates := s.warps.filterMap fun u => (s.block? u.block).bind fun b =>
    if u.core == pc && b.gang == v.blk.gang then some (b.inGang, u) else none
  v.m.pair && v.m.bond.isNone && (s.crownGated pc || match v.w.loop.partner with
    | some (n, k) => !(mates.any fun u => u.1 == n && u.2.inBlock == k && u.2.loop.valid && u.2.loop.paired
        && u.2.loop.key == v.w.loop.key)
    | none => mates.isEmpty)

/-- Waiting halves that have lost their partner take MATRIX with code 7. -/
def State.settlePairs (s : State) : State :=
  s.matrix.foldl (fun s m =>
    match s.loopView m with
    | some v => if s.matrix.contains m && s.partnerLost v then s.loopStop v cMATRIX 0 7 else s
    | none => s) s

/-- A warp skips an MPAIR of a key (R297): a waiting half of its gang on the partner core that has not bonded yet and carries
that key takes MATRIX with code 7. -/
def State.pairSkipped (s : State) (w : Warp) (key : Nat) : State :=
  s.matrix.foldl (fun s1 m =>
    match s1.loopView m with
    | some v =>
      if s1.matrix.contains m && m.pair && m.bond.isNone && v.w.core == partnerCore w.core && v.w.loop.partner.isNone
          && v.w.loop.key == key && (s1.block? w.block).any (fun b => b.gang == v.blk.gang)
      then s1.loopStop v cMATRIX 0 7 else s1
    | none => s1) s

/-! ### MLOOP and MPAIR begin (R290, R291) -/

/-- Put the loop under way. The records of its tiles form the step mode now, or take the MATRIX code (R275): no TCFG changes
them while the loop holds the tiles (R282). A half of an MPAIR waits for its bond (R295, R296). -/
def startLoop (s : State) (x : Focus) (w : Warp) (blk : Block) (i : Instr) (a : Fin 8) (ta tb : Fin 16) (pair : Bool) :
    State :=
  if w.loop.step ≥ w.loop.count then loopDone s x.c w x.f a
  else match s.operands blk ta.val tb.val with
    | .error c => matrixCause s { x with w := w } (.strand a) c
    | .ok _ =>
      let e := { x.f.pendAt x.c i with flight := BitVec.allOnes 32 }
      let m : MatrixOp :=
        { frag := ⟨w.core, w.slot, x.f.uid⟩, pos := x.c.pos, next := x.c.next, acc := a, ta := ta, tb := tb, pair := pair
          bond := none, since := s.time, out := none }
      let f := x.f.setPend e
      let s1 := { s with matrix := s.matrix ++ [m] }
      if pair then (put s1 w { f with status := .waiting .bond }).settlePairs else put s1 w f

/-- MLOOP and MPAIR from their start or their record. -/
def loopInstr (i : Instr) (a : Fin 8) (ta tb : Fin 16) (d : Fin 8) (z pair : Bool) (s : State) : Out :=
  convStrand i a s fun s1 x =>
    match s1.owner? x.w with
    | none => matrixCause s1 x (.strand a) 3
    | some o =>
      let blk := o.block
      if pair && o.launch.depth == 0 then matrixCause s1 x (.strand a) 5
      else if s1.warpLoops x.w || s1.tilesBusy blk (s1.spans blk ta.val tb.val) then s1
      else if x.w.resumes x.c.pos a then startLoop s1 x x.w blk i a ta tb pair
      else
        let ds := loopDesc x.w d
        if !ds.ok pair then matrixCause s1 x (.strand a) 9
        else match s1.readyTile x.w a z with
          | none => raisePlain s1 x (.strand a) cACCFULL
          | some w =>
            let r : LoopRec :=
              { valid := true, paired := pair, acc := a, step := 0, pos := x.c.pos, aAddr := ds.a, bAddr := ds.b
                inc := ds.inc, cnt := ds.cnt, partner := none }
            startLoop s1 x { w with loop := r } blk i a ta tb pair

/-- MLOOP. -/
def execMloop (b : Bool) (a : Fin 8) (ta tb : Fin 16) (d : Fin 8) (z : Bool) (s : State) : Out :=
  loopInstr (.mloop b a ta tb d z) a ta tb d z false s
/-- MPAIR. -/
def execMpair (b : Bool) (a : Fin 8) (ta tb : Fin 16) (d : Fin 8) (z : Bool) (s : State) : Out :=
  loopInstr (.mpair b a ta tb d z) a ta tb d z true s

/-! ### TMASK, MAUDIT, MSTAT (R298, R299, R303) -/

/-- P[x] of the parent table. -/
def parentOf (w : Warp) (d : Fin 8) (x : Nat) : Nat :=
  (w.s[Fin.ofNat 32 (4 * d.val + x / 8)]).toNat / 2 ^ (8 * (x % 8)) % 256

/-- The ancestors of a node, itself among them. -/
def ancestors (p : Nat → Nat) : Nat → Nat → List Nat
  | 0, x => [x]
  | n + 1, x => if p x == 0xFF then [x] else x :: ancestors p n (p x)

/-- TMASK: `n` holds n − 1. -/
def execTmask (b : Bool) (a : Fin 8) (d : Fin 8) (n : Fin 32) (s : State) : Out :=
  strandInstr (.tmask b a d n) a none s fun x m =>
    match x.w.acc[a].tile with
    | none => accModeAll s x a
    | some tl =>
      let p := parentOf x.w d
      let nodes := n.val + 1
      if (List.range nodes).any fun k => p k != 0xFF && p k ≥ k then matrixCause s x (.strand a) 8
      else
        let keep := fun (l : Fin 32) (c : Nat) => c < nodes && (ancestors p 32 l.val).contains c
        let rows := m &&& maskOf fun l => l.val < nodes
        let cols := Vector.ofFn fun (c : Fin 32) =>
          Lanes.update tl.cols[c] (rows &&& maskOf fun l => !keep l c.val) fun _ => 0xFF80_0000#32
        finishStrand s x.c { x.w with acc := x.w.acc.set a { x.w.acc[a] with tile := some { tl with cols := cols } } } x.f a

/-- A matrix operation of an instruction (R299, R303). -/
def isMatrixOp : Instr → Bool
  | .mma _ _ _ _ _ | .mloop _ _ _ _ _ _ | .mpair _ _ _ _ _ _ => true
  | _ => false

/-- Matrix operations of the warp dispatched and not complete. -/
def State.matrixPending (s : State) (w : Warp) : Bool :=
  s.warpLoops w || w.frags.any fun f => f.pend.any fun e => isMatrixOp e.instr

/-- MAUDIT. -/
def execMaudit (b : Bool) (d : Fin 16) (s : State) : Out :=
  meetInstr (.maudit b d) s fun x =>
    let ring := x.w.s[Fin.ofNat 32 (2 * d.val)]
    let cfg := x.w.s[Fin.ofNat 32 (2 * d.val + 1)]
    let log2n := bits cfg 4 0
    if s.matrixPending x.w then waitRetry s x
    else if bits ring 63 57 != 0 || bits ring 3 0 != 0 || !(log2n == 0 || (4 ≤ log2n && log2n ≤ 16)) || bits cfg 12 8 > 20
        || bits cfg 63 13 != 0 || bits cfg 7 5 != 0 then matrixCause s x .meeting 10
    else meetDone s x { x.w with mxAudRing := ring, mxAudCfg := cfg, mxAudSeq := 0 }

/-- MSTAT. -/
def execMstat (b : Bool) (d : Fin 32) (clr : Bool) (s : State) : Out :=
  meetInstr (.mstat b d clr) s fun x =>
    if s.matrixPending x.w then waitRetry s x
    else
      let w1 := x.w.writeS d (x.w.mxStat.setWidth 64)
      meetDone s x (if clr then { w1 with mxStat := 0 } else w1)

end Sys2Proof.Machine
end

