-- ==== Sys2Proof/Machine/Vertical.lean ====
section
/-!
DEFINITION. The vertical exchange engine (R330-R346): the FIFO of a vertical pair, pushes and pops, and the gate of a
crown core.
-/

namespace Sys2Proof.Machine

open Sys2Proof

/-! ### What a gang sees (R331, R332) -/

/-- The vertical pair of a core. -/
def State.pair (s : State) (core : Nat) : Pair := s.pairs[pairOf core]

/-- Replace a vertical pair. -/
def State.setPair (s : State) (core : Nat) (p : Pair) : State := { s with pairs := s.pairs.set (pairOf core) p }

/-- The gang of a warp. -/
def State.gangOf (s : State) (w : Warp) : Option Nat := (s.block? w.block).map fun b => b.gang

/-- The executing gang holds the FIFO. -/
def State.holdsFifo (s : State) (w : Warp) : Bool :=
  match s.gangOf w, (s.pair w.core).holder with
  | some g, some h => g == h
  | _, _ => false

/-- PGOK of the launch descriptor (R363, R331). -/
def State.pgok (s : State) (w : Warp) : Bool :=
  (s.owner? w).any fun o => (recField o.launch.record 7 1).testBit 6

/-- The core is the producing side. -/
def Pair.producer (p : Pair) (core : Nat) : Bool := (core % 2 == 1) == p.down

/-- VX.CFG (R331). -/
def State.vxCfg (s : State) (w : Warp) : Nat :=
  let p := s.pair w.core
  let own := s.holdsFifo w
  b2n own + 2 * b2n (own && p.producer w.core) + 16 * b2n (own && p.down) + 128 * b2n (s.pgok w)

/-- Codes of GATE (R332). -/
def Gate.code : Gate → Nat
  | .on => 0
  | .pending => 1
  | .gated => 2
  | .waking => 3

/-- VX.STAT (R332). -/
def State.vxStat (s : State) (w : Warp) : Nat :=
  let p := s.pair w.core
  let n := p.fifo.length
  p.gate.code * 2 ^ 22 +
    (if s.holdsFifo w then b2n (!p.waits.isEmpty) * 2 ^ 21 + n * 2 ^ 16 + (16 - n) else 0)

/-! ### The gate of a crown core (R340-R342) -/

/-- The crown core of a pair. -/
def crownOf (core : Nat) : Nat := core / 2 * 2 + 1

/-- The core holds a resident warp. -/
def State.occupied (s : State) (core : Nat) : Bool := s.warps.any fun w => w.core == core

/-- Gated or waking. -/
def Pair.off (p : Pair) : Bool := p.gate == .gated || p.gate == .waking

/-- A cause in every lane of the fragment of a waiting push. -/
def State.stopPush (s : State) (fr : FragRef) (pos : Pos) (cause : Nat) (addr : Warp → Nat) : State :=
  match s.warp? fr.core fr.slot with
  | none => s
  | some w =>
    match w.frag? fr.uid with
    | none => s
    | some f =>
      match f.pend.find? fun e => e.pos == pos with
      | none => s
      | some e =>
        s.stopWith w f ((lanesOf f.lanes).map fun l => (l, cause, w64 (addr w))) e.instr.place RaiseInfo.plain

/-- Memory operand and offset of a memory instruction. -/
def Instr.memOperand? : Instr → Option (MemOperand × W64)
  | .ld o | .st o => some (o.m, 0)
  | .ldExt o | .stExt o => some (o.m, o.off.signExtend 64)
  | _ => none

/-- An access that waits at a bank which is no longer held takes SPFAULT (R239, R340). (DESIGN CHOICE, log 14.) -/
def State.loseBankWait (s : State) (x : FifoWait) : State :=
  match (s.warp? x.frag.core x.frag.slot).bind fun w => (w.frag? x.frag.uid).map fun f => (w, f) with
  | none => s
  | some (w, f) =>
    match (f.pend.find? fun e => e.pos == x.pos).bind fun e => Instr.memOperand? e.instr with
    | none => s
    | some (m, off) =>
      s.answerLane x.frag x.pos ((lanesOf x.lanes).map fun l => (l, .cause cSPFAULT (effAddr w m off l)))

/-- A core is reset (R342): banks in CACHE mode with no content, tiles free and zero; accesses waiting at its banks end. -/
def State.resetCore (s : State) (core : Nat) : State :=
  let c := s.cores[coreFin core]
  let waits := (List.finRange 12).flatMap fun b => c.banks[b].pushes ++ c.banks[b].pops
  let lo := bankKey core 0 0 / 32
  let s1 : State := { s with
    cores := s.cores.set (coreFin core) Core.reset
    mem := { s.mem with poison := s.mem.poison.filter fun u => !(lo ≤ u && u < lo + 12 * 2048) } }
  waits.foldl State.loseBankWait s1

/-- The gate can take effect (R340): the FIFO is empty and the crown core holds no warp. (DEDUCED, log 9.) -/
def State.gateReady (s : State) (core : Nat) : Bool :=
  let p := s.pair core
  p.gate == .pending && p.fifo.isEmpty && !s.occupied (crownOf core)

/-- The gate takes effect: waiting pushes take VGATED, the crown core holds nothing, and waiting halves of its pair lose
their partner (R297). -/
def State.gateEffect (s : State) (core : Nat) : State :=
  let p := s.pair core
  let s1 := s.setPair core { p with gate := .gated }
  let s2 := p.waits.foldl (fun s v => s.stopPush v.frag v.pos cVGATED fun _ => 0) s1
  ((s2.resetCore (crownOf core)).settlePairs).wakeDispatch

/-- The gate takes effect where it can. -/
def State.settleGate (s : State) (core : Nat) : State := if s.gateReady core then s.gateEffect core else s

/-- CROWN_GATE_EFFECT. -/
def execCrownGateEffect (pair : Fin 128) (s : State) : Out :=
  event s (if s.gateReady (2 * pair.val) then some (s.gateEffect (2 * pair.val)) else none)

/-- CROWN_WAKE: the domain is powered and the core reset (R340, R342). -/
def State.crownWake (s : State) (core : Nat) : Option State :=
  let p := s.pair core
  if p.gate == .waking then some ((s.setPair core { p with gate := .on }).resetCore (crownOf core)).wakeDispatch else none

/-- CROWN_WAKE. -/
def execCrownWake (pair : Fin 128) (s : State) : Out := event s (s.crownWake (2 * pair.val))

/-- Forms of PGREQ (R341). -/
inductive GateForm where
  | now | drain | ungate | cancel
  deriving DecidableEq, Repr

/-- The gate after a request, with its status (R341). -/
def Pair.request (p : Pair) : GateForm → Gate × Nat
  | .now => match p.gate with
    | .on => if p.fifo.isEmpty && p.waits.isEmpty then (.pending, 1) else (.on, 2)
    | .pending => (.pending, 1)
    | .gated => (.gated, 0)
    | .waking => (.waking, 3)
  | .drain => match p.gate with
    | .on => (.pending, 1)
    | .pending => (.pending, 1)
    | .gated => (.gated, 0)
    | .waking => (.waking, 3)
  | .ungate => match p.gate with
    | .on => (.on, 0)
    | .pending => (.on, 0)
    | .gated => (.waking, 1)
    | .waking => (.waking, 1)
  | .cancel => match p.gate with
    | .on => (.on, 0)
    | .pending => (.on, 0)
    | .gated => (.gated, 3)
    | .waking => (.waking, 3)

/-- A gate that changes state makes a placement pass due (R376). -/
def gateSet (s : State) (old new : Gate) : State := if old == new then s else s.wakeDispatch

/-- PGREQ in its forms. -/
def pgreq (i : Instr) (form : GateForm) (d : Fin 32) (s : State) : Out :=
  meetInstr i s fun x =>
    if !s.pgok x.w then raisePlain s x .meeting cPRIVILEGE
    else
      let p := s.pair x.w.core
      let r := p.request form
      meetDone (gateSet (s.setPair x.w.core { p with gate := r.1 }) p.gate r.1) x (x.w.writeS d (w64 r.2))

/-- PGREQ.NOW. -/
def execPgreqNow (b : Bool) (d : Fin 32) (s : State) : Out := pgreq (.pgreqNow b d) .now d s
/-- PGREQ.DRAIN. -/
def execPgreqDrain (b : Bool) (d : Fin 32) (s : State) : Out := pgreq (.pgreqDrain b d) .drain d s
/-- PGREQ.UNGATE. -/
def execPgreqUngate (b : Bool) (d : Fin 32) (s : State) : Out := pgreq (.pgreqUngate b d) .ungate d s
/-- PGREQ.CANCEL. -/
def execPgreqCancel (b : Bool) (d : Fin 32) (s : State) : Out := pgreq (.pgreqCancel b d) .cancel d s

/-! ### Pushes (R333-R335) -/

/-- The group of a push (R333). -/
def pushGroup (w : Warp) (k : Fin 8) (t : Ty) (m : Mask) : List (Lanes W32) :=
  let v : Fin 32 → W64 := fun l => accImage t (lowBits t (w.acc[k].val)[l])
  let e0 := Lanes.of fun l => if inMask m l then (v l).setWidth 32 else 0
  let e1 := Lanes.of fun l => if inMask m l then (v l).extractLsb' 32 32 else 0
  if t.is64 then [e0, e1] else [e0]

/-- A group of n entries can be admitted now, no earlier push waiting (R334, R340). (DEDUCED, log 10.) -/
def State.admits (s : State) (core n : Nat) : Bool :=
  let p := s.pair core
  p.fifo.length + n ≤ 16 && match p.gate with
    | .on => true
    | .pending => p.fifo.isEmpty && s.occupied (crownOf core)
    | _ => false

/-- A side of the pair holds an unretired warp of the gang that holds the FIFO. -/
def State.sideLive (s : State) (core : Nat) : Bool :=
  let p := s.pair core
  s.warps.any fun w => w.core == core && w.unretired != 0 && s.gangOf w == p.holder

/-- ILLSTATE of a vertical instruction with VX.CFG (R339). -/
def vxIllegal (s : State) (x : Focus) (place : Place) : State := illStateAt s x place (w32 (s.vxCfg x.w))

/-- A push reaches the engine: a cause, admission by `yes`, or `no` where it cannot be admitted. -/
def pushInstr (i : Instr) (k : Fin 8) (t : Ty) (s : State)
    (yes no : State → Focus → Mask → List (Lanes W32) → State) : Out :=
  strandInstr i k none s fun x m =>
    if x.w.acc[k].tile.isSome then raisePlain s x (.strand k) cACCMODE
    else
      let core := x.w.core
      let fr : FragRef := ⟨core, x.w.slot, x.f.uid⟩
      let s1 := s.settleGate core
      let p := s1.pair core
      if p.waits.any fun v => v.frag == fr && v.pos == x.c.pos then s
      else if p.off then raisePlain s1 x (.strand k) cVGATED
      else if x.f.handler || !s1.holdsFifo x.w || !p.producer core then vxIllegal s1 x (.strand k)
      else
        let g := pushGroup x.w k t m
        if p.waits.isEmpty && s1.admits core g.length then yes s1 x m g
        else if !s1.sideLive (partnerCore core) then vxIllegal s1 x (.strand k)
        else no s1 x m g

/-- Admit a group. -/
def State.admitGroup (s : State) (core : Nat) (g : List (Lanes W32)) : State :=
  let p := s.pair core
  s.setPair core { p with fifo := p.fifo ++ g }

/-- VPUSH. -/
def execVpush (b : Bool) (a : Fin 8) (t : Ty) (s : State) : Out :=
  pushInstr (.vpush b a t) a t s
    (fun s x _ g => finishStrand (s.admitGroup x.w.core g) x.c x.w x.f a)
    (fun s x m g =>
      let p := s.pair x.w.core
      let v : VPush := { frag := ⟨x.w.core, x.w.slot, x.f.uid⟩, pos := x.c.pos, lanes := m, entries := g }
      let e := { x.f.pendAt x.c (.vpush b a t) with flight := m }
      put (s.setPair x.w.core { p with waits := p.waits ++ [v] }) x.w (x.f.setPend e))

/-- VPUSHN. -/
def execVpushn (b : Bool) (a : Fin 8) (d : Fin 8) (t : Ty) (s : State) : Out :=
  pushInstr (.vpushn b a d t) a t s
    (fun s x m g => finishStrand (s.admitGroup x.w.core g) x.c (x.w.writeP d m m) x.f a)
    (fun s x m _ => finishStrand s x.c (x.w.writeP d m 0) x.f a)

/-- VX_PUSH_ADMIT: the oldest waiting push is admitted, and its instruction completes. -/
def State.pushAdmit (s : State) (core : Nat) : Option State :=
  let p := s.pair core
  match p.waits with
  | [] => none
  | v :: rest =>
    if !s.admits core v.entries.length then none
    else
      let s1 := (s.setPair core { p with waits := rest }).admitGroup core v.entries
      match (s1.warp? v.frag.core v.frag.slot).bind fun w => (w.frag? v.frag.uid).map fun f => (w, f) with
      | none => some s1
      | some (w, f) =>
        match f.pend.find? fun e => e.pos == v.pos with
        | none => some s1
        | some e =>
          match e.instr.place with
          | .strand k => some (finishStrand s1 (pendCursor w f e) w f k)
          | _ => some s1

/-- VX_PUSH_ADMIT. -/
def execVxPushAdmit (pair : Fin 128) (s : State) : Out := event s (s.pushAdmit (2 * pair.val))

/-- The waiting pushes of a core that can be admitted are, at most n of them. -/
def State.pushAdmits (s : State) (core : Nat) : Nat → State
  | 0 => s
  | n + 1 =>
    match s.pushAdmit core with
    | some t => t.pushAdmits core n
    | none => s

/-- Waiting pushes whose consuming side holds no unretired warp of the gang any more: those that can be admitted are, in their order, and
the others take ILLSTATE (R339). -/
def State.settlePushes (s : State) (core : Nat) : State :=
  match (s.pair core).waits with
  | [] => s
  | v :: vs =>
    if s.sideLive (partnerCore v.frag.core) then s
    else
      let t := s.pushAdmits core (vs.length + 1)
      (t.pair core).waits.foldl (fun s v => s.stopPush v.frag v.pos cILLSTATE s.vxCfg) t

/-! ### Pops (R336) -/

/-- A pop of the core reached the engine earlier and still waits. -/
def State.popBefore (s : State) (x : Focus) (order : Nat) : Bool :=
  s.warps.any fun w => w.core == x.w.core && w.frags.any fun f => match f.status with
    | .waiting (.vertical o) => o < order && !(w.slot == x.w.slot && f.uid == x.f.uid)
    | _ => false

/-- VPOP writes the entries it takes. -/
def popWrite (w : Warp) (g : Fin 64) (t : Ty) (m : Mask) (e0 e1 : Lanes W32) : Warp :=
  (w.writeG t.is64 g m fun l => e0[l].setWidth 64 ||| (e1[l].setWidth 64 <<< 32)).setAllPresent m (gRegs t g)

/-- VPOP. -/
def execVpop (b : Bool) (g : Fin 64) (t : Ty) (s : State) : Out :=
  meetInstr (.vpop b g t) s fun x =>
    let core := x.w.core
    let p := s.pair core
    let n := if t.is64 then 2 else 1
    let order := match x.f.status with
      | .waiting (.vertical o) => o
      | _ => s.clock
    let wait := put s x.w { x.f with status := .waiting (.vertical order) }
    if x.f.handler || !s.holdsFifo x.w || p.producer core then vxIllegal s x .meeting
    else if s.popBefore x order then wait
    else match p.fifo with
      | e0 :: e1 :: rest =>
        if n == 1 then
          meetDone (s.setPair core { p with fifo := e1 :: rest }) x (popWrite x.w g t x.f.lanes e0 (Lanes.all 0))
        else meetDone (s.setPair core { p with fifo := rest }) x (popWrite x.w g t x.f.lanes e0 e1)
      | [e0] =>
        if n == 1 then
          meetDone (s.setPair core { p with fifo := [] }) x (popWrite x.w g t x.f.lanes e0 (Lanes.all 0))
        else if s.sideLive (partnerCore core) || !p.waits.isEmpty then wait
        else vxIllegal s x .meeting
      | [] => if s.sideLive (partnerCore core) || !p.waits.isEmpty then wait else vxIllegal s x .meeting

/-! ### VFREE (R343) -/

/-- VFREE. -/
def execVfree (b : Bool) (d : Fin 32) (s : State) : Out :=
  meetInstr (.vfree b d) s fun x => meetDone s x (x.w.writeS d (w64 (s.vxStat x.w)))

end Sys2Proof.Machine
end

