-- ==== Sys2Proof/Machine/Timeline.lean ====
section
/-!
DEFINITION. Timeline handles and counters (R21, R311, R353, R360), TLWAIT and TLREAD (R325).
-/

namespace Sys2Proof.Machine

open Sys2Proof

/-! ### Contexts and handles -/

/-- The handle's fields (R311). -/
def handleOf (kind die group context : Nat) : W64 :=
  w64 (kind * 2 ^ 60 + die * 2 ^ 22 + group * 2 ^ 16 + context)

/-- The launch of a gang. -/
def State.launchOfGang (s : State) (gang : Nat) : Option Launch :=
  (s.gang? gang).bind fun g => (s.level? g.level).bind fun d => s.launch? d.launch

/-- The launch belongs to an interface and an address space. -/
def Launch.of (l : Launch) (vi asid : Nat) : Bool := l.queue.vi == vi && l.asid == asid

/-- A registered queue. -/
def State.queue? (s : State) (vi q : Nat) : Option Queue := s.queues.find? fun k => k.vi == vi && k.q == q

/-- The context that a handle names for an address space of an interface; none where the handle is invalid (R311, R360). -/
def State.ctxNamed (s : State) (vi asid : Nat) (h : W64) : Option CtxName :=
  let ctx := bits h 15 0
  if bits h 59 24 != 0 || bits h 21 20 != 0 then none
  else match bits h 63 60 with
    | 1 =>
      (s.iface? vi).bind fun i => (i.packageDie (bits h 23 22)).bind fun d =>
        (i.packageCg d (bits h 19 16)).bind fun g =>
          (s.copyCtxs.find? fun c => c.cg == 16 * d + g && c.index == ctx
            && (s.launchOfGang c.gang).any fun l => l.of vi asid).map fun c => .copy c.gang
    | 2 =>
      if bits h 19 16 != 0 then none
      else (s.iface? vi).bind fun i => (i.packageDie (bits h 23 22)).bind fun d =>
        (s.collCtxs.find? fun c => c.die.val == d && c.index == ctx
          && (s.launch? c.launch).any fun l => l.of vi asid).map fun c => .coll c.launch c.die
    | 3 =>
      if bits h 23 16 != 0 || ctx / 1024 != 0 || ctx / 16 != vi then none
      else (s.queue? vi (ctx % 16)).bind fun q => if q.asid == asid then some (.queue vi q.q) else none
    | _ => none

/-- The counter of a context. -/
def State.counterOf (s : State) : CtxName → Option Nat
  | .copy g => (s.copyCtxs.find? fun c => c.gang == g).map fun c => c.counter
  | .coll l d => (s.collCtxs.find? fun c => c.launch == l && c.die == d).map fun c => c.counter
  | .queue vi q => (s.queue? vi q).map fun k => k.counter

/-- The context named by a warp's handle. -/
def State.warpCtx (s : State) (w : Warp) (h : W64) : Option CtxName :=
  (s.owner? w).bind fun o => s.ctxNamed o.launch.queue.vi o.launch.asid h

/-- COPY.CTX: the handle of a gang's copy context. -/
def State.copyHandle (s : State) (gang : Nat) : W64 :=
  match s.copyCtxs.find? fun c => c.gang == gang with
  | none => 0
  | some c =>
    match (s.launchOfGang gang).bind fun l => s.iface? l.queue.vi with
    | none => 0
    | some i =>
      let d := c.cg / 16
      handleOf 1 ((i.logicalDie d).getD 0) ((i.logicalCg d (c.cg % 16)).getD 0) c.index

/-- COLL.CTX: the handle of a grid's collective context on a die. -/
def State.collHandle (s : State) (launch : Nat) (die : Fin 4) : W64 :=
  match s.collCtxs.find? fun c => c.launch == launch && c.die == die with
  | none => 0
  | some c =>
    match (s.launch? launch).bind fun l => s.iface? l.queue.vi with
    | none => 0
    | some i => handleOf 2 ((i.logicalDie die.val).getD 0) 0 c.index

/-- The handle of a queue (R360). -/
def queueHandle (vi q : Nat) : W64 := handleOf 3 0 0 (16 * vi + q)

/-- The counter after operation n has completed, with the numbers completed above it (R21). -/
def advance (counter : Nat) (done : List Nat) (n : Nat) : Nat × List Nat :=
  let ds := n :: done
  let top := ds.foldl (fun c _ => if ds.contains (c + 1) then c + 1 else c) counter
  (top, ds.filter fun d => d > top)

/-- The counter of a context that is resident, else as it was saved with its unit. -/
def State.lastCounter (s : State) (c : CtxName) : Nat :=
  let saved := fun (u : SavedUnit) => match c with
    | .copy g => (u.ctxs.find? fun x => x.gang == g).map fun x => x.counter
    | .coll l d => (u.collCtxs.find? fun x => x.launch == l && x.die == d).map fun x => x.counter
    | .queue _ _ => none
  ((s.counterOf c) <|> s.saved.findSome? saved).getD 0

/-- The contexts that stand under a launch's name: those of its gangs and its collective contexts, saved ones included. -/
def State.ctxsOf (s : State) (lid : Nat) : List CtxName :=
  let gangs := (s.saved.filter fun u => u.launch == lid).flatMap fun u => u.ctxs.map fun c => CtxName.copy c.gang
  let colls := (s.collCtxs ++ s.saved.flatMap fun u => u.collCtxs).filter fun c => c.launch == lid
  gangs ++ (colls.map fun c => CtxName.coll lid c.die).eraseDups

/-- A TLWAIT that waits on a context when it is released: one whose value has been reached completes with the final value, another takes
ILLSTATE (R325). -/
def State.endWait (final : Nat) (s : State) (r : FragRef) : State :=
  match (s.warp? r.core r.slot).bind fun w => (w.frag? r.uid).map fun f => (w, f) with
  | none => s
  | some (w, f) =>
    match f.status with
    | .waiting (.timeline _ v d after) =>
      if v.toNat ≤ final then
        put s (w.writeS d (w64 final)) { f.atFence after with status := .ready, runLen := 0, age := s.clock }
      else
        s.stopWith w { f with status := .ready } ((lanesOf f.lanes).map fun l => (l, cILLSTATE, w64 final)) .meeting
          RaiseInfo.plain
    | _ => s

/-- A context is released: every TLWAIT waiting on it ends (R325). -/
def State.releaseWaits (s : State) (c : CtxName) : State :=
  let waits := s.warps.flatMap fun w => w.frags.filterMap fun f => match f.status with
    | .waiting (.timeline k _ _ _) => if k == c then some (⟨w.core, w.slot, f.uid⟩ : FragRef) else none
    | _ => none
  waits.foldl (State.endWait (s.lastCounter c)) s

/-! ### TLWAIT and TLREAD (R325) -/

/-- An invalid handle (R325). -/
def badHandle (s : State) (x : Focus) (h : W64) : State :=
  raiseAll s x .meeting cPERMISSION (fun _ => h) RaiseInfo.plain

/-- TLWAIT: handle and value are read when it begins to wait. A wait goes on while its context is saved with its unit. -/
def execTlwait (b : Bool) (d h v : Fin 32) (s : State) : Out :=
  meetInstr (.tlwait b d h v) s fun x =>
    let begun : Option (CtxName × W64) := match x.f.status with
      | .waiting (.timeline k n _ _) => some (k, n)
      | _ => none
    match (match begun with
      | some e => some e
      | none => (s.warpCtx x.w x.w.s[h]).map fun k => (k, x.w.s[v])) with
    | none => badHandle s x x.w.s[h]
    | some (k, n) =>
      match s.counterOf k with
      | some m =>
        if n.toNat ≤ m then meetDone s x (x.w.writeS d (w64 m))
        else put s x.w { x.f with status := .waiting (.timeline k n d x.c.next) }
      | none => put s x.w { x.f with status := .waiting (.timeline k n d x.c.next) }

/-- TLREAD. -/
def execTlread (b : Bool) (d h : Fin 32) (s : State) : Out :=
  meetInstr (.tlread b d h) s fun x =>
    match (s.warpCtx x.w x.w.s[h]).bind s.counterOf with
    | none => badHandle s x x.w.s[h]
    | some n => meetDone s x (x.w.writeS d (w64 n))

end Sys2Proof.Machine
end

