-- ==== Sys2Proof/Machine/Copy.lean ====
section
/-!
DEFINITION. The copy engine (R310-R329): submission, tags, barrier objects, and the performance of operations.
-/

namespace Sys2Proof.Machine

open Sys2Proof

/-! ### Contexts and tags (R310, R319) -/

/-- The copy context of a gang. -/
def State.copyCtx? (s : State) (gang : Nat) : Option CopyCtx := s.copyCtxs.find? fun c => c.gang == gang

/-- Replace the copy context of a gang. -/
def State.setCopyCtx (s : State) (c : CopyCtx) : State :=
  { s with copyCtxs := replaceAll (fun k => k.gang == c.gang) (fun _ => c) s.copyCtxs }

/-- A tag of a block; one that nothing has used counts nothing. -/
def State.tag (s : State) (block : Nat) (k : Fin 64) : Tag :=
  (s.tags.find? fun t => t.block == block && t.name == k).getD { block := block, name := k, count := 0, err := 0 }

/-- Replace a tag. -/
def State.setTag (s : State) (t : Tag) : State :=
  { s with tags := t :: s.tags.filter fun u => !(u.block == t.block && u.name == t.name) }

/-- Error code and address in the layout of COPY.TAG and COPY.CTXERR (R327). -/
def errWord (code : Nat) (addr : W64) : W64 := w64 (code * 2 ^ 57 + addr.toNat % 2 ^ 57)

/-- An operation completes (R318, R319): its error is recorded where none stands, its tag counts one less, and the counter
advances. -/
def State.copyDone (s : State) (o : CopyOpn) : State :=
  let t := s.tag o.block o.tag
  let e := errWord o.code o.errAddr
  let s1 := s.setTag { t with count := t.count - 1, err := if o.code != 0 && t.err == 0 then e else t.err }
  let s2 := { s1 with copyOps := s1.copyOps.filter fun p => p.id != o.id }
  match s2.copyCtx? o.gang with
  | none => s2
  | some c =>
    let a := advance c.counter c.done o.num
    s2.setCopyCtx { c with counter := a.1, done := a.2, err := if o.code != 0 && c.err == 0 then e else c.err }

/-! ### Descriptors (R312-R316) -/

/-- Fields of the descriptor (R313). -/
def descDsp (d : W64) : Bool := d.getLsbD 61
def descFsp (d : W64) : Bool := d.getLsbD 60
def descRmask (d : W64) : Nat := bits d 59 56
def descBo (d : W64) : Nat := bits d 55 32
def descLen (d : W64) : Nat := bits d 31 0

/-- The list word of GATH and SCAT. -/
def CopyKind.list? : CopyKind → Option W64
  | .gath l | .scat l => some l
  | _ => none

/-- Fields of the list word (R316). -/
def listIdx (l : W64) : Nat := bits l 23 0
def listRows (l : W64) : Nat := bits l 39 24 + 1

/-- The descriptor breaks R313 to R316: error code 9. (DESIGN CHOICE, log 11.) -/
def CopyOpn.refused (o : CopyOpn) : Bool :=
  let d := o.desc
  bits d 63 62 != 0 || (o.kind != .copym && descRmask d != 0) || (!o.bo && descBo d != 0) || (o.bo && !descDsp d)
    || (o.kind == .copym && !descDsp d)
    || (match o.kind.list? with
      | none => false
      | some l => bits l 63 40 != 0 || listIdx l % 4 != 0 || descLen d == 0 || descLen d > 65536)

/-- An operation with nothing to move. -/
def CopyOpn.empty (o : CopyOpn) : Bool :=
  match o.kind with
  | .copy => descLen o.desc == 0
  | .copym => descLen o.desc == 0 || descRmask o.desc == 0
  | _ => false

/-- ILLSTATE of a tag name the block does not hold (R312). -/
def State.tagBad (s : State) (w : Warp) (k : Fin 64) : Bool := (s.block? w.block).all fun b => b.tags ≤ k.val

/-- ILLSTATE with the tag's number. -/
def tagIllegal (s : State) (x : Focus) (k : Fin 64) : State := illState s x (w32 k.val)

/-- A free value for an address the spec does not give. -/
def State.freeAddr (s : State) : W64 := w64 (leNat (freeBytes s.freeIndex 8))

/-! ### Tags (R319, R320) -/

/-- TAGWAIT. -/
def execTagwait (b : Bool) (d : Fin 32) (k : Fin 64) (s : State) : Out :=
  meetInstr (.tagwait b d k) s fun x =>
    if s.tagBad x.w k then tagIllegal s x k
    else if (s.tag x.w.block k).count != 0 then waitRetry s x
    else meetDone s x (x.w.writeS d (s.tag x.w.block k).err)

/-- TAGFIRST: 64 where no tag of the mask has a zero count. (DEDUCED, log 12.) -/
def execTagfirst (b : Bool) (d m : Fin 32) (s : State) : Out :=
  meetInstr (.tagfirst b d m) s fun x =>
    let held := ((s.block? x.w.block).map fun b => b.tags).getD 0
    let r := (List.finRange 64).find? fun k =>
      k.val < held && (x.w.s[m]).getLsbD k.val && (s.tag x.w.block k).count == 0
    meetDone s x (x.w.writeS d (w64 ((r.map Fin.val).getD 64)))

/-- TAGCLR. -/
def execTagclr (b : Bool) (k : Fin 64) (s : State) : Out :=
  meetInstr (.tagclr b k) s fun x =>
    if s.tagBad x.w k then tagIllegal s x k
    else meetDone (s.setTag { s.tag x.w.block k with err := 0 }) x x.w

/-! ### Barrier objects (R321-R324) -/

/-- An object word from its fields. -/
def objWord (phase err : Bool) (count pend bytes : Nat) : Nat :=
  b2n phase * 2 ^ 63 + b2n err * 2 ^ 62 + count * 2 ^ 47 + pend * 2 ^ 32 + bytes

/-- The word after a step: where PEND and BYTES are zero the phase completes (R322). -/
def objSettle (phase err : Bool) (count pend bytes : Nat) : Nat :=
  if pend == 0 && bytes == 0 then objWord (!phase) err count count 0 else objWord phase err count pend bytes

/-- Fields of the object word. -/
def objPhase (w : Nat) : Bool := w.testBit 63
def objErr (w : Nat) : Bool := w.testBit 62
def objCount (w : Nat) : Nat := w / 2 ^ 47 % 2 ^ 15
def objPend (w : Nat) : Nat := w / 2 ^ 32 % 2 ^ 15
def objBytes (w : Nat) : Nat := w % 2 ^ 32

/-- BOINIT's word. -/
def objInit (c : Nat) : Nat := let n := max 1 (c % 2 ^ 15); objWord false false n n 0

/-- BOEXP's step. -/
def objExpect (w b : Nat) (na : Bool) : Nat :=
  objSettle (objPhase w) (objErr w) (objCount w) (if na then objPend w else (objPend w + 2 ^ 15 - 1) % 2 ^ 15)
    ((objBytes w + b) % 2 ^ 32)

/-- A landing of m bytes, with ERR where the operation stopped (R318). -/
def objLand (w m : Nat) (err : Bool) : Nat :=
  objSettle (objPhase w) (objErr w || err) (objCount w) (objPend w) ((objBytes w + 2 ^ 32 - m % 2 ^ 32) % 2 ^ 32)

/-- A location in global memory. -/
def isGlobal : Loc → Bool
  | .glob _ => true
  | _ => false

/-- An access to the object at s[A] (R324): causes in every lane, else `k` with the word and a way to write it. MEMERR is a cause of an
object in global memory only; one in a bank reads as it stands. (DEDUCED, log 52.) -/
def objInstr (s : State) (x : Focus) (addr : W64) (kind : XKind) (k : State → Nat → (Nat → State) → State) : State :=
  let raise := fun c (a : W64) => raiseAll s x .meeting c (fun _ => a) { RaiseInfo.plain with write := kind.writes }
  match s.resolveLane x.w true addr 8 true with
  | .error (c, a) => raise c a
  | .ok (.fifo _ _ _) => raise cSPFAULT addr
  | .ok .switching => waitRetry s x
  | .ok loc =>
    let ag := s.agentOf x.w x.f.lanes
    let a := faultAddr true addr loc
    let home := s.homeDie ag loc
    if (match loc with
      | .glob va => s.stntOver ag va 8
      | _ => false) then waitRetry s x
    else if !s.serves ag.die.val home then
      (if home != ag.die.val && s.time ≥ outSince s x + s.ackNs then raise cACKLOST a else waitOut s x)
    else match s.placesOf ag kind s.choice.stale loc 8 with
      | .error c => raise c a
      | .ok pxs =>
        let ps := pxs.map Prod.fst
        let used := s.useAll ag kind pxs
        let raised := fun c => raiseAll used x .meeting c (fun _ => a) { RaiseInfo.plain with write := kind.writes }
        if isGlobal loc && ps.any s.badUnit then raised cMEMERR
        else
          let s0 := used.settleE ag.die (if kind == .read then [] else ps)
          let r := s0.bytesAt ag ps
          k r.2 (leNat r.1) fun v => r.2.putBytes ag.asid ps (leBytes 8 v)

/-- BOINIT. -/
def execBoinit (b : Bool) (a c : Fin 32) (s : State) : Out :=
  meetInstr (.boinit b a c) s fun x =>
    objInstr s x x.w.s[a] .write fun _ _ wr => meetDone (wr (objInit (x.w.s[c]).toNat)) x x.w

/-- BOEXP. -/
def execBoexp (b : Bool) (a c : Fin 32) (na : Bool) (s : State) : Out :=
  meetInstr (.boexp b a c na) s fun x =>
    objInstr s x x.w.s[a] .atom fun _ w wr =>
      if !na && objPend w == 0 then raisePlain s x .meeting cILLSTATE
      else meetDone (wr (objExpect w (bits x.w.s[c] 31 0) na)) x x.w

/-- BOWAIT. -/
def execBowait (b : Bool) (d a : Fin 32) (n : Bool) (s : State) : Out :=
  meetInstr (.bowait b d a n) s fun x =>
    objInstr s x x.w.s[a] .read fun s1 w _ =>
      if objPhase w != n then meetDone s1 x (x.w.writeS d (w64 w)) else waitRetry s1 x

/-! ### Performing an operation (R317, R318) -/

/-- An endpoint. -/
inductive Ep where
  | glob (va : Nat)
  | bank (core : Nat) (bank : Fin 12) (off : Nat)
  deriving DecidableEq, Repr

/-- An endpoint further on; global addresses run modulo 2^64. -/
def Ep.plus : Ep → Nat → Ep
  | .glob va, k => .glob ((va + k) % 2 ^ 64)
  | .bank c b o, k => .bank c b (o + k)

/-- The agent of an operation: the engine reads and writes for the launch, on its die. -/
def State.copyAgent (s : State) (o : CopyOpn) : Agent :=
  match (s.gang? o.gang).bind fun g => (s.level? g.level).bind fun d => (s.launch? d.launch).map fun l => (d, l) with
  | some (d, l) =>
    { die := d.die, asid := l.asid, who := none
      pool := if l.poolMiB == 0 then none else some (d.id, l.poolBase, l.poolMiB * 2 ^ 20) }
  | none => { die := dieOfCore o.warp.core, asid := 0, pool := none, who := none }

/-- The interface of an operation. -/
def State.copyVi (s : State) (o : CopyOpn) : Nat := ((s.launchOfGang o.gang).map fun l => l.queue.vi).getD 0

/-- Where an endpoint is: an unresolvable one gives error code 6, and one in a bank whose mode is changing waits for the change (R246). -/
inductive EpAt where
  | ep (e : Ep)
  | wait
  | bad
  deriving DecidableEq, Repr

/-- Where n bytes of an endpoint are (R317). -/
def State.endpoint (s : State) (o : CopyOpn) (sp : Bool) (a n : Nat) : EpAt :=
  if !sp then .ep (.glob a)
  else
    match s.block? o.block with
    | none => .bad
    | some blk =>
      match s.spResolve o.warp.core blk (s.copyVi o) o.windows (w64 a) n with
      | some (.glob va) => .ep (.glob va)
      | some (.bank c b off) => .ep (.bank c b off)
      | some .switching => .wait
      | _ => .bad

/-- Copy error codes of causes (R318). -/
def copyCode (c : Nat) : Nat :=
  if c == cTRANSLATION then 1 else if c == cPLACEMENT then 2 else if c == cPERMSWAP then 3
  else if c == cPERMISSION then 4 else if c == cNONCANON then 5 else if c == cMEMERR then 7 else 8

/-- A transfer: source, destinations, bytes. -/
structure Transfer where
  src : Nat
  dsts : List Nat
  n : Nat
  deriving DecidableEq, Repr

/-- What an operation has gathered: state with the translations used, bytes for their places, an error, the bytes whose
acknowledgement is lost, and whether it waits. -/
structure CopyRun where
  s : State
  plan : List (Phys × Byte)
  err : Option (Nat × Nat)
  lost : List (Nat × Byte)
  wait : Bool

/-- An error ends the run. -/
def CopyRun.fail (r : CopyRun) (code addr : Nat) : CopyRun := { r with err := some (code, addr) }

/-- Places of a part of an endpoint within one page, or why not. -/
def State.epPlaces (s : State) (ag : Agent) (kind : XKind) (late : Bool) (e : Ep) (n : Nat) :
    Except Stop (List Phys × Option (Nat × Xlate)) :=
  match e with
  | .glob va => s.partAt ag kind late va n
  | .bank c b o =>
    let ps := (List.range n).map fun k => Phys.bank c b (o + k)
    match ps.findIdx? s.badUnit with
    | some k => if kind == .read then .error (.cause cMEMERR k) else .ok (ps, none)
    | none => .ok (ps, none)

/-- Package addresses of a part of an endpoint by the tables, whether or not its home is in reach. -/
def State.epPas (s : State) (ag : Agent) (e : Ep) (n : Nat) : List Nat :=
  match e with
  | .glob va => s.pasOf ag .write va n
  | .bank _ _ _ => []

/-- The bytes of an endpoint up to the end of its page. -/
def Ep.room : Ep → Nat
  | .glob va => 2 ^ 16 - va % 2 ^ 16
  | .bank _ _ o => 2 ^ 16 - o % 2 ^ 16

/-- The address an error arises at: the endpoint's, or within a bank its scratchpad address. -/
def errAt (e : Ep) (spAddr k a : Nat) : Nat :=
  match e with
  | .glob _ => a
  | .bank _ _ _ => spAddr + k + a

/-- One part of a transfer, k bytes from its start. -/
def CopyRun.part (ag : Agent) (late : Bool) (t : Transfer) (src : Ep) (dsts : List (Nat × Ep)) (r : CopyRun)
    (k n : Nat) : CopyRun :=
  match r.s.epPlaces ag .read late (src.plus k) n with
  | .error .wait | .error .out => { r with wait := true }
  | .error (.cause c a) => r.fail (copyCode c) (errAt src t.src k a)
  | .ok (ps, x) =>
    let (bs, s1) := (r.s.usePart ag .read x).bytesAt ag ps
    dsts.foldl (fun r d =>
      if r.err.isSome || r.wait then r
      else match r.s.epPlaces ag .write late (d.2.plus k) n with
        | .error .wait | .error .out => { r with wait := true }
        | .error (.cause c a) =>
          { r.fail (copyCode c) (errAt d.2 d.1 k a) with
            lost := if c == cACKLOST then (r.s.epPas ag (d.2.plus k) n).zip bs else [] }
        | .ok (qs, y) =>
          { r with s := (r.s.usePart ag .write y).settleE ag.die qs, plan := r.plan ++ qs.zip bs }) { r with s := s1 }

/-- The parts of a transfer, each within one page of every endpoint. -/
def CopyRun.parts (ag : Agent) (late : Bool) (t : Transfer) (src : Ep) (dsts : List (Nat × Ep)) :
    Nat → CopyRun → Nat → CopyRun
  | 0, r, _ => r
  | fuel + 1, r, k =>
    if k ≥ t.n || r.err.isSome || r.wait then r
    else
      let room := dsts.foldl (fun m d => min m (d.2.plus k).room) (src.plus k).room
      let n := min room (t.n - k)
      CopyRun.parts ag late t src dsts fuel (r.part ag late t src dsts k n) (k + n)

/-- The endpoints of a transfer's destinations, or where one does not resolve its address, none where one must wait. -/
def State.dstEps (s : State) (o : CopyOpn) (n : Nat) : List Nat → Except (Option Nat) (List (Nat × Ep))
  | [] => .ok []
  | a :: as =>
    match s.endpoint o (descDsp o.desc) a n with
    | .bad => .error (some a)
    | .wait => .error none
    | .ep e =>
      match s.dstEps o n as with
      | .error x => .error x
      | .ok es => .ok ((a, e) :: es)

/-- One transfer. -/
def CopyRun.transfer (o : CopyOpn) (ag : Agent) (late : Bool) (r : CopyRun) (t : Transfer) : CopyRun :=
  if r.err.isSome || r.wait then r
  else match r.s.endpoint o (descFsp o.desc) t.src t.n, r.s.dstEps o t.n t.dsts with
    | .bad, _ => r.fail 6 t.src
    | _, .error (some a) => r.fail 6 a
    | .wait, _ | _, .error none => { r with wait := true }
    | .ep src, .ok dsts => CopyRun.parts ag late t src dsts (4 * (t.n / 2 ^ 16 + 2)) r 0

/-- s[D] with its RANK field replaced (R315, R237). -/
def withRank (a n : Nat) : Nat := a / 2 ^ 22 * 2 ^ 22 + n * 2 ^ 20 + a % 2 ^ 20

/-- The ranks of RMASK. -/
def CopyOpn.ranks (o : CopyOpn) : List Nat := (List.range 4).filter fun n => (descRmask o.desc).testBit n

/-- The index list of GATH and SCAT: an error, a wait, or the indices (R316). -/
def State.copyIndices (s : State) (o : CopyOpn) (ag : Agent) (late : Bool) (l : W64) :
    Except Stop (Except (Nat × Nat) (List Nat × State)) :=
  let n := 4 * listRows l
  let words := fun (bs : List Byte) => (List.range (listRows l)).map fun i => leNat ((bs.drop (4 * i)).take 4)
  match s.endpoint o true (listIdx l) n with
  | .bad => .ok (.error (6, listIdx l))
  | .wait => .error .wait
  | .ep (.glob va) =>
    match s.agRead ag late va n with
    | .error .wait => .error .wait
    | .error .out => .error .out
    | .error (.cause c a) => .ok (.error (copyCode c, a))
    | .ok (bs, s1) => .ok (.ok (words bs, s1))
  | .ep (.bank c b off) =>
    let ps := (List.range n).map fun k => Phys.bank c b (off + k)
    match ps.findIdx? s.badUnit with
    | some k => .ok (.error (7, listIdx l + k))
    | none => let r := s.bytesAt ag ps; .ok (.ok (words r.1, r.2))

/-- The transfers of an operation, its index list read. -/
def CopyOpn.transfers (o : CopyOpn) (xs : List Nat) : List Transfer :=
  let n := descLen o.desc
  let d := o.dst.toNat
  let f := o.src.toNat
  let at_ := fun a k => (a + k) % 2 ^ 64
  match o.kind with
  | .copy => [⟨f, [d], n⟩]
  | .copym => [⟨f, o.ranks.map (withRank d), n⟩]
  | .gath _ => xs.zipIdx.map fun x => ⟨at_ f (x.1 * n), [at_ d (x.2 * n)], n⟩
  | .scat _ => xs.zipIdx.map fun x => ⟨at_ f (x.2 * n), [at_ d (x.1 * n)], n⟩

/-- The objects an operation counts on, with the bytes it lands on each (R314-R316, R322). -/
def CopyOpn.objects (o : CopyOpn) : List (W64 × Nat) :=
  let n := descLen o.desc
  let a := descBo o.desc
  if !o.bo then []
  else match o.kind with
    | .copy => [(w64 a, n)]
    | .copym => o.ranks.map fun k => (w64 (withRank a k), n)
    | .gath l | .scat l => [(w64 a, n * listRows l)]

/-- The places of an object, or the address that code 10 reports; none while its home is out of reach. -/
def State.objPlaces (s : State) (o : CopyOpn) (late : Bool) (a : W64) : Except Stop (List Phys × Option (Nat × Xlate)) :=
  let ag := s.copyAgent o
  if a.toNat % 8 != 0 then .error (.cause cMISALIGNED a.toNat)
  else match s.endpoint o true a.toNat 8 with
    | .bad => .error (.cause cSPFAULT a.toNat)
    | .wait => .error .wait
    | .ep (.glob va) => if va % 8 != 0 then .error (.cause cMISALIGNED va) else s.partAt ag .atom late va 8
    | .ep (.bank c b off) => .ok ((List.range 8).map fun k => Phys.bank c b (off + k), none)

/-- A landing step on an object; none where its update meets a fault. -/
def State.landOn (s : State) (o : CopyOpn) (a : W64) (m : Nat) (err : Bool) : Except Stop State :=
  let ag := s.copyAgent o
  match s.objPlaces o (o.since.any fun t => s.time ≥ t + s.ackNs) a with
  | .error e => .error e
  | .ok (ps, x) =>
    let r := ((s.usePart ag .atom x).settleE ag.die ps).bytesAt ag ps
    .ok (r.2.putBytes ag.asid ps (leBytes 8 (objLand (leNat r.1) m err)))

/-- Replace an operation. -/
def State.setCopyOp (s : State) (o : CopyOpn) : State :=
  { s with copyOps := replaceAll (fun p => p.id == o.id) (fun _ => o) s.copyOps }

/-- Some subset of a plan is written: the free values say which bytes (R318). -/
def State.putSome (s : State) (asid : Nat) (plan : List (Phys × Byte)) : State :=
  let kept := (plan.zipIdx.filter fun x => Config.partialWrite s.freeIndex x.2).map Prod.fst
  (s.putBytes asid (kept.map Prod.fst) (kept.map Prod.snd)).nextFree

/-- The operation stops with an error (R318): a subset of its bytes is written, bytes whose acknowledgement is lost are indeterminate,
and its objects are still to take ERR and the bytes not landed; code 10 leaves them alone. -/
def State.copyFail (s : State) (o : CopyOpn) (ag : Agent) (plan : List (Phys × Byte)) (lost : List (Nat × Byte)) (code addr : Nat) :
    State :=
  let s1 := if plan.isEmpty then s else s.putSome ag.asid plan
  let s2 := if lost.isEmpty then s1 else s1.makeIndet (lost.map fun x => ⟨x.1, x.2, o.id⟩)
  s2.setCopyOp
    { o with performed := true, code := code, errAddr := w64 addr, since := none, land := if code == 10 then [] else o.objects }

/-- The objects of an operation, in order: the first that cannot be updated. -/
def State.badObject (s : State) (o : CopyOpn) (late : Bool) : Option Stop :=
  (o.objects.filterMap fun x => match s.objPlaces o late x.1 with
    | .error e => some e
    | .ok _ => none).head?

/-- The bytes that an operation writes: undefined ones where it breaks R317 (R8). -/
def State.copyBytes (s : State) (o : CopyOpn) (plan : List (Phys × Byte)) : List (Phys × Byte) :=
  if o.free then plan.zipIdx.map fun x => (x.1.1, Config.freeByte s.freeIndex x.2) else plan

/-- The operation is performed: all its reads, then all its writes; where its destination overlaps its own source or another operation in
flight, what it writes is a free value (R8). (DESIGN CHOICE, log 13.) -/
def State.performCopy (s : State) (o : CopyOpn) : State :=
  let ag := s.copyAgent o
  let late := o.since.any fun t => s.time ≥ t + s.ackNs
  let hold := s.setCopyOp { o with since := some (o.since.getD s.time) }
  let idx : Except Stop (Except (Nat × Nat) (List Nat × State)) := match o.kind.list? with
    | none => .ok (.ok ([], s))
    | some l => s.copyIndices o ag late l
  match idx with
  | .error _ => hold
  | .ok (.error e) => s.copyFail o ag [] [] e.1 e.2
  | .ok (.ok (xs, s0)) =>
    let r := (o.transfers xs).foldl (CopyRun.transfer o ag late) ⟨s0, [], none, [], false⟩
    let plan := r.s.copyBytes o r.plan
    let s1 := if o.free then r.s.nextFree else r.s
    match s.badObject o late with
    | some (.cause _ a) => s1.copyFail o ag plan [] 10 a
    | some _ => hold
    | none =>
      if r.wait then hold
      else match r.err with
        | some e => s1.copyFail o ag plan r.lost e.1 e.2
        | none =>
          (s1.putBytes ag.asid (plan.map Prod.fst) (plan.map Prod.snd)).setCopyOp
            { o with performed := true, land := o.objects, since := none }

/-- An operation by its identity. -/
def State.copyOp? (s : State) (id : Nat) : Option CopyOpn := s.copyOps.find? fun o => o.id == id

/-- The engine works on the eight oldest operations of a context (R317). -/
def State.copyActive (s : State) (o : CopyOpn) : Bool :=
  (s.copyOps.filter fun p => p.gang == o.gang && p.num < o.num).length < 8

/-- COPY_OP_PERFORM. -/
def State.copyPerform (s : State) (id : Nat) : Option State :=
  match s.copyOp? id with
  | none => none
  | some o =>
    if o.performed || !s.copyActive o then none
    else
      let t := s.performCopy o
      if t.copyOp? id == some o then none else some t

/-- COPY_OP_PERFORM. -/
def execCopyOpPerform (op : Nat) (s : State) : Out := event s (s.copyPerform op)

/-- BO_LANDING (R322): some of the bytes of a performed operation land on one of its objects, with ERR where it stopped (R318). -/
def State.boLanding (s : State) (id obj m : Nat) : Option State :=
  match s.copyOp? id with
  | none => none
  | some o =>
    match o.land[obj]? with
    | none => none
    | some (a, n) =>
      if m > n || (m == 0 && n != 0) then none
      else
        let left := if m == n then o.land.eraseIdx obj else o.land.set obj (a, n - m)
        match s.landOn o a m (o.code != 0) with
        | .ok s1 => some (s1.setCopyOp { o with land := left, since := none })
        | .error (.cause _ e) =>
          some (s.setCopyOp
            { o with land := if o.code == 0 then [] else o.land.eraseIdx obj
                     code := if o.code == 0 then 10 else o.code
                     errAddr := if o.code == 0 then w64 e else o.errAddr })
        | .error _ => if o.since.isSome then none else some (s.setCopyOp { o with since := some s.time })

/-- BO_LANDING. -/
def execBoLanding (op obj : Nat) (bytes : BitVec 32) (s : State) : Out := event s (s.boLanding op obj bytes.toNat)

/-! ### Submission (R312-R318) -/

/-- The endpoints of an operation with their lengths: its sources, and its destinations. -/
def State.copySpans (s : State) (o : CopyOpn) : List (Ep × Nat) × List (Ep × Nat) :=
  let ag := s.copyAgent o
  let xs := match o.kind.list? with
    | none => []
    | some l => match s.copyIndices o ag false l with
      | .ok (.ok (xs, _)) => xs
      | _ => []
  let ep := fun sp a n => match s.endpoint o sp a n with
    | .ep e => [(e, n)]
    | _ => []
  let ts := o.transfers xs
  (ts.flatMap fun t => ep (descFsp o.desc) t.src t.n, ts.flatMap fun t => t.dsts.flatMap fun d => ep (descDsp o.desc) d t.n)

/-- Two endpoints have a byte in common. -/
def epsMeet (a b : Ep × Nat) : Bool :=
  match a.1, b.1 with
  | .glob x, .glob y => rangesMeet x a.2 y b.2
  | .bank c k x, .bank d l y => c == d && k == l && rangesMeet x a.2 y b.2
  | _, _ => false

/-- Some byte is common to two lists of endpoints. -/
def spansMeet (xs ys : List (Ep × Nat)) : Bool := xs.any fun x => ys.any (epsMeet x)

/-! ### The collective operations in flight (R354, R355) -/

/-- A field of the 64-byte record. -/
def collField (r : BitVec 512) (lo n : Nat) : Nat := r.toNat / 2 ^ (8 * lo) % 2 ^ (8 * n)

/-- Fields of the collective record (R354). -/
def collKind (r : BitVec 512) : Nat := collField r 0 1
def collOpc (r : BitVec 512) : Nat := collField r 1 1
def collType (r : BitVec 512) : Nat := collField r 2 1
def collN (r : BitVec 512) : Nat := collField r 3 1 + 1
def collRank (r : BitVec 512) : Nat := collField r 4 1
def collRoot (r : BitVec 512) : Nat := collField r 5 1
def collSrc (r : BitVec 512) : Nat := collField r 8 8
def collDst (r : BitVec 512) : Nat := collField r 16 8
def collCount (r : BitVec 512) : Nat := collField r 24 8
def collKey (r : BitVec 512) : W64 := w64 (collField r 32 8)
def collPeers (r : BitVec 512) : Nat := collField r 40 8

/-- Bytes of an element. -/
def collSize (r : BitVec 512) : Nat := (Ty.ofCode (collType r)).width / 8

/-- Elements of SRC and DST (R355). -/
def collSrcLen (r : BitVec 512) : Nat :=
  match collKind r with
  | 1 => collN r * collCount r
  | 3 => if collRank r == collRoot r then collCount r else 0
  | _ => collCount r
def collDstLen (r : BitVec 512) : Nat := if collKind r == 2 then collN r * collCount r else collCount r

/-- The source and the destination of a collective operation. -/
def CollOpn.spans (o : CollOpn) : List (Ep × Nat) × List (Ep × Nat) :=
  ([(.glob (collSrc o.record), collSrcLen o.record * collSize o.record)],
    [(.glob (collDst o.record), collDstLen o.record * collSize o.record)])

/-- The destinations of two operations of one address space have a byte in common. -/
def State.hitBy (s : State) (o p : CopyOpn) : Bool :=
  (s.copyAgent p).asid == (s.copyAgent o).asid && spansMeet (s.copySpans p).2 (s.copySpans o).2

/-- The destination overlaps the operation's own source, or the bytes of another operation in flight (R317). -/
def State.breaches (s : State) (o : CopyOpn) : Bool :=
  let me := s.copySpans o
  spansMeet me.2 me.1 || (s.copyOps.any fun p =>
    let it := s.copySpans p
    (s.copyAgent p).asid == (s.copyAgent o).asid && spansMeet me.2 (it.1 ++ it.2)) || (s.collOps.any fun p =>
    p.asid == (s.copyAgent o).asid && spansMeet me.2 (p.spans.1 ++ p.spans.2))

/-- The landings of an operation that stopped, as far as its objects can be reached (R318). -/
def State.landErr (s : State) (o : CopyOpn) : State :=
  (List.range o.land.length).foldl (fun s k =>
    match o.land[o.land.length - 1 - k]? with
    | some (_, n) => (s.boLanding o.id (o.land.length - 1 - k) n).getD s
    | none => s) s

/-- Put a new operation into the context (R312). One whose descriptor is refused, or that moves nothing, completes at
once; no address goes with a refused descriptor, and the objects it counts on take ERR (R318). -/
def State.submitCopy (s : State) (o : CopyOpn) : State :=
  let t := s.tag o.block o.tag
  let s1 := s.setTag { t with count := t.count + 1 }
  let bad := !o.refused && !o.empty && s.breaches o
  let ops := if bad then s1.copyOps.map fun p => if s.hitBy o p then { p with free := true } else p else s1.copyOps
  let s2 := { s1 with nextId := s1.nextId + 1, copyOps := ops ++ [{ o with free := bad }] }
  if o.refused then
    let r := { o with code := 9, errAddr := s2.freeAddr, performed := true, land := o.objects }
    let s3 := (s2.nextFree.setCopyOp r).landErr r
    match s3.copyOp? o.id with
    | some p => if p.land.isEmpty then s3.copyDone p else s3
    | none => s3
  else if o.empty then s2.copyDone o
  else s2

/-- COPY, COPYM, GATH, SCAT. -/
def copyInstr (i : Instr) (o : CopyOp) (kind : Focus → CopyKind) (s : State) : Out :=
  meetInstr i s fun x =>
    if s.tagBad x.w o.k then tagIllegal s x o.k
    else match s.block? x.w.block with
      | none => tagIllegal s x o.k
      | some blk =>
        if (s.copyOps.filter fun p => p.gang == blk.gang).length ≥ 256 then waitRetry s x
        else
          releaseThen s x .package fun s1 y =>
            match s1.copyCtx? blk.gang with
            | none => meetDone s1 y y.w
            | some c =>
              let n := c.submitted + 1
              let op : CopyOpn :=
                { id := s1.nextId, gang := blk.gang, block := blk.id, warp := ⟨y.w.core, y.w.slot⟩, num := n, tag := o.k
                  kind := kind y, bo := o.bo, dst := y.w.s[o.d], src := y.w.s[o.f], desc := y.w.s[o.l]
                  windows := blk.windows, performed := false, code := 0, errAddr := 0, land := [], since := none, free := false }
              let s2 := (s1.setCopyCtx { c with submitted := n }).submitCopy op
              meetDone s2 y { y.w with copyLast := w64 n }

/-- s[L + 1]. -/
def listWord (x : Focus) (o : CopyOp) : W64 := x.w.s[Fin.ofNat 32 (o.l.val + 1)]

/-- COPY. -/
def execCopy (o : CopyOp) (s : State) : Out := copyInstr (.copy o) o (fun _ => .copy) s
/-- COPYM. -/
def execCopym (o : CopyOp) (s : State) : Out := copyInstr (.copym o) o (fun _ => .copym) s
/-- GATH. -/
def execGath (o : CopyOp) (s : State) : Out := copyInstr (.gath o) o (fun x => .gath (listWord x o)) s
/-- SCAT. -/
def execScat (o : CopyOp) (s : State) : Out := copyInstr (.scat o) o (fun x => .scat (listWord x o)) s

end Sys2Proof.Machine
end

