-- ==== Sys2Proof/Machine/Collective.lean ====
section
/-!
DEFINITION. The collective engine (R347-R358): groups, REDT, and bulk collectives.
-/

namespace Sys2Proof.Machine

open Sys2Proof

/-! ### Groups (R347) -/

/-- SPAN and COUNT of a group descriptor. -/
def grpSpan (d : W64) : Nat := bits d 63 62
def grpCount (d : W64) : Nat := bits d 15 0

/-- The value is refused (R347); no slot ever holds SPAN PACKAGE with COUNT 0 by CGRP (R348). -/
def grpBad (d : W64) : Bool := grpSpan d ≥ 2 || bits d 61 16 != 0 || (grpSpan d != 0 && grpCount d == 0)

/-- An episode of slot n is open on a die for a launch. -/
def State.episodeOpen (s : State) (launch : Nat) (die : Fin 4) (n : Fin 16) : Bool :=
  s.episodes.any fun e => e.launch == launch && e.slot == n && (e.span == none || e.span == some die)
    && !e.arrivals.isEmpty

/-- CGRP. -/
def execCgrp (b : Bool) (c : Fin 32) (n : Fin 16) (s : State) : Out :=
  meetInstr (.cgrp b c n) s fun x =>
    let v := x.w.s[c]
    let ill := raiseAll s x .meeting cILLSTATE (fun _ => v) RaiseInfo.plain
    match s.owner? x.w with
    | none => raisePlain s x .meeting cBARDEPTH
    | some o =>
      if (grpSpan v == 0 && o.launch.depth < 2) || (grpSpan v == 1 && o.launch.depth != 3) then
        raisePlain s x .meeting cBARDEPTH
      else if grpBad v then ill
      else if o.level.groups[n] == v then meetDone s x x.w
      else if s.episodeOpen o.launch.id o.level.die n then ill
      else
        meetDone { s with levels := replaceAll (fun d => d.id == o.level.id)
                            (fun d => { d with groups := d.groups.set n v }) s.levels } x x.w

/-! ### REDT (R348, R349, R352) -/

/-- The record of a group, with its open episode; a new one where there is none. -/
def State.episode (s : State) (launch : Nat) (n : Fin 16) (span : Option (Fin 4)) (op : RedOp) (t : Ty) : Episode :=
  match s.episodes.find? fun e => e.launch == launch && e.slot == n && e.span == span with
  | some e => if e.arrivals.isEmpty then { e with op := op, t := t } else e
  | none => { id := s.nextId, launch := launch, slot := n, span := span, num := 0, op := op, t := t, arrivals := [] }

/-- Replace the record of a group. -/
def State.setEpisode (s : State) (e : Episode) : State :=
  if s.episodes.any fun x => x.id == e.id then
    { s with episodes := replaceAll (fun x => x.id == e.id) (fun _ => e) s.episodes }
  else { s with episodes := s.episodes ++ [e], nextId := s.nextId + 1 }

/-- The values of an episode (R348). -/
def Episode.values (e : Episode) : List Nat :=
  e.arrivals.flatMap fun a => (lanesOf a.2.2.1).map fun l => lowBits e.t (a.2.2.2)[l]

/-- A warp of a completed episode receives r and its flags, and its fragment is released (R352). -/
def State.giveRedt (e : Episode) (v : W64) (flags : Nat) (order : List (Nat × Nat)) (s : State)
    (a : FragRef × Fin 32 × Mask × Lanes W64) : State :=
  match s.warp? a.1.core a.1.slot with
  | none => s
  | some w =>
    match w.frag? a.1.uid with
    | none => s
    | some f =>
      match f.status with
      | .waiting (.episode id after) =>
        if id != e.id then s
        else
          let w1 := { w.writeS a.2.1 v with fpstat := w.fpstat ||| w32 flags }
          put s w1 (f.release s.clock s.time (s.releaseDue (some e.num) order w.core w.slot) after)
      | _ => s

/-- An episode that holds COUNT arrivals completes (R348). -/
def State.completeEpisode (s : State) (e : Episode) : State :=
  let r := reduceVals e.op e.t e.values
  let order := sortBy (fun x => releaseKey (some e.num) x.1 x.2) (e.arrivals.map fun a => (a.1.core, a.1.slot))
  let s1 := e.arrivals.foldl (State.giveRedt e (accImage e.t r.bits) r.flags order) s
  s1.setEpisode { e with num := e.num + 1, arrivals := [] }

/-- Some die of the grid holds another descriptor in the slot (R347, R348). -/
def State.grpDiffers (s : State) (launch : Nat) (n : Fin 16) (d : W64) : Bool :=
  s.levels.any fun l => l.launch == launch && l.groups[n] != d

/-- The arrival of a warp. (DESIGN CHOICE, log 18.) -/
def State.redtArrive (s : State) (x : Focus) (e : Episode) (a : Fin 8) (d : Fin 32) (count : Nat) : State :=
  let me : FragRef := ⟨x.w.core, x.w.slot, x.f.uid⟩
  let e1 := { e with arrivals := e.arrivals ++ [(me, d, x.f.lanes, x.w.acc[a].val)] }
  let s1 := (put s x.w { x.f.atFence x.c.pos with status := .waiting (.episode e.id x.c.next) }).setEpisode e1
  if e1.arrivals.length ≥ count then s1.completeEpisode e1 else s1

/-- REDT of the whole warp. -/
def redtWarp (s : State) (x : Focus) (a : Fin 8) (n : Fin 16) (t : Ty) (d : Fin 32) (op : RedOp) : State :=
  if x.w.acc[a].tile.isSome then raisePlain s x .meeting cACCMODE
  else match s.owner? x.w with
    | none => raisePlain s x .meeting cILLSTATE
    | some o =>
      let g := o.level.groups[n]
      if grpSpan g ≥ 2 || (grpSpan g != 0 && grpCount g == 0) then raisePlain s x .meeting cILLSTATE
      else if grpCount g == 0 then meetDone s x (x.w.writeS d (accImage t (identity op t)))
      else
        let wide := grpSpan g == 1
        let span := if wide then none else some o.level.die
        let e := s.episode o.launch.id n span op t
        let lost := if wide then lostCauses x.f else []
        if wide && s.grpDiffers o.launch.id n g then raisePlain s x .meeting cILLSTATE
        else if e.op != op || e.t != t then raisePlain s x .meeting cILLSTATE
        else if !lost.isEmpty then
          -- lanes with a lost acknowledgement split off; the others wait for their return (R215, R348)
          meetSplit s { x with f := x.f.clearLost } lost RaiseInfo.plain fun s1 y =>
            put s1 y.w { y.f.atFence y.c.pos with status := .waiting .convergent }
        else if wide && s.openE x.w x.f.lanes then waitRetry s x
        else s.redtArrive x e a d (grpCount g)

/-- REDT. ACCMODE ranks above every other cause but ILLEGAL (R153). -/
def execRedt (b : Bool) (a : Fin 8) (n : Fin 16) (t : Ty) (d : Fin 32) (op : RedOp) (s : State) : Out :=
  meetInstr (.redt b a n t d op) s fun x =>
    if x.w.acc[a].tile.isSome then raisePlain s x .meeting cACCMODE
    else convergentThen s x false fun s1 y => redtWarp s1 y a n t d op

/-- Participants of a group that are unretired and have not arrived. -/
def State.absentees (s : State) (e : Episode) : Nat :=
  (s.warps.filter fun w => w.unretired != 0 && !(e.arrivals.any fun a => a.1.core == w.core && a.1.slot == w.slot)
    && ((s.owner? w).any fun o => o.launch.id == e.launch && (match e.span with
      | none => true
      | some d => o.level.die == d))).length

/-- COUNT of a group as its die levels hold it. -/
def State.grpCountOf (s : State) (e : Episode) : Nat :=
  ((s.levels.find? fun d => d.launch == e.launch && (match e.span with
    | none => true
    | some k => d.die == k)).map fun d => grpCount d.groups[e.slot]).getD 0

/-- The open episode is lost (R349). -/
def State.episodeLost (s : State) (e : Episode) : Bool :=
  !e.arrivals.isEmpty && e.arrivals.length + s.absentees e < s.grpCountOf e

/-- Every warp of a lost episode takes COLLTIMEOUT, its arrival withdrawn. -/
def State.loseEpisode (s : State) (e : Episode) : State :=
  let s1 := s.setEpisode { e with arrivals := [] }
  e.arrivals.foldl (fun s a =>
    match (s.warp? a.1.core a.1.slot).bind fun w => (w.frag? a.1.uid).map fun f => (w, f) with
    | none => s
    | some (w, f) =>
      s.stopWith w { f with status := .ready } ((lanesOf f.lanes).map fun l => (l, cCOLLTIMEOUT, 0)) .meeting
        RaiseInfo.plain) s1

/-- COLL_EPISODE_LOST. -/
def State.collEpisodeLost (s : State) (launch : Nat) (slot : Fin 16) (die : Fin 4) : Option State :=
  (s.episodes.find? fun e => e.launch == launch && e.slot == slot && (e.span == some die || e.span == none)
    && s.episodeLost e).map s.loseEpisode

/-- COLL_EPISODE_LOST. -/
def execCollEpisodeLost (launch : Nat) (slot : Fin 16) (die : Fin 4) (s : State) : Out :=
  event s (s.collEpisodeLost launch slot die)

/-- Arrivals of warps that are gone are withdrawn (R43). -/
def State.settleEpisodes (s : State) : State :=
  let live := fun (a : FragRef × Fin 32 × Mask × Lanes W64) =>
    (s.warp? a.1.core a.1.slot).any fun w => (w.frag? a.1.uid).isSome
  let eps := (s.episodes.filter fun e => (s.launch? e.launch).isSome).map fun (e : Episode) =>
    { e with arrivals := e.arrivals.filter live }
  { s with episodes := eps }

/-! ### COLL (R353, R354) -/

/-- Types that combine (R354). -/
def collArith (c : Nat) : Bool :=
  match Ty.ofCode c with
  | .f16 | .bf16 | .f32 | .i32 | .n32 => true
  | _ => false

/-- The record is refused by R354: code 9. -/
def collRefused (r : BitVec 512) : Bool :=
  let kind := collKind r
  let comb := kind == 0 || kind == 1
  kind > 3 || (if comb then collOpc r > 2 else collOpc r != 0) || collType r > 15
    || (if comb then !collArith (collType r) else Ty.ofCode (collType r) == .si8 || Ty.ofCode (collType r) == .t2)
    || collN r > 64 || collRank r ≥ collN r || (if kind == 3 then collRoot r ≥ collN r else collRoot r != 0)
    || collField r 6 2 != 0 || collCount r ≥ 2 ^ 40 || collField r 48 8 != 0

/-- The collective context of a launch on a die. -/
def State.collCtx? (s : State) (launch : Nat) (die : Fin 4) : Option CollCtx :=
  s.collCtxs.find? fun c => c.launch == launch && c.die == die

/-- Replace a collective context. -/
def State.setCollCtx (s : State) (c : CollCtx) : State :=
  { s with collCtxs := replaceAll (fun k => k.launch == c.launch && k.die == c.die) (fun _ => c) s.collCtxs }

/-- The place of a new operation among those of its KEY, with the counts after it. -/
def countKey (key : W64) : List (W64 × Nat) → Nat × List (W64 × Nat)
  | [] => (0, [(key, 1)])
  | (k, n) :: rest =>
    if k == key then (n, (k, n + 1) :: rest) else let r := countKey key rest; (r.1, (k, n) :: r.2)

/-- SRC and DST overlap, or either overlaps an operation in flight of the address space (R355). -/
def State.collBreaches (s : State) (o : CollOpn) : Bool :=
  let mine := o.spans
  spansMeet mine.1 mine.2 || (s.collOps.any fun p => p.asid == o.asid && spansMeet (mine.1 ++ mine.2) (p.spans.1 ++ p.spans.2))
    || (s.copyOps.any fun p =>
      let it := s.copySpans p
      (s.copyAgent p).asid == o.asid && spansMeet (mine.1 ++ mine.2) (it.1 ++ it.2))

/-- Submit one operation. -/
def State.submitColl (s : State) (x : Focus) (o : Owner) (c : CollCtx) (addr : W64) (bs : List Byte) : State :=
  let r := BitVec.ofNat 512 (leNat bs)
  let k := countKey (collKey r) c.keys
  let n := c.submitted + 1
  let op : CollOpn :=
    { id := s.nextId, launch := o.launch.id, die := o.level.die, num := n, asid := o.launch.asid, record := r
      addr := addr, nth := k.1, since := s.time, outcome := none, out := none, free := false }
  let bad := !collRefused r && s.collBreaches op
  let s1 := { (s.setCollCtx { c with submitted := n, keys := k.2 }) with
    nextId := s.nextId + 1, collOps := s.collOps ++ [{ op with free := bad }] }
  meetDone s1 x { x.w with collLast := w64 n }

/-- COLL. -/
def execColl (b : Bool) (r : Fin 32) (s : State) : Out :=
  meetInstr (.coll b r) s fun x =>
    releaseThen s x .package fun s1 y =>
      match (s1.owner? y.w).bind fun o => (s1.collCtx? o.launch.id o.level.die).map fun c => (o, c) with
      | none => meetDone s1 y y.w
      | some (o, c) =>
        if (s1.collOps.filter fun p => p.launch == o.launch.id && p.die == c.die).length ≥ 64 then waitRetry s1 y
        else
          let addr := y.w.s[r]
          match s1.recordRead (s1.agentOf y.w (firstLane y.f.lanes)) (lateWait s1 y) addr 64 with
          | .error e => stopMeeting s1 y e false
          | .ok (bs, s2) => s2.submitColl y o c addr bs

/-! ### Performing a collective (R355, R356, R445) -/

/-- The agent of an operation. -/
def State.collAgent (s : State) (o : CollOpn) : Agent :=
  let pool := (s.levels.find? fun d => d.launch == o.launch && d.die == o.die).bind fun d =>
    (s.launch? o.launch).bind fun l =>
      if l.poolMiB == 0 then none else some (d.id, l.poolBase, l.poolMiB * 2 ^ 20)
  { die := o.die, asid := o.asid, pool := pool, who := none }

/-- MEM.ACKTO has passed since an operation found a home out of reach. -/
def State.collLate (s : State) (o : CollOpn) : Bool := o.out.any fun t => s.time ≥ t + s.ackNs

/-- The members an operation's PEERS names, as package die or none for another package; or a code; or a wait. (DESIGN CHOICE, log 16.) -/
def State.collPeersOf (s : State) (o : CollOpn) : Except (Option Nat) (List (Option (Fin 4))) :=
  let n := collN o.record
  match s.agRead (s.collAgent o) (s.collLate o) (collPeers o.record) (8 * n) with
  | .error .wait | .error .out => .error none
  | .error (.cause c _) => .error (some (copyCode c))
  | .ok (bs, _) =>
    let es := (List.range n).map fun r => leNat ((bs.drop (8 * r)).take 8)
    let part := (s.launch? o.launch).bind fun l => (s.iface? l.queue.vi).map fun i => (i, s.part? l.queue.vi l.part)
    match part with
    | none => .error (some 9)
    | some (i, p) =>
      let dieOf := fun (e : Nat) => (i.packageDie (e % 4)).bind fun d =>
        if (p.any fun p => bits p.cgs (16 * (e % 4) + 15) (16 * (e % 4)) != 0) then some (Fin.ofNat 4 d) else none
      let local_ := fun (e : Nat) => e / 2 ^ 32 % 2 ^ 12 == s.mgmt.fabId.toNat
      if es.any fun e => e / 4 % 2 ^ 30 != 0 || e / 2 ^ 44 != 0 || (local_ e && (dieOf e).isNone) then .error (some 9)
      else .ok (es.map fun e => if local_ e then dieOf e else none)

/-- The member operations, one for each entry of PEERS; none while some is absent or in another package. (DESIGN CHOICE, log 15.) -/
def State.collMembers (s : State) (o : CollOpn) : List (Option (Fin 4)) → List CollOpn → Option (List CollOpn)
  | [], acc => some acc
  | none :: _, _ => none
  | some d :: rest, acc =>
    let vi := fun (p : CollOpn) => (s.launch? p.launch).map fun l => l.queue.vi
    let fits := fun (p : CollOpn) => p.die == d && collKey p.record == collKey o.record && p.nth == o.nth
      && vi p == vi o && p.outcome.isNone && !collRefused p.record && !(acc.any fun q => q.id == p.id)
    match s.collOps.find? fun p => fits p && p.launch == o.launch with
    | some p => s.collMembers o rest (acc ++ [p])
    | none =>
      match s.collOps.find? fits with
      | some p => s.collMembers o rest (acc ++ [p])
      | none => none

/-- Members that disagree (R355): code 10. -/
def collDisagree (ms : List CollOpn) : Bool :=
  match ms with
  | [] => false
  | m :: rest =>
    let key := fun (p : CollOpn) =>
      (collKind p.record, collOpc p.record, collType p.record, collN p.record, collCount p.record, collRoot p.record)
    (rest.any fun p => key p != key m) || (ms.map fun p => collRank p.record).eraseDups.length != ms.length

/-- Elements of a byte string. -/
def elemsOf (size : Nat) : Nat → List Byte → List Nat
  | 0, _ => []
  | n + 1, bs => leNat (bs.take size) :: elemsOf size n (bs.drop size)

/-- Combine in rank order (R355). -/
def combine (op : Nat) (t : Ty) (vs : List Nat) : FRes :=
  match vs with
  | [] => .plain 0
  | [x] => .plain x
  | _ => foldRes (match op with
      | 0 => addR t .rne
      | 1 => minR t
      | _ => maxR t) vs

/-- The sources in rank order. -/
def byRank (srcs : List (Nat × List Nat)) : List (List Nat) := (sortBy Prod.fst srcs).map Prod.snd

/-- The results of a member: its elements with the flags raised. -/
def collResult (r : BitVec 512) (srcs : List (Nat × List Nat)) : List Nat × Nat :=
  let t := Ty.ofCode (collType r)
  let n := collCount r
  let cols := byRank srcs
  let comb := fun off =>
    let rs := (List.range n).map fun i => combine (collOpc r) t (cols.map fun c => c.getD (off + i) 0)
    (rs.map fun x => x.bits, rs.foldl (fun f x => f ||| x.flags) 0)
  match collKind r with
  | 0 => comb 0
  | 1 => comb (collRank r * n)
  | 2 => (cols.flatMap fun c => c, 0)
  | _ => (((srcs.find? fun x => x.1 == collRoot r).map Prod.snd).getD [], 0)

/-- A range to be written: the places with their bytes page by page up to the first that stops, why it stops, and the bytes of that page
whose acknowledgement is lost. -/
structure WritePlan where
  s : State
  plan : List (Phys × Byte)
  stop : Option Stop
  lost : List (Nat × Byte)

/-- The places of a range to be written. -/
def State.planWrite (s : State) (ag : Agent) (late : Bool) (va : Nat) (bs : List Byte) : WritePlan :=
  (pageParts va bs.length).foldl (fun acc p =>
    if acc.stop.isSome then acc
    else
      let mine := (bs.drop (p.1 - va)).take p.2
      match acc.s.partAt ag .write late p.1 p.2 with
      | .error (.cause c a) =>
        { acc with stop := some (.cause c a)
                   lost := if c == cACKLOST then (acc.s.pasOf ag .write p.1 p.2).zip mine else [] }
      | .error e => { acc with stop := some e }
      | .ok (ps, x) =>
        { acc with s := (acc.s.usePart ag .write x).settleE ag.die ps, plan := acc.plan ++ ps.zip mine })
    ⟨s, [], none, []⟩

/-- A subset of a plan that stops is written, and bytes whose acknowledgement is lost are indeterminate (R98, R356). -/
def WritePlan.partly (p : WritePlan) (asid tag : Nat) : State :=
  let s1 := p.s.putSome asid p.plan
  if p.lost.isEmpty then s1 else s1.makeIndet (p.lost.map fun x => ⟨x.1, x.2, tag⟩)

/-- An operation of the sequencer. -/
def State.collOp? (s : State) (id : Nat) : Option CollOpn := s.collOps.find? fun o => o.id == id

/-- The outcome of an operation. -/
def State.setOutcome (s : State) (id code flags : Nat) : State :=
  { s with collOps := replaceAll (fun p => p.id == id) (fun p => { p with outcome := some (code, flags) }) s.collOps }

/-- A member's results are written (R355), or a subset of them where a write stops (R356). What an operation writes whose SRC or DST
overlaps the other or an operation in flight is a free value (R8; DESIGN CHOICE, log 13). -/
def State.collWrite (s : State) (m : CollOpn) (vals : List Nat) (flags : Nat) : State :=
  let ag := s.collAgent m
  let bs := vals.flatMap fun v => leBytes (collSize m.record) v
  let s0 := if m.free then s.nextFree else s
  let p := s0.planWrite ag true (collDst m.record) (if m.free then freeBytes s.freeIndex bs.length else bs)
  match p.stop with
  | none => (p.s.putBytes ag.asid (p.plan.map Prod.fst) (p.plan.map Prod.snd)).setOutcome m.id 0 flags
  | some (.cause c _) => (p.partly ag.asid m.id).setOutcome m.id (copyCode c) flags
  | some _ => (p.partly ag.asid m.id).setOutcome m.id 8 flags

/-- The source elements of a member, or the code of its error; none while a home is out of reach. -/
def State.collRead (s : State) (m : CollOpn) : Except (Option Nat) (List Nat) :=
  let n := collSrcLen m.record
  let size := collSize m.record
  match s.agRead (s.collAgent m) (s.collLate m) (collSrc m.record) (n * size) with
  | .ok (bs, _) => .ok (elemsOf size n bs)
  | .error .wait | .error .out => .error none
  | .error (.cause c _) => .error (some (copyCode c))

/-- Some home of a member's destination is out of reach, MEM.ACKTO not yet past. -/
def State.collHeld (s : State) (m : CollOpn) : Bool :=
  match (s.planWrite (s.collAgent m) (s.collLate m) (collDst m.record)
      (List.replicate (collDstLen m.record * collSize m.record) 0)).stop with
  | some .out => true
  | _ => false

/-- Pages of the members' sources take their A bits. -/
def State.collTouch (s : State) (m : CollOpn) : State :=
  match s.agRead (s.collAgent m) (s.collLate m) (collSrc m.record) (collSrcLen m.record * collSize m.record) with
  | .ok (_, t) => t
  | .error _ => s

/-- The data of matched members moves: an error of a member ends that member, and where none has one every member has
its results. -/
def State.collMove (s : State) (ms : List CollOpn) : Option State :=
  let rd := ms.map fun m => (m, s.collRead m)
  let bad := rd.filterMap fun x => match x.2 with
    | .error (some c) => some (x.1.id, c)
    | _ => none
  if !bad.isEmpty then some (bad.foldl (fun s b => s.setOutcome b.1 b.2 0) s)
  else if rd.any (fun x => match x.2 with
      | .error _ => true
      | .ok _ => false) || ms.any s.collHeld then none
  else
    let srcs := rd.filterMap fun x => match x.2 with
      | .ok v => some (collRank x.1.record, v)
      | .error _ => none
    let s1 := ms.foldl State.collTouch s
    some (ms.foldl (fun s m => let r := collResult m.record srcs; s.collWrite m r.1 r.2) s1)

/-- The place of an operation's STATUS. -/
def CollOpn.statusAt (o : CollOpn) : Nat := o.addr.toNat + 56

/-- The end of an operation: STATUS, then the counter (R356, R21). -/
def State.collFinish (s : State) (o : CollOpn) (code flags : Nat) : State :=
  let p := s.planWrite (s.collAgent o) true o.statusAt (leBytes 8 (code + 256 * flags))
  let s1 := match p.stop with
    | none => p.s.putBytes o.asid (p.plan.map Prod.fst) (p.plan.map Prod.snd)
    | some _ => if p.lost.isEmpty then s else s.makeIndet (p.lost.map fun (x : Nat × Byte) => ⟨x.1, x.2, o.id⟩)
  let s2 := { s1 with collOps := s1.collOps.filter fun p => p.id != o.id }
  match s2.collCtx? o.launch o.die with
  | none => s2
  | some c => let a := advance c.counter c.done o.num; s2.setCollCtx { c with counter := a.1, done := a.2 }

/-- A range access finds a home out of reach. -/
def Stop.isOut {α : Type} : Except Stop α → Bool
  | .error .out => true
  | _ => false

/-- Some home that an operation needs now is out of reach: for STATUS once it has its outcome, else for PEERS, SRC and DST. -/
def State.collOut (s : State) (o : CollOpn) : Bool :=
  let ag := s.collAgent o
  let m := { o with out := none }
  if o.outcome.isSome then Stop.isOut (s.agWrite ag false o.statusAt (List.replicate 8 0))
  else
    Stop.isOut (s.agRead ag false (collPeers o.record) (8 * collN o.record))
      || Stop.isOut (s.agRead ag false (collSrc o.record) (collSrcLen o.record * collSize o.record)) || s.collHeld m

/-- The time since which a home has been out of reach is kept for an operation; none where there is nothing to note. -/
def State.collNote (s : State) (o : CollOpn) : Option State :=
  let out := s.collOut o
  if out == o.out.isSome then none
  else
    some { s with collOps := replaceAll (fun p => p.id == o.id) (fun p => { p with out := if out then some s.time else none })
                    s.collOps }

/-- The data of an operation moves, where its members are there. -/
def State.collProgress (s : State) (o : CollOpn) : Option State :=
  if collRefused o.record then some (s.setOutcome o.id 9 0)
  else match s.collPeersOf o with
    | .error none => none
    | .error (some c) => some (s.setOutcome o.id c 0)
    | .ok ps =>
      if collCount o.record == 0 then some (s.setOutcome o.id 0 0)
      else match s.collMembers o ps [] with
        | none => none
        | some ms =>
          if !(ms.any fun m => m.id == o.id) then none
          else if collDisagree ms then some (ms.foldl (fun s m => s.setOutcome m.id 10 0) s)
          else s.collMove ms

/-- COLL_OP_COMPLETE: the data of the operation's collective moves, and the operation completes once it has an outcome; while a home that
it needs is out of reach, it waits for MEM.ACKTO. -/
def State.collComplete (s : State) (id : Nat) : Option State :=
  match s.collOp? id with
  | none => none
  | some o =>
    match o.outcome with
    | some (c, f) => if s.collOut o && !s.collLate o then s.collNote o else some (s.collFinish o c f)
    | none =>
      match s.collProgress o with
      | none => s.collNote o
      | some t =>
        match t.collOp? id with
        | some p =>
          (match p.outcome with
          | some (c, f) => some (if t.collOut p then t else t.collFinish o c f)
          | none => some t)
        | none => some t

/-- COLL_OP_COMPLETE. -/
def execCollOpComplete (op : Nat) (s : State) : Out := event s (s.collComplete op)

/-- COLL.TMO.MICROS in nanoseconds; a value below 10 acts as 10 (R357). -/
def State.collTmoNs (s : State) (die : Fin 4) : Nat := max 10 (s.dies[die].collTmo).toNat * 1000

/-- What has reached a member that lacks the data of others: the parts of an ALLGATHER from members that are there. -/
def State.collPartial (s : State) (o : CollOpn) : List (Nat × List Nat) :=
  if collKind o.record != 2 then []
  else s.collOps.filterMap fun m =>
    if collKey m.record == collKey o.record && m.nth == o.nth && m.asid == o.asid && !collRefused m.record then
      match s.collRead m with
      | .ok v => some (collRank m.record, v)
      | .error _ => none
    else none

/-- COLL_SILENCE_TIMEOUT: code 11, with some subset of the results that can be formed written (R356). (DESIGN CHOICE, log 17.) -/
def State.collSilence (s : State) (id : Nat) : Option State :=
  match s.collOp? id with
  | none => none
  | some o =>
    if o.outcome.isSome || s.time < o.since + s.collTmoNs o.die || (s.collProgress o).isSome then none
    else
      let size := collSize o.record
      let n := collCount o.record
      let ag := s.collAgent o
      let s1 := (s.collPartial o).foldl (fun s x =>
        let p := s.planWrite ag true (collDst o.record + x.1 * n * size) (x.2.flatMap fun v => leBytes size v)
        p.partly ag.asid o.id) s
      some (s1.collFinish o 11 0)

/-- COLL_SILENCE_TIMEOUT. -/
def execCollSilenceTimeout (op : Nat) (s : State) : Out := event s (s.collSilence op)

end Sys2Proof.Machine
end

