-- ==== Sys2Proof/Machine/Admit.lean ====
section
/-!
DEFINITION. Admission of code objects (R136-R147, R464): layout, kernel table, target bitmap and the structural checks.
-/

namespace Sys2Proof.Machine

open Sys2Proof

/-! ### Verdicts (R140, R144) -/

/-- The value that names no kernel and no position. -/
def noneWord : Nat := 0xFFFF_FFFF

/-- The status area (R140). -/
structure Verdict where
  status : Nat
  kernel : Nat
  position : Nat
  detail : Nat
  deriving DecidableEq, Repr

/-- The bytes of the status area. -/
def Verdict.bytes (v : Verdict) : List Byte :=
  leBytes 4 v.status ++ leBytes 4 v.kernel ++ leBytes 4 v.position ++ leBytes 4 v.detail

/-- A fault of the whole object. -/
def Verdict.whole (status detail : Nat) : Verdict := ⟨status, noneWord, noneWord, detail⟩

/-- A fault found by a check: kernel, position, detail. -/
abbrev Found := Nat × Nat × Nat

/-- The order within one check: lower kernel, then lower position, then lower detail. -/
def foundKey (f : Found) : Nat := (f.1 * 2 ^ 64 + f.2.1) * 2 ^ 64 + f.2.2

/-- The first of a list of faults of one check. -/
def firstFound (status : Nat) (fs : List Found) : Option Verdict :=
  (minBy foundKey fs).map fun f => ⟨status, f.1, f.2.1, f.2.2⟩

/-! ### Reading an object -/

/-- Bytes of an object for admission; a page that cannot be read gives free bytes, since the spec states no outcome for
such a read (log 6). -/
def State.objectBytes (s : State) (asid va n : Nat) : List Byte × State :=
  (pageParts va n).foldl (fun acc p =>
    match acc.2.readVa none asid p.1 p.2 with
    | .ok (bs, s1) => (acc.1 ++ bs, s1)
    | .error _ => (acc.1 ++ freeBytes acc.2.freeIndex p.2, (acc.2.readTouch asid p.1 p.2).nextFree)) ([], s)

/-- A little-endian field of a byte string. -/
def fieldOf (bs : List Byte) (lo n : Nat) : Nat := leNat ((bs.drop lo).take n)

/-! ### Layout (R136, R464) -/

/-- Sections in header order: start, length, offset field. -/
def sections (h : List Byte) : List (Nat × Nat × Nat) :=
  [(fieldOf h 8 4, fieldOf h 12 4, 8), (fieldOf h 16 4, 32 * fieldOf h 20 4, 16), (fieldOf h 24 4, 4 * fieldOf h 28 4, 24)]
    ++ (if fieldOf h 32 4 == 0 then [] else [(fieldOf h 32 4, fieldOf h 36 4, 32)])

/-- Two ranges share a byte. -/
def overlap (a n b m : Nat) : Bool := n != 0 && m != 0 && a < b + m && b < a + n

/-- Header bytes at fault by single fields. -/
def fieldFaults (h : List Byte) : List Nat :=
  (if fieldOf h 6 2 != 0 then [6] else []) ++ (if fieldOf h 8 4 % 4 != 0 then [8] else [])
    ++ (if fieldOf h 12 4 % 4 != 0 || fieldOf h 12 4 < 4 || fieldOf h 12 4 > 2 ^ 26 then [12] else [])
    ++ (if fieldOf h 16 4 % 32 != 0 then [16] else [])
    ++ (if fieldOf h 20 4 == 0 || fieldOf h 20 4 > 4096 then [20] else [])
    ++ (if fieldOf h 24 4 % 4 != 0 then [24] else []) ++ (if fieldOf h 28 4 > 2 ^ 20 then [28] else [])
    ++ (if fieldOf h 32 4 == 0 && fieldOf h 36 4 != 0 then [36] else [])
    ++ ((List.range 24).map (· + 40)).filter fun i => fieldOf h i 1 != 0

/-- Faults of sections against the 2^32 bound, the header, and one another. -/
def sectionFaults : List (Nat × Nat × Nat) → List (Nat × Nat × Nat) → List Nat
  | _, [] => []
  | before, (o, n, f) :: rest =>
    (if o + n > 2 ^ 32 then [f + 4] else [])
      ++ (if before.any fun b => overlap o n b.1 b.2.1 then [f] else [])
      ++ sectionFaults (before ++ [(o, n, f)]) rest

/-- The list is strictly ascending. -/
def ascending : List Nat → Bool
  | a :: b :: rest => a < b && ascending (b :: rest)
  | _ => true

/-- The lowest header byte at fault, without the target list's order. -/
def layoutFaults (h : List Byte) : List Nat := fieldFaults h ++ sectionFaults [(0, 64, 0)] (sections h)

/-! ### Kernel table (R137) -/

/-- A kernel from its entry; entry point and target words count from the code section's start. -/
def kernelOfEntry (e : List Byte) : Kernel :=
  { first := fieldOf e 0 4, words := fieldOf e 4 4, entry := fieldOf e 0 4, depth := fieldOf e 8 1
    poolMiB := fieldOf e 9 1, ng := fieldOf e 10 1, ns := fieldOf e 11 1, tiles := fieldOf e 12 1
    scratch := fieldOf e 13 1, barriers := fieldOf e 14 2, targets := [] }

/-- NAMEOFF names a zero-terminated string in the data section. -/
def nameOk (off dataoff : Nat) (data : List Byte) : Bool :=
  off == 0 || (dataoff != 0 && dataoff ≤ off && off < dataoff + data.length && (data.drop (off - dataoff)).contains 0)

/-- Faults of an entry against the kernels before it (R144, R464). -/
def entryFaults (e : List Byte) (nwords dataoff : Nat) (data : List Byte) (before : List Kernel) : List Nat :=
  let k := kernelOfEntry e
  (if k.first ≥ nwords || before.any fun b => overlap k.first k.words b.first b.words then [0] else [])
    ++ (if k.words == 0 || k.first + k.words > nwords then [4] else []) ++ (if k.depth > 3 then [8] else [])
    ++ (if k.poolMiB > 16 || (k.poolMiB != 0 && k.depth < 2) then [9] else [])
    ++ (if k.ng == 0 || k.ng > 64 then [10] else []) ++ (if k.ns == 0 || k.ns > 32 then [11] else [])
    ++ (if k.tiles > 16 then [12] else []) ++ (if k.scratch > 16 then [13] else [])
    ++ (if k.barriers > 128 then [14] else []) ++ (if !nameOk (fieldOf e 16 4) dataoff data then [16] else [])
    ++ ((List.range 12).map (· + 20)).filter fun i => fieldOf e i 1 != 0

/-- The kernels of a table, or the first fault. -/
def kernelsOf (nwords dataoff : Nat) (data : List Byte) : List (List Byte) → List Kernel → Except Verdict (List Kernel)
  | [], ks => .ok ks
  | e :: es, ks =>
    match minBy id (entryFaults e nwords dataoff data ks) with
    | some d => .error ⟨3, ks.length, noneWord, d⟩
    | none => kernelsOf nwords dataoff data es (ks ++ [kernelOfEntry e])

/-! ### Decoding a kernel range -/

/-- A position of a kernel range: relative position, what it decodes to, the position after it in the range, run-boundary
bit, and whether the run ends after it where that bit is set (R105). -/
structure Placed where
  pos : Nat
  word : Nat
  len : Nat
  instr : Option Instr
  next : Option Nat
  b : Bool
  last : Bool
  deriving DecidableEq, Repr

/-- One word of a section. -/
def wordAt (ws : List W32) (i : Nat) : W32 := ws.getD i 0

/-- A decoded, well-formed instruction. -/
def legalInstr (slot : Bool) (w0 : W32) (more : List W32) : Option Instr :=
  match decodeWords slot w0 more with
  | .ok (i, _) => if i.wf then some i else none
  | .error _ => none

/-- The positions of a range from word w up to hi. -/
def placedFrom (ws : List W32) (hi : Nat) : Nat → Nat → List Placed
  | 0, _ => []
  | fuel + 1, w =>
    if w ≥ hi then []
    else
      let w0 := wordAt ws w
      let n := moreWords w0 (if w + 1 < hi then some (wordAt ws (w + 1)) else none)
      let len := if w + n < hi then n + 1 else 1
      let more := if w + n < hi then (List.range n).map fun k => wordAt ws (w + 1 + k) else []
      let after := if w + len < hi then some (2 * (w + len)) else none
      let b := w0.getLsbD 29
      let rest := placedFrom ws hi fuel (w + len)
      if tagOf w0 == 1 then
        ⟨2 * w, w, 1, legalInstr false w0 [], some (2 * w + 1), b, false⟩
          :: ⟨2 * w + 1, w, 1, legalInstr true w0 [], after, b, true⟩ :: rest
      else ⟨2 * w, w, len, legalInstr false w0 more, after, b, true⟩ :: rest

/-- The positions of a kernel. -/
def Kernel.placed (ws : List W32) (k : Kernel) : List Placed := placedFrom ws (k.first + k.words) (k.words + 1) k.first

/-- What the checks work on: words, kernels with their positions, indirect targets and the bitmap's words. -/
structure Code where
  words : List W32
  kernels : List (Kernel × List Placed)
  targets : List Nat
  bitmap : List Nat
  deriving DecidableEq, Repr

/-- A word offset lies in a kernel's range. -/
def Kernel.has (k : Kernel) (w : Nat) : Bool := k.first ≤ w && w < k.first + k.words

/-- The return points of a range: the word after the last word of each CALL (R143). -/
def returnPoints (ps : List Placed) : List Nat :=
  ps.filterMap fun p => match p.instr with
    | some (.call _ _) | some (.callExt _ _) => some (p.word + p.len)
    | _ => none

/-- The code of an object with its bitmap (R143). -/
def Code.build (ws : List W32) (ks : List Kernel) (targets : List Nat) : Code :=
  let kps := ks.map fun k => (k, k.placed ws)
  { words := ws, kernels := kps, targets := targets
    bitmap := (ks.map (fun k => k.first) ++ targets ++ kps.flatMap fun kp => returnPoints kp.2).eraseDups }

/-- A fault of each kernel's positions by a test. -/
def Code.each (c : Code) (g : Kernel → List Placed → List (Nat × Nat)) : List Found :=
  (c.kernels.zipIdx).flatMap fun x => (g x.1.1 x.1.2).map fun r => (x.2, r.1, r.2)

/-! ### Direct control (R206-R210) -/

/-- The word offset that a direct transfer at a position targets, modulo 2^32. -/
def Placed.direct (p : Placed) : Option Nat :=
  let target := fun (off : W64) => some ((w32 p.word + off.setWidth 32).toNat)
  match p.instr with
  | some (.bra _ _ off) | some (.brd _ _ _ off) | some (.call _ off) => target (off.signExtend 64)
  | some (.braExt _ _ off) | some (.brdExt _ _ _ off) | some (.callExt _ off) => target (off.signExtend 64)
  | _ => none

/-- Control does not go on to the position after it. -/
def Placed.noFall (p : Placed) : Bool :=
  match p.instr with
  | some (.bra _ .always _) | some (.braExt _ .always _) | some (.call _ _) | some (.callExt _ _) | some (.exit _)
  | some (.ret _) | some (.brx _ _) | some (.reth _) | some (.rethSkip _) => true
  | _ => false

/-- The positions that control reaches directly from a position. -/
def Placed.flow (p : Placed) : List Nat :=
  (p.direct.toList.map (2 * ·)) ++ (if p.noFall then [] else p.next.toList)

/-! ### The checks (R144) -/

/-- BADENTRY. An indirect target outside every kernel range names no kernel: KERNEL is 0xFFFF_FFFF and POSITION twice the
word, and it is reported after the faults of the kernels (DESIGN CHOICE, log 53). -/
def Code.badEntry (c : Code) : List Found :=
  let cont := fun w => tagOf (wordAt c.words w) == 3
  (c.kernels.zipIdx.filterMap fun x =>
    if cont x.1.1.first then some (x.2, 2 * x.1.1.first, x.1.1.first) else none)
  ++ c.targets.filterMap fun t =>
    match c.kernels.findIdx? fun k => k.1.has t with
    | none => some (noneWord, 2 * t % 2 ^ 32, t)
    | some i => if cont t then some (i, 2 * t, t) else none

/-- A convergent matrix instruction (R280). -/
def convStrandInstr : Instr → Bool
  | .mma _ _ _ _ _ | .mloop _ _ _ _ _ _ | .mpair _ _ _ _ _ _ | .acctTile _ _ | .acctVec _ _ | .acctLoad _ _ _
  | .acctStore _ _ _ => true
  | _ => false

/-- An instruction may not stand under a cover (R121, R280). -/
def notCovered (i : Instr) : Bool :=
  (match i.place with
  | .meeting => true
  | .silent => false
  | .strand _ => convStrandInstr i) || (i.uses.any fun u => u.grd.isSome)

/-- Positions under the cover of a PBLK that raise ILLEGAL. -/
def coverFaults : List Placed → List Nat
  | [] => []
  | p :: ps =>
    (match p.instr with
    | some (.pblk _ _ _ n) => (ps.take (n.val + 1)).filterMap fun q =>
        if q.instr.any notCovered then some q.pos else none
    | _ => []) ++ coverFaults ps

/-- ILLEGALWORD. -/
def Code.illegalWord (c : Code) : List Found :=
  c.each fun _ ps => ((ps.filter fun p => p.instr.isNone).map fun p => (p.pos, 0)) ++ (coverFaults ps).map fun p => (p, 0)

/-- BADTARGET. -/
def Code.badTarget (c : Code) : List Found :=
  c.each fun k ps => ps.filterMap fun p => match p.direct with
    | some t => if !k.has t || tagOf (wordAt c.words t) == 3 then some (p.pos, t) else none
    | none => none

/-- FALLOFF. -/
def Code.fallOff (c : Code) : List Found :=
  c.each fun _ ps => match ps.getLast? with
    | some p => (match p.instr with
      | some (.exit _) | some (.ret _) | some (.brx _ _) | some (.bra _ .always _) | some (.braExt _ .always _) => []
      | _ => [(p.pos, 0)])
    | none => []

/-- Tiles that an instruction names. -/
def tilesNamed : Instr → List (Fin 16)
  | .tcfg _ n _ | .tzero _ n | .tld _ n _ _ | .tst _ n _ _ | .acctLoad _ _ n | .acctStore _ _ n => [n]
  | .mma _ _ a b _ => [a, b]
  | .mloop _ _ a b _ _ | .mpair _ _ a b _ _ => [a, b]
  | _ => []

/-- The named barrier of an instruction. -/
def barrierNamed : Instr → List (Fin 128)
  | .barNamed _ n _ | .barArriveNamed _ n _ | .barWaitNamed _ n _ => [n]
  | _ => []

/-- Registers that an instruction names, by file 0 g, 1 s, 2 t, 3 b and index. (DEDUCED, log 19.) -/
def regsNamed (i : Instr) : List (Nat × Nat) :=
  let rs := (match i.uses with
    | some u => u.reads ++ u.writes
    | none => []) ++ i.meetReads ++ i.meetWrites
  let gs := rs.filterMap fun r => match r with
    | .g n => some (0, n.val)
    | _ => none
  let ss := rs.filterMap fun r => match r with
    | .s n => some (1, n.val)
    | _ => none
  gs ++ ss ++ (tilesNamed i).map (fun n => (2, n.val)) ++ (barrierNamed i).map fun n => (3, n.val)

/-- The bound of a register file by the kernel's entry. -/
def Kernel.bound (k : Kernel) : Nat → Nat
  | 0 => k.ng
  | 1 => k.ns
  | 2 => k.tiles
  | _ => k.barriers

/-- REGBOUND. -/
def Code.regBound (c : Code) : List Found :=
  c.each fun k ps => ps.flatMap fun p => match p.instr with
    | some i => (regsNamed i).filterMap fun r => if r.2 ≥ k.bound r.1 then some (p.pos, r.1 * 256 + r.2) else none
    | none => []

/-- The level of a barrier instruction that names one (R27). -/
def barLevelOf : Instr → Nat
  | .barGang _ | .barArriveGang _ | .barWaitGang _ => 1
  | .dbar _ | .dbarValue _ _ _ _ _ => 2
  | .xbar _ | .xbarValue _ _ _ _ _ => 3
  | _ => 0

/-- BARDEPTH. -/
def Code.barDepth (c : Code) : List Found :=
  c.each fun k ps => ps.filterMap fun p => match p.instr with
    | some i => if barLevelOf i > k.depth then some (p.pos, barLevelOf i) else none
    | none => none

/-- The barrier and form of a BAR (R146). -/
def barForm? : Instr → Option (Nat × BarForm)
  | .bar _ => some (0x100, .sync)
  | .barArrive _ => some (0x100, .arrive)
  | .barWait _ => some (0x100, .wait)
  | .barGang _ => some (0x101, .sync)
  | .barArriveGang _ => some (0x101, .arrive)
  | .barWaitGang _ => some (0x101, .wait)
  | .barLvl _ _ => some (0x102, .sync)
  | .barArriveLvl _ _ => some (0x102, .arrive)
  | .barWaitLvl _ _ => some (0x102, .wait)
  | .barNamed _ n _ => some (n.val, .sync)
  | .barArriveNamed _ n _ => some (n.val, .arrive)
  | .barWaitNamed _ n _ => some (n.val, .wait)
  | _ => none

/-- A place of a path with the arrivals pending, in ascending order. -/
abbrev PairPoint := Nat × List Nat

/-- What a position does to the pending arrivals: the barrier at which the pairing breaks, or the arrivals after it. -/
def pairStepAt (i : Instr) (st : List Nat) : Except Nat (List Nat) :=
  match barForm? i with
  | some (k, .wait) => if st.contains k then .ok (st.erase k) else .error k
  | some (k, .arrive) => if st.contains k then .error k else .ok (insertBy id k st)
  | some (k, .sync) => if st.contains k then .error k else .ok st
  | none =>
    match i with
    | .exit _ => match st with
      | [] => .ok []
      | k :: _ => .error k
    | _ => .ok st

/-- Where a path goes on (R146). -/
def pairNext (rets bm : List Nat) (p : Placed) : List Nat :=
  match p.instr with
  | some (.ret _) => rets
  | some (.brx _ _) => bm
  | _ => p.flow

/-- Trace the paths of a kernel: points still to visit, points seen, faults found. A path goes on past a fault with the
arrivals it carried, so that a fault at a lower position beyond it is found too (R144). -/
def pairTrace (ps : List Placed) (rets bm : List Nat) :
    Nat → List PairPoint → List PairPoint → List (Nat × Nat) → List (Nat × Nat)
  | 0, _, _, out => out
  | _, [], _, out => out
  | fuel + 1, x :: work, seen, out =>
    match ps.find? fun p => p.pos == x.1 with
    | none => pairTrace ps rets bm fuel work seen out
    | some p =>
      match p.instr.map fun i => pairStepAt i x.2 with
      | none => pairTrace ps rets bm fuel work seen out
      | some r =>
        let (st, out1) := match r with
          | .error k => (x.2, (x.1, k) :: out)
          | .ok st => (st, out)
        let new := ((pairNext rets bm p).map fun q => (q, st)).filter fun y => !seen.contains y
        pairTrace ps rets bm fuel (new.eraseDups ++ work) (new.eraseDups ++ seen) out1

/-- BARPAIR. Each position is traced once for each set of pending arrivals. -/
def Code.barPair (c : Code) : List Found :=
  c.each fun k ps =>
    let bm := (c.bitmap.filter k.has).map (2 * ·)
    let start : List PairPoint := ((k.first :: c.targets.filter k.has).eraseDups).map fun w => (2 * w, [])
    pairTrace ps ((returnPoints ps).map (2 * ·)) bm (2 ^ 136 * (ps.length + 1)) start start []

/-- B must be 1 at an instruction (R105, R144). -/
def needsB (i : Instr) : Bool :=
  i.blocking || (match i with
    | .brx _ _ | .ret _ => true
    | _ => false)

/-- B is clear at a position where it must be set whatever path reaches it (R105, R144). -/
def Placed.unclosed (p : Placed) : Bool := !p.b && p.instr.any needsB

/-- Trace the runs of a kernel: positions with the count before them (R145). A path goes on past a fault as the device
would, so that a fault at a lower position beyond it is found too (R144). -/
def runTrace (ps : List Placed) : Nat → List (Nat × Nat) → List (Nat × Nat) → List (Nat × Nat) → List (Nat × Nat)
  | 0, _, _, out => out
  | _, [], _, out => out
  | fuel + 1, x :: work, seen, out =>
    match ps.find? fun p => p.pos == x.1 with
    | none => runTrace ps fuel work seen out
    | some p =>
      let n := x.2 + 1
      let out1 := if p.unclosed || (!p.b && n == 24) then (x.1, n) :: out else out
      let ends := p.instr.any Instr.blocking || n == 24 || (p.last && p.b)
      let new := (p.flow.map fun q => (q, if ends then 0 else n)).filter fun y => !seen.contains y
      runTrace ps fuel (new.eraseDups ++ work) (new.eraseDups ++ seen) out1

/-- RUNLENGTH. At a position that no counted path reaches, the rule states no count: DETAIL is a free value there
(DESIGN CHOICE, log 57). -/
def Code.runLength (c : Code) : List Found :=
  c.each fun k ps =>
    let start := (c.bitmap.filter k.has).map fun w => (2 * w, 0)
    let found := runTrace ps (25 * (ps.length + 1) + start.length) start start []
    found ++ (ps.filter fun p => p.unclosed && !found.any fun f => f.1 == p.pos).map fun p =>
      (p.pos, Config.uncounted p.pos)

/-- STRANDWRITE. DETAIL holds the low 21 bits of the first writer's relative position, which can need more (DESIGN CHOICE,
log 54). `first` holds the registers that the stretch has written, with strand and position (R147). -/
def strandWrites : List (Nat × Nat × Nat) → List Placed → List (Nat × Nat)
  | _, [] => []
  | first, p :: ps =>
    match p.instr with
    | none => strandWrites first ps
    | some i =>
      match i.place, i.uses with
      | .meeting, _ => strandWrites [] ps
      | .strand k, some u =>
        let gs := u.writes.filterMap fun r => match r with
          | .g n => some n.val
          | _ => none
        let bad := gs.filterMap fun g => (first.find? fun e => e.1 == g && e.2.1 != k.val).map fun e =>
          (p.pos, g + e.2.1 * 2 ^ 8 + (e.2.2 % 2 ^ 21) * 2 ^ 11)
        let add := (gs.filter fun g => !(first.any fun e => e.1 == g)).map fun g => (g, k.val, p.pos)
        bad ++ strandWrites (first ++ add) ps
      | _, _ => strandWrites first ps

/-- STRANDWRITE. -/
def Code.strandWrite (c : Code) : List Found := c.each fun _ ps => strandWrites [] ps

/-- TOOBIG: one block of one warp asks for more than a core holds: 64 general and 32 scalar registers, 16 tiles, 16 windows,
128 named barriers (R24, R137). -/
def Code.tooBig (c : Code) : List Found :=
  c.each fun k _ => if k.ng > 64 || k.ns > 32 || k.tiles > 16 || k.scratch > 16 || k.barriers > 128 then [(noneWord, 0)] else []

/-- The structural checks in their order. -/
def Code.check (c : Code) : Option Verdict :=
  let checks : List (Option Verdict) :=
    [firstFound 4 c.badEntry, firstFound 5 c.illegalWord, firstFound 6 c.badTarget, firstFound 7 c.fallOff,
     firstFound 8 c.regBound, firstFound 9 c.barDepth, firstFound 10 c.barPair, firstFound 11 c.runLength,
     firstFound 12 c.strandWrite, firstFound 13 c.tooBig]
  (checks.find? Option.isSome).getD none

/-! ### Admission (R140, R141) -/

/-- The code section of an object in its address space: word address and number of words, by its kernels' code base. -/
def CodeObject.codeEnd (o : CodeObject) : Nat := o.code + o.codeLen

/-- OVERLAP (R141). -/
def State.overlapFault (s : State) (asid base code len : Nat) : Option Verdict :=
  let mine := s.objects.filter fun o => o.asid == asid
  let hits := mine.filterMap fun o =>
    if overlap code len o.code o.codeLen then some ((max code o.code - code) / 4) else none
  if mine.any fun o => o.base == base then some (.whole 15 noneWord)
  else match minBy id hits with
    | some d => some (.whole 15 d)
    | none => if mine.length ≥ 256 then some (.whole 15 0xFFFF_FFFE) else none

/-- The kernels with their target words. -/
def Code.admitted (c : Code) : List Kernel := c.kernels.map fun k => { k.1 with targets := c.bitmap.filter k.1.has }

/-- The whole of admission: the status and, where it is admitted, the object (R140). -/
def State.admitObject (s : State) (asid base : Nat) : State × Verdict :=
  let (h, s1) := s.objectBytes asid base 64
  if fieldOf h 0 4 != 0x3147_574B || fieldOf h 4 2 != 1 then (s1, .whole 1 0)
  else if base % 4 != 0 then (s1, .whole 2 noneWord)
  else
    let bad := layoutFaults h
    let (tb, s2) := if bad.contains 24 then ([], s1)
      else s1.objectBytes asid (base + fieldOf h 24 4) (4 * fieldOf h 28 4)
    let targets := (bytesToWords (tb.length / 4) tb).map BitVec.toNat
    match minBy id (bad ++ if ascending targets then [] else [24]) with
    | some d => (s2, .whole 2 d)
    | none =>
      let nk := fieldOf h 20 4
      let nw := fieldOf h 12 4 / 4
      let code := base + fieldOf h 8 4
      let (kt, s3) := s2.objectBytes asid (base + fieldOf h 16 4) (32 * nk)
      let (data, s4) := if fieldOf h 32 4 == 0 then ([], s3)
        else s3.objectBytes asid (base + fieldOf h 32 4) (fieldOf h 36 4)
      match kernelsOf nw (fieldOf h 32 4) data ((List.range nk).map fun i => (kt.drop (32 * i)).take 32) [] with
      | .error v => (s4, v)
      | .ok ks =>
        let (cb, s5) := s4.objectBytes asid code (4 * nw)
        let c := Code.build (bytesToWords nw cb) ks targets
        match c.check with
        | some v => (s5, v)
        | none =>
          match s5.overlapFault asid base code (4 * nw) with
          | some v => (s5, v)
          | none =>
            let o : CodeObject :=
              { asid := asid, base := base, code := code, codeLen := 4 * nw, kernels := c.admitted, withdrawing := none }
            ({ s5 with objects := s5.objects ++ [o] }, ⟨0, noneWord, noneWord, 0⟩)

end Sys2Proof.Machine
end

