-- ==== Sys2Proof/Machine/Events.lean ====
section
/-!
DEFINITION. Host memory, root pages and event rings (R448, R450, R456).
-/

namespace Sys2Proof.Machine

open Sys2Proof

/-- Bytes of host memory. -/
def State.hostRead (s : State) (a n : Nat) : List Byte := cellReads s.hostMem a n

/-- A little-endian number in host memory. -/
def State.hostNum (s : State) (a n : Nat) : Nat := leNat (s.hostRead a n)

/-- Write bytes to host memory. -/
def State.hostWrite (s : State) (a : Nat) (bs : List Byte) : State := { s with hostMem := cellWrites s.hostMem a bs }

/-- Replace a function. -/
def State.setFunc (s : State) (fn : Fin 65) (f : Function) : State := { s with funcs := s.funcs.set fn f }

/-- Management is ready: the package runs an image (R451, R452). -/
def State.mgmtUp (s : State) : Bool := s.mgmt.boot == .running || s.mgmt.boot == .recovered

/-- The bytes of an event (R456); bit 31 of the detail says that an earlier event was overwritten. -/
def eventBytes (kind obj detail time : Nat) (lost : Bool) : List Byte :=
  leBytes 2 kind ++ leBytes 2 obj ++ leBytes 4 (detail % 2 ^ 31 + b2n lost * 2 ^ 31) ++ leBytes 8 time
    ++ List.replicate 16 0

/-- Write an event to a function's ring. A function without a root page has no ring. Where the ring is full the oldest
unread event is overwritten, and the next event says so. A field that the spec does not state is a free value (log 3). -/
def State.putEvent (s : State) (fn : Fin 65) (kind : Nat) (obj detail : Option Nat) : State :=
  let f := s.funcs[fn]
  if f.root == 0 then s
  else
    let free := Config.eventField s.freeIndex
    let cb := f.root + 128
    let ring := s.hostNum cb 8
    let n := 2 ^ (s.hostNum (cb + 8) 1 % 32)
    let head := s.hostNum (cb + 16) 8
    let tail := s.hostNum (cb + 24) 8
    let s1 := s.hostWrite (ring + 32 * (tail % n)) (eventBytes kind (obj.getD (free false) % 2 ^ 16) (detail.getD (free true)) s.time f.evLost)
    let s2 := s1.hostWrite (cb + 24) (leBytes 8 (tail + 1))
    ({ s2 with freeIndex := s2.freeIndex + 1 } : State).setFunc fn { f with evLost := tail ≥ head + n }

/-- Write an event while the PCI Express link is up. (DESIGN CHOICE, log 21.) -/
def State.postEvent (s : State) (fn : Fin 65) (kind : Nat) (obj detail : Option Nat) : State :=
  if s.mgmt.pciUp then s.putEvent fn kind obj detail else s

/-- The virtual function of an interface. -/
def fnOfVi (vi : Nat) : Fin 65 := Fin.ofNat 65 (vi + 1)

/-- The interface of a virtual function; none for the physical function. -/
def viOfFn (fn : Fin 65) : Option Nat := if fn.val == 0 then none else some (fn.val - 1)

/-- Kinds of events (R456). -/
def evREADY : Nat := 1
def evASKILL : Nat := 2
def evQERR : Nat := 3
def evLINKDOWN : Nat := 4
def evREPLACE : Nat := 5
def evOVER : Nat := 6
def evBARFAULT : Nat := 7
def evNOTIFYFAULT : Nat := 8

end Sys2Proof.Machine
end

