-- ==== Sys2Proof/Machine/Queues.lean ====
section
/-!
DEFINITION. Launch queues, records and dependences (R359-R369), completion (R385), admission and withdrawal records
(R139-R141, R364), LAUNCH, SUCC and PWAIT (R388-R392).
-/

namespace Sys2Proof.Machine

open Sys2Proof

/-! ### Queues (R360-R362) -/

/-- Replace a queue. -/
def State.setQueue (s : State) (q : Queue) : State :=
  { s with queues := replaceAll (fun k => k.vi == q.vi && k.q == q.q) (fun _ => q) s.queues }

/-- Replace a launch. -/
def State.setLaunch (s : State) (l : Launch) : State :=
  { s with launches := replaceAll (fun k => k.id == l.id) (fun _ => l) s.launches }

/-- A queue takes no more records: ERR is set and management is told (R362). -/
def State.queueErr (s : State) (q : Queue) : State :=
  let flags := (s.readNum q.asid (q.block.toNat + 9) 1).getD 0
  let s0 := if q.head < q.seen then s.tryWriteVa q.asid (q.block.toNat + 16) (leBytes 8 q.head) else s
  let s1 := s0.tryWriteVa q.asid (q.block.toNat + 9) (leBytes 1 (flags ||| 2))
  (s1.setQueue { q with err := true }).postEvent (fnOfVi q.vi) evQERR (some q.q) none

/-- TAIL: the device's own count, or what the control block holds; none where it cannot be read. -/
def State.tailOf (s : State) (q : Queue) : Option Nat :=
  if q.dev then some q.tail else s.readNum q.asid (q.block.toNat + 24) 8

/-- The address of ring slot j. -/
def Queue.slotAddr (q : Queue) (j : Nat) : Nat := q.ring.toNat + 256 * (j % 2 ^ q.log2n)

/-- The highest number of operations completed without a gap. -/
def topDone (statuses : List OpStatus) (counter : Nat) : Nat :=
  statuses.foldl (fun c _ => if statuses.any fun x => x.op == c + 1 then c + 1 else c) counter

/-- An operation completes on its queue's counter, and DONE is written after the advance (R360, R385). -/
def State.completeOp (s : State) (qr : QueueRef) (op status : Nat) (kernel : Bool) : State :=
  match s.queue? qr.vi qr.q with
  | none => s
  | some q =>
    let sts := q.statuses ++ [⟨op, status, kernel⟩]
    let q1 := { q with statuses := sts, counter := topDone sts q.counter }
    (s.setQueue q1).tryWriteVa q.asid (q.block.toNat + 32) (leBytes 8 q1.counter)

/-! ### Dependences (R366-R368) -/

/-- The status of an operation for PWAIT (R391): 0 where it was no kernel launch and no unknown record. -/
def State.opStatus (s : State) (c : CtxName) (op : Nat) : Nat :=
  match c with
  | .queue vi q => ((s.queue? vi q).bind fun k => (k.statuses.find? fun x => x.op == op).map fun x => x.status).getD 0
  | _ => 0

/-- The dependence is met. -/
def State.depMet (s : State) (d : Dep) : Bool := d.met.isSome || (s.counterOf d.ctx).any fun n => d.value ≤ n

/-- Every gang of a launch has executed SUCC or retired. -/
def State.allMarked (s : State) (l : Launch) : Bool :=
  l.placed == l.nGangs &&
    (s.gangs ++ s.saved.flatMap fun u => u.gangs).all fun g =>
      g.succ || !((s.level? g.level).any (fun d => d.launch == l.id)
        || s.saved.any fun u => u.launch == l.id && u.gangs.any fun h => h.id == g.id)

/-- The operation a dependence names has released it early (R368). -/
def State.depEarly (s : State) (d : Dep) : Bool :=
  d.early && match d.ctx with
    | .queue vi q =>
      (s.launches.any fun l => l.queue.vi == vi && l.queue.q == q && l.op == d.value && s.allMarked l)
        || (s.queue? vi q).any fun k => k.statuses.any fun x => x.op == d.value && x.kernel
    | _ => false

/-- Every dependence is met or released early. -/
def State.depsOk (s : State) (ds : List (Option Dep)) : Bool :=
  ds.all fun d => match d with
    | none => true
    | some d => s.depMet d || s.depEarly d

/-- Every dependence is met: a record that starts nothing early. -/
def State.depsMet (s : State) (ds : List (Option Dep)) : Bool :=
  ds.all fun d => match d with
    | none => true
    | some d => s.depMet d

/-- The dependences of a record (R366): an invalid handle is an error with its slot. -/
def State.readDeps (s : State) (q : Queue) (r : Rec256) (op : Nat) : Except Nat (List (Option Dep)) :=
  let slot := fun n =>
    let h := w64 (recField r (64 + 16 * n) 8)
    let w := recField r (72 + 16 * n) 8
    if bits h 63 60 == 0 then some none
    else (s.ctxNamed q.vi q.asid h).map fun c =>
      some { handle := h, ctx := c, value := w % 2 ^ 63, early := w / 2 ^ 63 == 1, met := none }
  let serial := recField r 1 1 % 4
  let last : Option Dep :=
    if serial == 0 || serial == 3 then none
    else some { handle := queueHandle q.vi q.q, ctx := .queue q.vi q.q, value := op - 1, early := serial == 2, met := none }
  match (List.range 3).find? fun n => (slot n).isNone with
  | some n => .error n
  | none => .ok ((List.range 3).map (fun n => (slot n).getD none) ++ [last])

/-! ### Completion of a launch (R385) -/

/-- Status codes of R385. -/
def stDONE : Nat := 0
def stBADRECORD : Nat := 1
def stNOOBJECT : Nat := 2
def stUNPLACEABLE : Nat := 3
def stFLOOR : Nat := 4
def stDEPFAULT : Nat := 5
def stFOLDEXH : Nat := 6
def stKILLED : Nat := 7
def stDIERESET : Nat := 8

/-- REFCOST (R375). -/
def Launch.refCost (l : Launch) : Nat := l.refNum / l.refDen

/-- The completion record. -/
def completionBytes (l : Launch) (time status detail : Nat) : List Byte :=
  leBytes 4 status ++ leBytes 4 detail ++ leBytes 8 l.op ++ leBytes 8 (l.tFirst.getD 0) ++ leBytes 8 time
    ++ leBytes 8 l.refCost ++ leBytes 4 l.refusals ++ leBytes 4 l.held ++ List.replicate 16 0

/-- The completion record is written where STATUSADDR allows it; a misaligned one is not written to. -/
def State.writeCompletion (s : State) (l : Launch) (status detail : Nat) : State :=
  let a := recField l.record 40 8
  if a == 0 || a % 64 != 0 then s else s.tryWriteVa l.asid a (completionBytes l s.time status detail)

/-- Write the status area of an admission or withdrawal. -/
def State.writeVerdict (s : State) (asid : Nat) (addr : W64) (v : Verdict) : State := s.tryWriteVa asid addr.toNat v.bytes

/-- A pending NOP, ADMIT or WITHDRAW operation ends with DEPFAULT of a slot (R364). -/
def State.failOp (s : State) (o : PendingOp) (slot : Nat) : State :=
  let asid := ((s.queue? o.queue.vi o.queue.q).map fun q => q.asid).getD 0
  let s1 := if o.kind == .nop then s else s.writeVerdict asid o.status (.whole 0x11 slot)
  ({ s1 with pendingOps := s1.pendingOps.filter fun p => p.id != o.id }).completeOp o.queue o.op 0 false

/-- A dependence on a released context: met where its value had been reached, and otherwise a fault of its slot. -/
def State.latchDeps (s : State) (c : CtxName) (ds : List (Option Dep)) : List (Option Dep) :=
  let latch := fun (d : Dep) =>
    if d.ctx == c && d.met.isNone && s.depMet d then { d with met := some (s.opStatus d.ctx d.value) } else d
  ds.map fun d => d.map latch

/-- The first slot that waits on a released context. -/
def State.brokenSlot (s : State) (c : CtxName) (ds : List (Option Dep)) : Option Nat :=
  ds.findIdx? fun d => match d with
    | some d => d.ctx == c && !s.depMet d
    | none => false

/-- A context is released: TLWAITs on it end, records that depend on it keep what was met, and the others end with
DEPFAULT, launches that it had released early among them (R325, R364, R367). -/
def State.releaseCtx (s : State) (c : CtxName) : State :=
  let s1 := s.releaseWaits c
  let bad := s1.launches.filterMap fun l =>
    if l.ending.isNone then (s1.brokenSlot c l.deps).map fun n => (l.id, n) else none
  let badOps := s1.pendingOps.filterMap fun o =>
    if o.started then none else (s1.brokenSlot c o.deps).map fun n => (o, n)
  let ls := s1.launches.map fun (l : Launch) =>
    { l with deps := s1.latchDeps c l.deps
             ending := match bad.find? fun b => b.1 == l.id with
               | some b => some (stDEPFAULT, b.2)
               | none => l.ending }
  let ops := s1.pendingOps.map fun (o : PendingOp) => { o with deps := s1.latchDeps c o.deps }
  badOps.foldl (fun s b => s.failOp b.1 b.2) { s1 with launches := ls, pendingOps := ops }

/-! ### Checks of a kernel record (R363, R365) -/

/-- Byte offsets at fault in a kernel record (check 1 of R365). -/
def recordFaults (r : Rec256) : List Nat :=
  let f := recField r
  let dep := fun n => if f (64 + 16 * n) 8 / 2 ^ 60 == 0 && f (72 + 16 * n) 8 != 0 then [72 + 16 * n] else []
  let win := fun w => if windowOk (w64 (f (128 + 8 * w) 8)) then [] else [128 + 8 * w]
  (if f 1 1 % 4 == 3 || f 1 1 / 32 != 0 then [1] else []) ++ (if f 2 1 > 7 then [2] else [])
    ++ (if f 3 1 > 7 then [3] else []) ++ (if f 4 1 > 98 then [4] else []) ++ (if f 5 1 > 100 then [5] else [])
    ++ (if f 6 1 > 64 then [6] else [])
    ++ (if f 7 1 ≥ 128 || (f 11 1 % 16 == 0 && (f 7 1).testBit 4) then [7] else [])
    ++ (if f 12 2 ≥ 4096 then [12] else []) ++ (if f 14 2 != 0 then [14] else []) ++ (if f 28 4 != 0 then [28] else [])
    ++ (if f 40 8 % 64 != 0 then [40] else []) ++ (if f 48 8 % 2 ^ 20 != 0 then [48] else [])
    ++ (if f 56 8 != 0 then [56] else []) ++ (List.range 3).flatMap dep
    ++ (if f 112 16 != 0 then [112] else []) ++ (List.range 16).flatMap win

/-- Byte offsets at fault in an ADMIT or WITHDRAW record (R364). -/
def admitFaults (r : Rec256) : List Nat :=
  let f := recField r
  let dep := fun n => if f (64 + 16 * n) 8 / 2 ^ 60 == 0 && f (72 + 16 * n) 8 != 0 then [72 + 16 * n] else []
  let zero := fun i => if (2 ≤ i && i < 16) || (24 ≤ i && i < 40) || (48 ≤ i && i < 64) || 112 ≤ i then f i 1 != 0 else false
  (if f 1 1 > 2 then [1] else []) ++ (List.range 3).flatMap dep ++ (List.range 256).filter zero

/-- The launch that a kernel record asks for, before its checks. -/
def launchOf (id : Nat) (q : Queue) (op : Nat) (r : Rec256) : Launch :=
  { id := id, queue := ⟨q.vi, q.q⟩, op := op, asid := q.asid, part := q.part, record := r, obj := recField r 16 8
    kernel := recField r 24 4, depth := 0, poolMiB := 0, prio := recField r 2 1 % 8, deps := [none, none, none, none]
    nGangs := recField r 8 3 + 1, dies := 0, placed := 0, doneDies := [], retired := 0, eligibleAt := none, refusals := 0, held := 0
    heldBack := false, tFirst := none, refNum := 0, refDen := 1, reserved := [], claim := 0, ending := none }

/-- The kernel of a record: admitted and not being withdrawn (check 2). -/
def State.kernelFor (s : State) (q : Queue) (r : Rec256) : Option Kernel :=
  (s.objects.find? fun o => o.asid == q.asid && o.base == recField r 16 8 && o.withdrawing.isNone).bind fun o =>
    o.kernels[recField r 24 4]?

/-- VFIFO of the record. -/
def Launch.vfifo (l : Launch) : Bool := (recField l.record 7 1).testBit 4

/-- Checks 3 of R365: the byte offset at fault. -/
def kernelFault (r : Rec256) (k : Kernel) : Option Nat :=
  if k.depth == 0 && (recField r 7 1).testBit 4 then some 7
  else if (recField r 48 8 != 0) != (k.poolMiB != 0) then some 48
  else none

/-! ### ADMIT and WITHDRAW (R139-R141, R364) -/

/-- The operation is over. -/
def State.endOp (s : State) (o : PendingOp) : State :=
  ({ s with pendingOps := s.pendingOps.filter fun p => p.id != o.id }).completeOp o.queue o.op 0 false

/-- Address space of a pending operation. -/
def State.opAsid (s : State) (o : PendingOp) : Nat := ((s.queue? o.queue.vi o.queue.q).map fun q => q.asid).getD 0

/-- The code-store copies of a range of words of an address space, on some core groups, are gone (R141, R431). -/
def State.dropCode (s : State) (p : CodeWord → Bool) (cgs : Fin 64 → Bool) : State :=
  { s with cgs := Vector.ofFn fun g =>
      if cgs g then { s.cgs[g] with store := s.cgs[g].store.filter fun e => !p e } else s.cgs[g] }

/-- A withdrawal of an object that is being withdrawn already: it waits until that withdrawal is complete (R141). -/
def State.behindWithdraw (s : State) (o : PendingOp) : Bool :=
  o.kind == .withdraw && s.objects.any fun c => c.asid == s.opAsid o && c.base == o.base.toNat && c.withdrawing.isSome

/-- A withdrawal starts, its dependences met: the object is being withdrawn from now on, or none is there and the operation ends (R141).
(DESIGN CHOICE, log 55.) -/
def State.startWithdraw (s : State) (o : PendingOp) : State :=
  let asid := s.opAsid o
  if s.behindWithdraw o then s
  else if s.objects.any fun c => c.asid == asid && c.base == o.base.toNat then
    { s with
      objects := replaceAll (fun c => c.asid == asid && c.base == o.base.toNat)
        (fun c => { c with withdrawing := some o.id }) s.objects
      pendingOps := replaceAll (fun p => p.id == o.id) (fun p => { p with started := true }) s.pendingOps }
  else (s.writeVerdict asid o.status (.whole 0x0E 0)).endOp o

/-- WITHDRAWAL_COMPLETE: no launch of the object is left, and no code store holds a copy of its words. -/
def State.withdrawn (s : State) (op : Nat) : Option State :=
  match s.pendingOps.find? fun o => o.id == op && o.started with
  | none => none
  | some o =>
    match s.objects.find? fun c => c.withdrawing == some o.id with
    | none => none
    | some c =>
      if s.launches.any fun l => l.asid == c.asid && l.obj == c.base then none
      else
        let lo := c.code / 4
        let inObj := fun (e : CodeWord) => e.asid == c.asid && lo ≤ e.wa && e.wa < lo + c.codeLen / 4
        let s1 := s.dropCode inObj fun _ => true
        let s2 := { s1 with objects := s1.objects.filter fun d => !(d.asid == c.asid && d.base == c.base) }
        some ((s2.writeVerdict c.asid o.status ⟨0, noneWord, noneWord, 0⟩).endOp o)

/-- The action of a pending operation whose dependences are met. -/
def State.runOp (s : State) (o : PendingOp) : State :=
  match o.kind with
  | .nop => s.endOp o
  | .admission =>
    let (s1, v) := s.admitObject (s.opAsid o) o.base.toNat
    (s1.writeVerdict (s1.opAsid o) o.status v).endOp o
  | .withdraw =>
    let s1 := s.startWithdraw o
    (s1.withdrawn o.id).getD s1

/-- WITHDRAWAL_COMPLETE. -/
def execWithdrawalComplete (op : Nat) (s : State) : Out := event s (s.withdrawn op)

/-! ### Taking a record (R361-R363) -/

/-- What stands at the head of a queue: no record to take, an error that stops the queue (R362), or a record. -/
inductive Head where
  | nothing
  | error (s : State)
  | taken (s : State) (r : Rec256)
  deriving DecidableEq, Repr

/-- The record at the head of a queue: TAIL is looked at when every record up to the last TAIL has been taken (R361). -/
def State.headRecord (s : State) (q : Queue) : Head :=
  if q.err then .nothing
  else match (if q.head < q.seen then some q.seen else s.tailOf q) with
    | none => .nothing
    | some tail =>
      if tail < q.head || tail > q.head + 2 ^ q.log2n then .error (s.queueErr q)
      else if tail == q.head then .nothing
      else match s.readVa none q.asid (q.slotAddr q.head) 256 with
        | .error _ => .error ((s.readTouch q.asid (q.slotAddr q.head) 256).queueErr q)
        | .ok (bs, s1) => .taken (s1.setQueue { q with seen := tail }) (recOfBytes bs)

/-- HEAD moves past the record; it is written after the last record up to TAIL (R361). -/
def State.advanceHead (s : State) (q : Queue) : State :=
  let s1 := s.setQueue { q with head := q.head + 1 }
  if q.head + 1 < q.seen then s1 else s1.tryWriteVa q.asid (q.block.toNat + 16) (leBytes 8 (q.head + 1))

/-- A NOP, ADMIT or WITHDRAW record is taken. -/
def State.takeOp (s : State) (q : Queue) (kind : PendingRecord) (r : Rec256) : State :=
  let op := q.head + 1
  let o : PendingOp :=
    { id := s.nextId, queue := ⟨q.vi, q.q⟩, op := op, kind := kind, deps := [], base := w64 (recField r 16 8)
      status := w64 (recField r 40 8), started := false }
  let s1 := { s.advanceHead q with nextId := s.nextId + 1 }
  match (if kind == .nop then none else minBy id (admitFaults r)) with
  | some d => (s1.writeVerdict q.asid o.status (.whole 0x10 d)).completeOp o.queue op 0 false
  | none =>
    match s1.readDeps q r op with
    | .error n => s1.failOp o n
    | .ok ds =>
      let o1 := { o with deps := ds }
      let s2 := { s1 with pendingOps := s1.pendingOps ++ [o1] }
      if s2.depsOk ds then s2.runOp o1 else s2

/-- A pending operation of a kind and queue acts once its dependences are met or released early (R363, R364). -/
def State.nextOp (s : State) (q : Queue) (kind : PendingRecord) : Option State :=
  (s.pendingOps.find? fun o => o.queue == ⟨q.vi, q.q⟩ && o.kind == kind && !o.started && s.depsOk o.deps && !s.behindWithdraw o).map
    s.runOp

/-- A die reports ready, and its dispatch engine is the package coordinator (R19). -/
def State.coordinated (s : State) : Bool := (List.finRange 4).any fun d => s.dies[d].ready

/-- One record event of a queue: the record at its head is taken by `k` where its KIND is wanted, or else `other`; the coordinator does
both. -/
def State.recordEvent (s : State) (qr : QueueRef) (want : Nat → Bool) (k : State → Queue → Rec256 → State)
    (other : Queue → Option State) : Option State :=
  match (if s.coordinated then s.queue? qr.vi qr.q else none) with
  | none => none
  | some q =>
    match s.headRecord q with
    | .nothing => other q
    | .error s1 => some s1
    | .taken s1 r =>
      if want (recField r 0 1) then
        match s1.queue? qr.vi qr.q with
        | some q1 => some (k s1 q1 r)
        | none => none
      else other q

/-- NOP_RECORD. (DESIGN CHOICE, log 20.) -/
def execNopRecord (q : QueueRef) (s : State) : Out :=
  event s (s.recordEvent q (· == 0) (fun s q r => s.takeOp q .nop r) fun k => s.nextOp k .nop)
/-- ADMIT_RECORD. -/
def execAdmitRecord (q : QueueRef) (s : State) : Out :=
  event s (s.recordEvent q (· == 2) (fun s q r => s.takeOp q .admission r) fun k => s.nextOp k .admission)
/-- WITHDRAW_RECORD. -/
def execWithdrawRecord (q : QueueRef) (s : State) : Out :=
  event s (s.recordEvent q (· == 3) (fun s q r => s.takeOp q .withdraw r) fun k => s.nextOp k .withdraw)
/-- UNKNOWN_RECORD: KIND 4 to 255 completes at once as BADRECORD (R363). -/
def execUnknownRecord (q : QueueRef) (s : State) : Out :=
  event s (s.recordEvent q (· ≥ 4) (fun s q _ => (s.advanceHead q).completeOp ⟨q.vi, q.q⟩ (q.head + 1) stBADRECORD false)
    fun _ => none)

/-! ### LAUNCH, SUCC, PWAIT (R388-R391) -/

/-- The device appends a record to a queue (R361, R389). -/
def State.append (s : State) (q : Queue) (bs : List Byte) : State :=
  let s1 := s.tryWriteVa q.asid (q.slotAddr q.tail) bs
  (s1.setQueue { q with tail := q.tail + 1 }).tryWriteVa q.asid (q.block.toNat + 24) (leBytes 8 (q.tail + 1))

/-- LAUNCH. -/
def execLaunch (b : Bool) (d q r : Fin 32) (s : State) : Out :=
  meetInstr (.launch b d q r) s fun x =>
    let h := x.w.s[q]
    let named := match s.warpCtx x.w h with
      | some (.queue vi k) => (s.queue? vi k).bind fun k => if k.dev then some k else none
      | _ => none
    match named with
    | none => badHandle s x h
    | some k =>
      match s.recordRead (s.agentOf x.w (firstLane x.f.lanes)) (lateWait s x) x.w.s[r] 256 with
      | .error e => stopMeeting s x e false
      | .ok (bs, s1) =>
        if k.tail - k.head ≥ 2 ^ k.log2n then meetDone s1 x (x.w.writeS d 0)
        else
          releaseThen s1 x .package fun s2 y =>
            meetDone (s2.append k bs) y (y.w.writeS d (w64 (k.tail + 1)))

/-- SUCC: it marks the executing gang (R368, R390). -/
def execSucc (b : Bool) (s : State) : Out :=
  meetInstr (.succ b) s fun x =>
    match s.gangOf x.w with
    | none => meetDone s x x.w
    | some g =>
      meetDone { s with gangs := replaceAll (fun k => k.id == g) (fun k => { k with succ := true }) s.gangs } x x.w

/-- The status of a slot for PWAIT. -/
def State.depStatus (s : State) : Option Dep → Nat
  | none => 0
  | some d => d.met.getD (s.opStatus d.ctx d.value)

/-- PWAIT on some slots: the first nonzero status of those slots. -/
def pwaitOn (i : Instr) (d : Fin 32) (slots : List Nat) (s : State) : Out :=
  meetInstr i s fun x =>
    let deps := ((s.owner? x.w).map fun o => o.launch.deps).getD []
    let ds := slots.map fun n => (deps[n]?).getD none
    if s.depsMet ds then
      meetDone s x (x.w.writeS d (w64 (((ds.map s.depStatus).find? (· != 0)).getD 0)))
    else waitRetry s x

/-- PWAIT. -/
def execPwait (b : Bool) (d : Fin 32) (n : Fin 4) (s : State) : Out := pwaitOn (.pwait b d n) d [n.val] s
/-- PWAIT.ALL. -/
def execPwaitAll (b : Bool) (d : Fin 32) (s : State) : Out := pwaitOn (.pwaitAll b d) d [0, 1, 2, 3] s

end Sys2Proof.Machine
end

