-- ==== Sys2Proof/Machine/Place.lean ====
section
/-!
DEFINITION. Units and placement (R370-R379): what a gang needs, where it fits, heat and floors, claims, refusal and
reservation; link shares and windows (R375, R380, R381, R384); the check of a kernel record (R365).
-/

namespace Sys2Proof.Machine

open Sys2Proof

/-! ### What a launch asks for (R363, R370) -/

/-- What one block needs of its core. -/
structure Need where
  warps : Nat
  tiles : Nat
  bars : Nat
  tags : Nat
  banks : Nat
  deriving DecidableEq, Repr

/-- Blocks per gang and warps per block. -/
def Launch.nBlocks (l : Launch) : Nat := recField l.record 11 1 % 16 + 1
def Launch.nWarps (l : Launch) : Nat := recField l.record 11 1 / 16 + 1
/-- Heat units of a block (R373). -/
def Launch.heat (l : Launch) : Nat := recField l.record 3 1 % 8 * l.nWarps
/-- FLOOR, LSHARE, VDIR. -/
def Launch.floor (l : Launch) : Nat := recField l.record 4 1
def Launch.lshare (l : Launch) : Nat := recField l.record 5 1
def Launch.vdown (l : Launch) : Bool := (recField l.record 7 1).testBit 5

/-- The needs of a block of a launch, with its kernel. -/
def Launch.need (l : Launch) (k : Kernel) : Need :=
  { warps := l.nWarps, tiles := k.tiles, bars := k.barriers, tags := recField l.record 6 1
    banks := recField l.record 12 2 % 4096 }

/-- The needs of a block in one resource only. -/
def Need.only (n : Need) (r : Nat) : Need :=
  { warps := if r = 1 then n.warps else 0, tiles := if r = 2 then n.tiles else 0, bars := if r = 3 then n.bars else 0
    tags := if r = 4 then n.tags else 0, banks := if r = 5 then n.banks else 0 }

/-- Bits of a number below n, ascending. -/
def bitsBelow (n m : Nat) : List Nat := (List.range n).filter fun i => m.testBit i

/-- The interface's logical dies on which a partition has core groups. -/
def partDies (p : Partition) : List Nat := (List.range 4).filter fun d => bits p.cgs (16 * d + 15) (16 * d) != 0

/-- GRID.INFO.DIES when a launch is taken (R370): it stays what it was while the launch lasts (R29). -/
def diesAsked (l : Launch) (p : Partition) : BitVec 4 :=
  let dies := recField l.record 7 1 % 16
  BitVec.ofNat 4 (sumBy (fun d => if dies == 0 || dies.testBit d then 2 ^ d else 0) (partDies p))

/-- GRID.INFO.DIES as logical dies. -/
def Launch.dieList (l : Launch) : List Nat := (List.range 4).filter fun d => l.dies.getLsbD d

/-- The package core groups of a partition on a package die, in service, ascending (R16, R371). -/
def State.partCgs (s : State) (i : Iface) (p : Partition) (pd : Nat) : List Nat :=
  match i.logicalDie pd with
  | none => []
  | some d =>
    ((List.range 16).filter fun g =>
      p.cgs.getLsbD (16 * d + g)).filterMap fun g => (i.packageCg pd g).bind fun pg =>
        if (s.dies[Fin.ofNat 4 pd].cgMask).getLsbD pg then some (16 * pd + pg) else none

/-! ### Free resources of a core (R371) -/

/-- What a core has free: warp slots, tiles, named barriers, tags, banks that can be claimed, CACHE banks; whether it can be
used at all. -/
structure CoreCap where
  on : Bool
  warps : Nat
  tiles : Nat
  bars : Nat
  tags : Nat
  banks : Nat
  caches : Nat
  deriving DecidableEq, Repr

/-- An empty core that is on. -/
def CoreCap.whole : CoreCap :=
  { on := true, warps := 48, tiles := 16, bars := 128, tags := 64, banks := 4095, caches := 12 }

/-- The free resources of a core. -/
def State.coreCap (s : State) (core : Nat) : CoreCap :=
  let bs := s.blocks.filter fun b => b.core == core
  let bank := fun (k : Fin 12) => s.bank core k
  let free := (List.finRange 12).filter fun k => (bank k).mode == .cache && (bank k).holder.isNone && (bank k).switching.isNone
  { on := core % 2 == 0 || (s.pair core).gate == .on
    warps := 48 - (s.warps.filter fun w => w.core == core).length
    tiles := 16 - sumBy (fun b => b.tiles.length) bs
    bars := 128 - sumBy (fun b => b.named) bs
    tags := 64 - sumBy (fun b => b.tags) bs
    banks := sumBy (fun k => 2 ^ k.val) free
    caches := s.cacheBanks core }

/-- The core can take a block. -/
def CoreCap.takes (c : CoreCap) (n : Need) : Bool :=
  c.on && n.warps ≤ c.warps && n.tiles ≤ c.tiles && n.bars ≤ c.bars && n.tags ≤ c.tags && n.banks &&& c.banks == n.banks
    && (bitsBelow 12 n.banks).length < c.caches

/-- The core after it has taken a block. -/
def CoreCap.less (c : CoreCap) (n : Need) : CoreCap :=
  { c with warps := c.warps - n.warps, tiles := c.tiles - n.tiles, bars := c.bars - n.bars, tags := c.tags - n.tags
           banks := c.banks - (c.banks &&& n.banks), caches := c.caches - (bitsBelow 12 n.banks).length }

/-- Blocks in INGANG order each go to the lowest rank that can take them: the ranks (R371). -/
def assignRest (n : Need) : Nat → List CoreCap → Option (List Nat)
  | 0, _ => some []
  | k + 1, cs =>
    match cs.findIdx? fun c => c.takes n with
    | none => none
    | some r => (assignRest n k (cs.set r ((cs.getD r CoreCap.whole).less n))).map fun rs => r :: rs

/-- The ranks of a gang's blocks; with a vertical pair given, block 0 goes to its producing and block 1 to its consuming
core. -/
def assignGang (n : Need) (blocks : Nat) (pair : Option (Nat × Bool)) (cs : List CoreCap) : Option (List Nat) :=
  match pair with
  | none => assignRest n blocks cs
  | some (p, down) =>
    let a := if down then 2 * p + 1 else 2 * p
    let b := if down then 2 * p else 2 * p + 1
    let cap := fun r => cs.getD r CoreCap.whole
    if (cap a).takes n && (cap b).takes n then
      (assignRest n (blocks - 2) ((cs.set a ((cap a).less n)).set b ((cap b).less n))).map fun rs => a :: b :: rs
    else none

/-! ### Heat and floors (R373, R374, R434) -/

/-- Mult of a temperature as a code 0 to 3 (R434), the temperature in sixteenths of a degree. -/
def multOf (t16 : Nat) : Nat := if t16 ≤ 85 * 16 then 0 else if t16 ≤ 95 * 16 then 1 else if t16 ≤ 105 * 16 then 2 else 3

/-- Cost in per cent of a multiplier code; Avail. -/
def costOf (m : Nat) : Nat := 2 ^ (m + 1)
def availOf (m : Nat) : Nat := 100 - costOf m

/-- The vault above a core group. -/
def State.vaultOf (s : State) (cg : Nat) : Vault := (s.dies[Fin.ofNat 4 (cg / 16)]).vaults[Fin.ofNat 16 (cg % 16)]

/-- TIDLE and DEGPU of a die. -/
def State.tidle (s : State) (die : Nat) : Nat := bits (s.dies[Fin.ofNat 4 die]).therm 23 16
def State.degpu (s : State) (die : Nat) : Nat := bits (s.dies[Fin.ofNat 4 die]).therm 7 0

/-- The multiplier predicted for an empty core group with u heat units. -/
def State.multEmpty (s : State) (die u : Nat) : Nat := multOf (16 * s.tidle die + u * s.degpu die)

/-- Launches with a block resident on a core group. -/
def State.residents (s : State) (cg : Nat) : List Launch :=
  s.launches.filter fun l => s.gangs.any fun g => g.cg == cg && (s.level? g.level).any fun d => d.launch == l.id

/-- The multiplier predicted for a core group after u more heat units; `before` says that a block was resident when the
pass began. -/
def State.multWith (s : State) (cg u : Nat) (before : Bool) : Nat :=
  if before then
    let v := s.vaultOf cg
    max v.mult.val (multOf (16 * v.temp + u * s.degpu (cg / 16)))
  else s.multEmpty (cg / 16) u

/-- What earlier placements of one pass have put on core groups: heat units, and the core groups that were empty when the
pass began. -/
structure PassHeat where
  units : List (Nat × Nat)
  empty : List Nat
  deriving DecidableEq, Repr

/-- Units placed on a core group in this pass. -/
def PassHeat.on (p : PassHeat) (cg : Nat) : Nat := sumBy (fun x => if x.1 == cg then x.2 else 0) p.units

/-- Every floor on a core group holds after u more units (R374). -/
def State.floorsOk (s : State) (l : Launch) (h : PassHeat) (cg u : Nat) : Bool :=
  let m := s.multWith cg (h.on cg + u) (!(s.residents cg).isEmpty && !h.empty.contains cg)
  (l :: s.residents cg).all fun k => k.floor ≤ availOf m

/-! ### Die-wide resources (R353, R371, R377) -/

/-- MiB of L2 on a die. -/
def l2MiB : Nat := 128

/-- The grid has placed a gang on the die and not all have retired. -/
def State.levelOn (s : State) (l : Launch) (pd : Nat) : Option DieLevel :=
  s.levels.find? fun d => d.launch == l.id && d.die.val == pd

/-- MiB pinned on a die by the launches that satisfy a test. -/
def State.pinned (s : State) (pd : Nat) (p : Launch → Bool) : Nat :=
  sumBy (fun d => ((s.launch? d.launch).map fun l => if p l then l.poolMiB else 0).getD 0)
    (s.levels.filter fun d => d.die.val == pd)

/-- Launches whose reservation stands, made before this one's where it has one, and claims die-wide resources of a die (R377). -/
def State.claimants (s : State) (l : Launch) (pd : Nat) : List Launch :=
  s.launches.filter fun k => k.id != l.id && (l.reserved.isEmpty || k.claim < l.claim) && k.reserved.any fun c => c / 16 == pd

/-- A collective context of a die that the launch holds, or may have. -/
def State.collFree (s : State) (l : Launch) (pd : Nat) : Bool :=
  let have_ := (s.collCtxs.filter fun c => c.die.val == pd)
  have_.any (fun c => c.launch == l.id) ||
    have_.length + ((s.claimants l pd).filter fun k => !(have_.any fun c => c.launch == k.id)).length < 16

/-- The pool of a launch's die level can be pinned (R32, R371). -/
def State.poolFits (s : State) (l : Launch) (p : Partition) (pd : Nat) : Bool :=
  l.poolMiB == 0 || (s.levelOn l pd).isSome ||
    let claim := sumBy (fun k => if (s.levelOn k pd).isNone then k.poolMiB else 0) (s.claimants l pd)
    s.pinned pd (fun k => k.queue.vi == l.queue.vi && k.part == l.part) + l.poolMiB ≤ p.poolMax
      && s.pinned pd (fun _ => true) + claim + l.poolMiB ≤ l2MiB

/-! ### Placing a gang (R371, R372, R38) -/

/-- Who may use a core group: the launch itself or no reservation. -/
def State.cgOpen (s : State) (l : Launch) (cg : Nat) : Bool :=
  !(s.launches.any fun k => k.id != l.id && k.reserved.contains cg)

/-- The copy context index that a new gang of a core group takes. -/
def State.freeCopyCtx (s : State) (cg : Nat) : Option Nat :=
  (List.range 64).find? fun n => !(s.copyCtxs.any fun c => c.cg == cg && c.index == n)

/-- The collective context index that a grid takes on a die. -/
def State.freeCollCtx (s : State) (pd : Nat) : Option Nat :=
  (List.range 16).find? fun n => !(s.collCtxs.any fun c => c.die.val == pd && c.index == n)

/-- The vertical pairs of a core group with a free FIFO, lowest first. -/
def State.freePairs (s : State) (cg : Nat) : List Nat :=
  (List.range 2).filter fun p => (s.pair (4 * cg + 2 * p)).holder.isNone

/-- Where the blocks of a gang go on a core group: ranks, and the pair whose FIFO is granted. -/
def State.gangRanks (s : State) (l : Launch) (n : Need) (cg : Nat) : Option (List Nat × Option Nat) :=
  let caps := (List.range 4).map fun r => s.coreCap (4 * cg + r)
  if l.vfifo then
    ((s.freePairs cg).filterMap fun p => (assignGang n l.nBlocks (some (p, l.vdown)) caps).map fun rs => (rs, some p)).head?
  else (assignGang n l.nBlocks none caps).map fun rs => (rs, none)

/-- The lowest free warp slot of a core. -/
def State.freeSlotOf (s : State) (core : Nat) : Nat :=
  ((List.range 48).find? fun k => (s.warp? core k).isNone).getD 0

/-- A new warp (R38). -/
def newWarp (core slot block inBlock : Nat) (entry : Pos) (args : W64) (foldCtl : W32) (trapVec : W64) (uid clock : Nat) :
    Warp :=
  { core := core, slot := slot, block := block, inBlock := inBlock
    g := Vector.replicate 64 (Lanes.all 0), s := (Vector.replicate 32 (0 : W64)).set 0 args
    p := Vector.replicate 8 0, gPresent := Vector.replicate 64 (BitVec.allOnes 32), sPresent := BitVec.allOnes 32
    pPresent := Vector.replicate 8 (BitVec.allOnes 32), j := Vector.replicate 8 Rejoin.empty
    acc := Vector.replicate 8 { val := Lanes.all 0, tile := none }, retired := 0, returns := [], deferred := []
    frags := [Fragment.start uid (homeEntry slot) (BitVec.allOnes 32) entry clock]
    fpstat := 0, fpen := 0, fptrig := 0, trapVec := trapVec, foldCtl := foldCtl, exh := false
    loop := { valid := false, paired := false, acc := 0, step := 0, pos := 0, aAddr := 0, bAddr := 0, inc := 0, cnt := 0
              partner := none }
    mxStat := 0, mxSteps := 0, mxAudCfg := 0, mxAudRing := 0, mxAudSeq := 0, copyLast := 0, collLast := 0
    preTaken := false, preMaps := none, preFull := false, nextUid := uid + 1 }

/-- FOLD.CTL from the record: STRICT in bit 0, UCHECK in bit 1 (R167, R363, R372). -/
def Launch.foldCtl (l : Launch) : W32 :=
  let f := recField l.record 1 1
  w32 (b2n (f.testBit 4) + 2 * b2n (f.testBit 3))

/-- The entry point of a launch's kernel. -/
def State.entryOf (s : State) (l : Launch) : Pos :=
  match s.kernelOf l with
  | some (o, k) => posOfWord (o.code / 4 + k.entry)
  | none => 0

/-- Create the warps of a block on a core. -/
def State.addWarps (s : State) (l : Launch) (block core : Nat) : Nat → Nat → State
  | 0, _ => s
  | n + 1, k =>
    let slot := s.freeSlotOf core
    let w := newWarp core slot block k (s.entryOf l) (w64 (recField l.record 32 8)) l.foldCtl 0 s.nextId s.clock
    ({ s with warps := s.warps ++ [w], nextId := s.nextId + 1 } : State).addWarps l block core n (k + 1)

/-- The tiles a new block takes: the lowest free ones of its core (R270). -/
def State.takeTiles (s : State) (core n : Nat) : List (Fin 16) :=
  let used := (s.blocks.filter fun b => b.core == core).flatMap fun b => b.tiles
  ((List.finRange 16).filter fun t => !used.contains t).take n

/-- Claim a block's resources on a core, its tiles zero (R270), and create its warps (R372). -/
def State.placeBlock (s : State) (l : Launch) (n : Need) (gang inGang core : Nat) : State :=
  let id := s.nextId
  let b : Block :=
    { id := id, gang := gang, core := core, inGang := inGang, nWarps := n.warps
      windows := Vector.ofFn fun k => w64 (recField l.record (128 + 8 * k.val) 8)
      named := n.bars, tiles := s.takeTiles core n.tiles, tags := n.tags, retiredWarps := 0 }
  let c := s.cores[coreFin core]
  let bank := fun (k : Fin 12) => if n.banks.testBit k.val then Bank.switched .scratch (some (.block id)) else c.banks[k]
  let tile := fun (t : Fin 16) => if b.tiles.contains t then Tile.reset else c.tiles[t]
  let s1 : State := { s with
    nextId := id + 1, blocks := s.blocks ++ [b]
    cores := s.cores.set (coreFin core) { c with banks := Vector.ofFn bank, tiles := Vector.ofFn tile } }
  s1.addWarps l id core n.warps 0

/-- The launch is at work in the window under way (R380, R446). -/
def State.active (s : State) (l : Launch) : State :=
  if s.linkActive.any fun x => x.1 == l.id then s else { s with linkActive := s.linkActive ++ [(l.id, l.queue.vi)] }

/-- The die level of a launch on a die, placed where it is not there yet: its pool reads zero, its group slots are zero, and
the grid takes a collective context (R32, R347, R353). -/
def State.ensureLevel (s : State) (l : Launch) (pd : Nat) : State × Nat :=
  match s.levelOn l pd with
  | some d => (s, d.id)
  | none =>
    let id := s.nextId
    let die := Fin.ofNat 4 pd
    let d : DieLevel :=
      { id := id, launch := l.id, die := die, placedGangs := 0, liveGangs := 0, pool := [], groups := Vector.replicate 16 0 }
    let ctxs := if s.collCtxs.any fun c => c.launch == l.id && c.die == die then s.collCtxs
      else s.collCtxs ++ [{ launch := l.id, die := die, index := (s.freeCollCtx pd).getD 0, submitted := 0, counter := 0
                            done := [], keys := [] }]
    ({ s with nextId := id + 1, levels := s.levels ++ [d], collCtxs := ctxs }, id)

/-- Blocks of a gang at their ranks. -/
def State.placeBlocks (s : State) (l : Launch) (n : Need) (gang cg : Nat) : List Nat → Nat → State
  | [], _ => s
  | r :: rs, k => (s.placeBlock l n gang k (4 * cg + r)).placeBlocks l n gang cg rs (k + 1)

/-- Place a gang of index `index` on a core group; none where it does not fit (R371, R374). The gang's identity comes with
the state. -/
def State.placeGang (s : State) (l : Launch) (p : Partition) (k : Kernel) (h : PassHeat) (index cg : Nat) :
    Option (State × Nat × PassHeat) :=
  let pd := cg / 16
  let n := l.need k
  let u := l.heat * l.nBlocks
  if !s.cgOpen l cg || !s.dies[Fin.ofNat 4 pd].ready || !s.collFree l pd || !s.poolFits l p pd
      || !s.floorsOk l h cg u then none
  else match s.freeCopyCtx cg, s.gangRanks l n cg with
    | some ctx, some (ranks, pair) =>
      let h1 : PassHeat :=
        { units := (cg, u) :: h.units, empty := if (s.residents cg).isEmpty then cg :: h.empty else h.empty }
      let (s1, lv) := s.ensureLevel l pd
      let id := s1.nextId
      let order := ((s1.level? lv).map fun d => d.placedGangs).getD 0
      let g : Gang :=
        { id := id, level := lv, cg := cg, index := index, order := order, nBlocks := l.nBlocks, retiredBlocks := 0
          succ := false }
      let c : CopyCtx := { gang := id, cg := cg, index := ctx, submitted := 0, counter := 0, done := [], err := 0 }
      let s2 : State := { s1 with
        nextId := id + 1, gangs := s1.gangs ++ [g], copyCtxs := s1.copyCtxs ++ [c]
        levels := replaceAll (fun d => d.id == lv)
          (fun d => { d with placedGangs := d.placedGangs + 1, liveGangs := d.liveGangs + 1 }) s1.levels }
      let s3 := match pair with
        | none => s2
        | some q =>
          let core := 4 * cg + 2 * q
          s2.setPair core { s2.pair core with holder := some id, down := l.vdown, pgok := (recField l.record 7 1).testBit 6, fifo := [], waits := [] }
      some (s3.placeBlocks l n id cg ranks 0, id, h1)
    | _, _ => none

/-- The first core group of a list on which a gang fits. -/
def State.placeAmong (s : State) (l : Launch) (p : Partition) (k : Kernel) (h : PassHeat) (index : Nat) :
    List Nat → Option (State × Nat × PassHeat)
  | [] => none
  | c :: cs =>
    match s.placeGang l p k h index c with
    | some r => some r
    | none => s.placeAmong l p k h index cs

/-- Gangs of consecutive indices from `index` up, each on the lowest-numbered core group of the list that takes it. -/
def State.placeGangs (l : Launch) (p : Partition) (k : Kernel) (cgs : List Nat) :
    Nat → Nat → State → PassHeat → Option (State × List Nat × PassHeat)
  | 0, _, s, h => some (s, [], h)
  | n + 1, index, s, h =>
    match s.placeAmong l p k h index cgs with
    | none => none
    | some (s1, id, h1) =>
      (State.placeGangs l p k cgs n (index + 1) s1 h1).map fun r => (r.1, id :: r.2.1, r.2.2)

end Sys2Proof.Machine
end

