-- ==== Sys2Proof/Machine/Retire.lean ====
section
/-!
DEFINITION. Retirement (R42, R43, R214, R326, R385): lanes, warps, blocks, gangs, die levels, launches; and the removal of a
launch that ends otherwise (R385, R386).
-/

namespace Sys2Proof.Machine

open Sys2Proof

/-! ### Blocks, gangs, levels -/

/-- A block is gone: its banks return to CACHE mode, accesses waiting at them end, its tags and barriers are freed. -/
def State.freeBlock (s : State) (b : Block) : State :=
  let c := s.cores[coreFin b.core]
  let mine := fun (k : Bank) => k.holder == some (.block b.id) || k.switching.any fun x => x.2 == some (.block b.id)
  let waits := (List.finRange 12).flatMap fun k => if mine c.banks[k] then c.banks[k].pushes ++ c.banks[k].pops else []
  let bank := fun (k : Fin 12) => if mine c.banks[k] then Bank.switched .cache none else c.banks[k]
  let gone := (List.finRange 12).filter fun k => mine c.banks[k]
  let inGone := fun u => gone.any fun k => bankKey b.core k 0 / 32 ≤ u && u < bankKey b.core k 0 / 32 + 2048
  let keep := fun (x : Barrier) => match x.key with
    | .block i => i != b.id
    | .named i _ => i != b.id
    | _ => true
  let s1 : State := { s with
    blocks := s.blocks.filter fun x => x.id != b.id
    tags := s.tags.filter fun t => t.block != b.id
    copyOps := s.copyOps.filter fun o => o.block != b.id
    barriers := s.barriers.filter keep
    mem := { s.mem with poison := s.mem.poison.filter fun u => !inGone u }
    cores := s.cores.set (coreFin b.core) { c with banks := Vector.ofFn bank } }
  waits.foldl State.loseBankWait s1

/-- The FIFO that a gang holds is discarded and released (R330). -/
def State.freeFifo (s : State) (gang : Nat) : State :=
  { s with pairs := Vector.ofFn fun p =>
      let x := s.pairs[p]
      if x.holder == some gang then { x with holder := none, fifo := [], waits := [] } else x }

/-- A gang is gone: its copy context, its FIFO and its barrier are released. -/
def State.freeGang (s : State) (g : Gang) : State :=
  let s1 := s.releaseCtx (.copy g.id)
  let s2 : State := { s1 with
    gangs := s1.gangs.filter fun x => x.id != g.id
    copyCtxs := s1.copyCtxs.filter fun c => c.gang != g.id
    barriers := s1.barriers.filter fun b => b.key != .gang g.id
    barValues := s1.barValues.filter fun b => b.key != .gang g.id
    levels := replaceAll (fun d => d.id == g.level) (fun d => { d with liveGangs := d.liveGangs - 1 }) s1.levels
    units := s1.units.map fun (u : PlacedUnit) => { u with gangs := u.gangs.filter fun i => i != g.id } }
  { (s2.freeFifo g.id).wakeDispatch with units := s2.units.filter fun u => !u.gangs.isEmpty }

/-! ### The end of a launch (R385) -/

/-- Everything that stands under a launch's name beside its units is gone. -/
def State.forgetLaunch (s : State) (id : Nat) : State :=
  let keep := fun (b : Barrier) => match b.key with
    | .die d => s.levels.any fun x => x.id == d && x.launch != id
    | .grid l => l != id
    | _ => true
  let keepV := fun (b : BarValues) => match b.key with
    | .die d => s.levels.any fun x => x.id == d && x.launch != id
    | .grid l => l != id
    | _ => true
  { s with
    launches := s.launches.filter fun l => l.id != id
    levels := s.levels.filter fun d => d.launch != id
    collCtxs := s.collCtxs.filter fun c => c.launch != id
    collOps := s.collOps.filter fun o => o.launch != id
    episodes := s.episodes.filter fun e => e.launch != id
    units := s.units.filter fun u => u.launch != id
    saved := s.saved.filter fun u => u.launch != id
    linkCounts := s.linkCounts.filter fun c => c.launch != id
    barriers := s.barriers.filter keep
    barValues := s.barValues.filter keepV }

/-- A launch completes with a status: its collective contexts are released, the completion record is written, and then
its queue's counter counts the operation. -/
def State.finishLaunch (s : State) (l : Launch) (status detail : Nat) : State :=
  let s1 := (s.ctxsOf l.id).foldl State.releaseCtx s
  ((s1.forgetLaunch l.id).writeCompletion l status detail).completeOp l.queue l.op status true

/-- An object whose withdrawal was requested: its launches end with NOOBJECT (R386). -/
def State.withdrawnObj (s : State) (l : Launch) : Bool :=
  s.objects.any fun o => o.asid == l.asid && o.base == l.obj && o.withdrawing.isSome

/-- The launch has units placed or saved. -/
def State.hasUnits (s : State) (l : Launch) : Bool :=
  (s.units.any fun u => u.launch == l.id) || s.saved.any fun u => u.launch == l.id

/-- A gang of a launch has retired: the launch completes when all have (R42), or, where its object is being withdrawn, when
its last placed unit has (R386). -/
def State.gangRetired (s : State) (lid : Nat) : State :=
  match s.launch? lid with
  | none => s
  | some l =>
    let l1 := { l with retired := l.retired + 1 }
    let s1 := s.setLaunch l1
    if l1.retired ≥ l1.nGangs then s1.finishLaunch l1 stDONE 0
    else if s.withdrawnObj l && !s1.hasUnits l1 then s1.finishLaunch l1 stNOOBJECT 0
    else s1

/-- A die level whose last gang has retired: its pool is discarded; a level of depth DIE or GRID is gone (R32). -/
def State.settleLevel (s : State) (lv : Nat) : State :=
  match s.level? lv with
  | none => s
  | some d =>
    if d.liveGangs == 0 && (s.launch? d.launch).any fun l => l.depth ≥ 2 then
      { s with levels := s.levels.filter fun x => x.id != lv
               barriers := s.barriers.filter fun b => b.key != .die lv
               barValues := s.barValues.filter fun b => b.key != .die lv }
    else s

/-- A block whose warps have all retired and whose copy operations have all completed retires, and with the last block its
gang (R42, R326). -/
def State.settleBlock (s : State) (id : Nat) : State :=
  match s.block? id with
  | none => s
  | some b =>
    if b.retiredWarps < b.nWarps || s.copyOps.any fun o => o.block == id then s
    else
      let s1 := s.freeBlock b
      match s1.gang? b.gang with
      | none => s1
      | some g =>
        let g1 := { g with retiredBlocks := g.retiredBlocks + 1 }
        let s2 := { s1 with gangs := replaceAll (fun x => x.id == g.id) (fun _ => g1) s1.gangs }
        if g1.retiredBlocks < g1.nBlocks then s2
        else
          let lid := (s2.level? g.level).map fun d => d.launch
          let s3 := (s2.freeGang g1).settleLevel g.level
          match lid with
          | none => s3
          | some l => s3.gangRetired l

/-- COPY_OP_COMPLETE: a performed operation whose bytes have all landed completes, and its block may retire. -/
def State.copyComplete (s : State) (id : Nat) : Option State :=
  match s.copyOp? id with
  | none => none
  | some o => if o.performed && o.land.isEmpty then some ((s.copyDone o).settleBlock o.block) else none

/-- COPY_OP_COMPLETE. -/
def execCopyOpComplete (op : Nat) (s : State) : Out := event s (s.copyComplete op)

/-! ### Lanes and warps (R42, R43, R214) -/

/-- The fault links through a fragment that retires are bridged (R214). -/
def bridgeLinks (f : Fragment) (frags : List Fragment) : List Fragment :=
  let kids := frags.filter fun g => g.links.contains f.uid
  let heirs : List Nat :=
    if !f.links.isEmpty then f.links
    else ((minBy (fun g => g.entry.toNat * 2 ^ 64 + g.uid) kids).map fun g => [g.uid]).getD []
  frags.map fun g =>
    if g.links.contains f.uid then
      { g with links := (((g.links.filter fun u => u != f.uid) ++ heirs.filter fun u => u != g.uid)).eraseDups }
    else g

/-- A fragment's lanes leave a warp (R42). -/
def Warp.dropFrag (w : Warp) (f : Fragment) : Warp :=
  let m := f.lanes
  { w with
    retired := w.retired ||| m
    frags := bridgeLinks f (w.frags.filter fun g => g.uid != f.uid)
    j := Vector.ofFn fun k =>
      let r := w.j[k]
      let r1 := { r with arrived := r.arrived &&& ~~~m, member := r.member &&& ~~~m }
      if r1.member == 0 then Rejoin.empty else r1 }

/-- What the device still keeps for a fragment that is gone. -/
def State.forgetFrag (s : State) (r : FragRef) : State :=
  { s with
    matrix := s.matrix.filter fun m => m.frag != r
    ranges := s.ranges.filter fun x => x.frag != r
    reqs := s.reqs.filter fun q => !(q.frag == r && (q.phase == .global || q.cancellable)) }

/-- A write of a warp, an STNT or an .E store, is not visible to all agents yet (R92, R94). -/
def State.openWrites (s : State) (core slot : Nat) : Bool :=
  s.reqs.any fun r => r.frag.core == core && r.frag.slot == slot && (r.kind == .stnt || !(s.forwardsOf r.id).isEmpty)

/-- The unit of an uncorrectable error in a warp's registers; it is seen only when they are read for a record (R403). -/
def warpUnit (core slot : Nat) : Nat := 2 ^ 70 + core * 64 + slot

/-- A warp's lanes are gone from the readers of .E stores (R87), and its requests with what their loss would have left. -/
def State.forgetSlot (s : State) (core slot : Nat) : State :=
  let other := fun (d : Nat × Nat × Mask) => !(d.1 == core && d.2.1 == slot)
  let rs := (s.reqs.filter fun q => !(q.frag.core == core && q.frag.slot == slot)).map fun (q : Req) =>
    { q with readers := q.readers.filter other }
  { s with reqs := rs, mem := { s.mem with watch := s.mem.watch.filter fun d => rs.any fun q => q.id == d.1
                                           poison := s.mem.poison.filter (· != warpUnit core slot) } }

/-- What retirement on a core may set free (R213, R215, R43, R297, R339, R340). -/
def State.settleCore (s : State) (core : Nat) : State :=
  (((((s.settleEntries core).settleEpisodes).settleBarriers).settleGate core).settlePushes core).settlePairs

/-- A warp whose lanes have all retired is gone (R42). -/
def State.retireWarp (s : State) (w : Warp) : State :=
  let c := s.cores[coreFin w.core]
  let run := match c.running with
    | some (sl, u) => if sl == w.slot then none else some (sl, u)
    | none => none
  let s1 : State := { s with
    warps := s.warps.filter fun v => !sameWarp w.core w.slot v
    cores := s.cores.set (coreFin w.core) { c with running := run }
    blocks := replaceAll (fun b => b.id == w.block) (fun b => { b with retiredWarps := b.retiredWarps + 1 }) s.blocks
    debugSignals := s.debugSignals.filter fun d => !(d.core == w.core && d.slot == w.slot) }
  ((s1.forgetSlot w.core w.slot).settleCore w.core).settleBlock w.block

/-- Every lane of a fragment retires. -/
def State.retireFrag (s : State) (w : Warp) (f : Fragment) : State :=
  let w1 := ((w.dropFrag f).settleJoins s.clock).settleConvs s.clock
  let s1 := (s.setWarp w1).forgetFrag ⟨w.core, w.slot, f.uid⟩
  if w1.unretired == 0 then s1.retireWarp w1 else s1.settleCore w.core

/-! ### Ending a launch early (R385, R386) -/

/-- A write of a warp that retires without more ado is performed: an STNT, and the global point of an .E store (R92, R94); where its home
does not serve it, it is lost (R98). -/
def State.flushOne (s : State) (r : Req) : State :=
  let ag := s.reqAgent r
  if r.lost || !s.serves ag.die.val (s.homeDie ag (.glob r.va.toNat)) then s.loseWrite r
  else if r.kind == .stnt then (s.performAt ag .stnt (.glob r.va.toNat) r.base r.size r.data false).1
  else s.globalPoint r

/-- The outstanding STNTs of a warp and its accepted .E stores are performed. -/
def State.flushWrites (s : State) (core slot : Nat) : State :=
  (s.reqs.filter fun r => r.frag.core == core && r.frag.slot == slot && (r.kind == .stnt || !(s.forwardsOf r.id).isEmpty)).foldl
    State.flushOne s

/-- They are performed, and the other requests of the warp end. -/
def State.flushReqs (s : State) (core slot : Nat) : State :=
  let mine := fun (r : Req) => r.frag.core == core && r.frag.slot == slot
  let s1 := s.flushWrites core slot
  let gone := (s1.reqs.filter mine).map fun r => r.id
  ({ s1 with forwards := s1.forwards.filter fun f => !gone.contains f.req }).forgetSlot core slot

/-- A warp of a launch that ends is gone with everything kept for it. -/
def State.dropWarp (s : State) (w : Warp) : State :=
  let s1 := s.flushReqs w.core w.slot
  let mine := fun (r : FragRef) => r.core == w.core && r.slot == w.slot
  let c := s1.cores[coreFin w.core]
  let run := match c.running with
    | some (sl, u) => if sl == w.slot then none else some (sl, u)
    | none => none
  let bank := fun (b : Bank) =>
    { b with pushes := b.pushes.filter fun x => !mine x.frag, pops := b.pops.filter fun x => !mine x.frag }
  let waits := (List.finRange 256).any fun k =>
    (List.finRange 12).any fun b => (s1.cores[k].banks[b].pushes ++ s1.cores[k].banks[b].pops).any fun x => mine x.frag
  let cores0 : Vector Core 256 :=
    if waits then Vector.ofFn fun k => { s1.cores[k] with banks := Vector.ofFn fun b => bank s1.cores[k].banks[b] }
    else s1.cores
  let p := s1.pair w.core
  let s2 : State := { s1 with
    warps := s1.warps.filter fun v => !sameWarp w.core w.slot v
    cores := cores0.set (coreFin w.core) { cores0[coreFin w.core] with running := run }
    matrix := s1.matrix.filter fun m => !mine m.frag
    ranges := s1.ranges.filter fun x => !mine x.frag
    debugSignals := s1.debugSignals.filter fun d => !(d.core == w.core && d.slot == w.slot) }
  let unbond := fun (m : MatrixOp) => if m.bond.any mine then { m with bond := none, since := s.time } else m
  { (s2.setPair w.core { p with waits := p.waits.filter fun v => !mine v.frag }) with matrix := s2.matrix.map unbond }

/-- The warps, blocks and gangs of a launch are gone. -/
def State.dropUnits (s : State) (lid : Nat) : State :=
  let gs := s.gangs.filter fun g => (s.level? g.level).any fun d => d.launch == lid
  let bs := s.blocks.filter fun b => gs.any fun g => g.id == b.gang
  let ws := s.warps.filter fun w => bs.any fun b => b.id == w.block
  let s1 := ws.foldl State.dropWarp s
  let s2 := bs.foldl State.freeBlock s1
  let s3 := gs.foldl State.freeGang s2
  ((ws.map fun w => w.core).eraseDups).foldl State.settleCore s3

/-- A launch ends with a status: its units stop and retire without saving. -/
def State.killLaunch (s : State) (l : Launch) (status detail : Nat) : State :=
  let s1 := s.dropUnits l.id
  match s1.launch? l.id with
  | some l1 => s1.finishLaunch l1 status detail
  | none => s1

/-- Launches that have been told to end do so. -/
def State.settleEndings (s : State) : Nat → State
  | 0 => s
  | n + 1 =>
    match s.launches.find? fun l => l.ending.isSome with
    | none => s
    | some l =>
      match l.ending with
      | some e => (s.killLaunch l e.1 e.2).settleEndings n
      | none => s

end Sys2Proof.Machine
end

