-- ==== Sys2Proof/Machine/Control.lean ====
section
/-!
DEFINITION. Control flow of fragments (R206-R213, R217-R226), PBLK (R121), the return from the handler (R173), parked
fragments and their answers, and words that are no instruction (R125).
-/

namespace Sys2Proof.Machine

open Sys2Proof

/-! ### Targets (R126, R206) -/

/-- The target of a direct transfer: a word address, modulo 2^55. -/
def branchTarget {n : Nat} (x : Focus) (off : BitVec n) : Nat :=
  (((wordOf x.c.pos : Nat) : Int) + off.toInt).emod (2 ^ 55) |>.toNat

/-- The word at a word address holds a continuation. -/
def State.badTarget (s : State) (w : Warp) (wa : Nat) : Bool :=
  (s.codeAt (cgOfCore w.core) (s.asidOf w) wa).any fun c => tagOf c == 3

/-- The byte address of a word address. -/
def byteAddr (wa : Nat) : W64 := w64 (wa % 2 ^ 55 * 4)

/-- The executing fragment goes on at a word, with the warp as given; MISALIGNED-TARGET in every lane where that word
holds a continuation. -/
def jump (s : State) (x : Focus) (w : Warp) (wa : Nat) : State :=
  if s.badTarget x.w wa then raiseAll s x .meeting cMISTARGET (fun _ => byteAddr wa) RaiseInfo.plain
  else finishMeeting s w x.f (posOfWord wa)

/-- UniformDecision (R208): one value for the fragment; `goes` is where each lane would have continued. -/
def uniformThen (s : State) (x : Focus) (v : Fin 32 → Nat) (goes : Fin 32 → W64) (k : Nat → State) : State :=
  match lowest? x.f.lanes with
  | none => s
  | some l0 =>
    if (lanesOf x.f.lanes).all (fun l => v l == v l0) || !x.w.foldCtl.getLsbD 1 then k (v l0)
    else raiseAll s x .meeting cNONUNIFORM goes RaiseInfo.plain

/-! ### BRA, BRX (R207, R209) -/

/-- A conditional or unconditional uniform branch to a word. -/
def braTo (s : State) (x : Focus) (c : BraCond) (wa : Nat) : State :=
  match c with
  | .always => jump s x x.w wa
  | .pred p n =>
    let take := fun (l : Fin 32) => inMask x.w.p[p] l != n
    uniformThen s x (fun l => b2n (take l)) (fun l => if take l then byteAddr wa else addrOfPos x.c.next) fun v =>
      if v == 1 then jump s x x.w wa else meetDone s x x.w

/-- BRA. -/
def execBra (b : Bool) (c : BraCond) (off : BitVec 17) (s : State) : Out :=
  meetInstr (.bra b c off) s fun x => braTo s x c (branchTarget x off)
/-- BRA, extended. -/
def execBraExt (b : Bool) (c : BraCond) (off : BitVec 30) (s : State) : Out :=
  meetInstr (.braExt b c off) s fun x => braTo s x c (branchTarget x off)

/-- BRX: NONCANON, then MISALIGNED-TARGET, then UNLISTED-TARGET, of the one decided target. -/
def execBrx (b : Bool) (r : RegSel) (s : State) : Out :=
  meetInstr (.brx b r) s fun x =>
    let addr := fun l => regSelLane x.w l r
    uniformThen s x (fun l => (addr l).toNat) addr fun v =>
      let raise := fun c => raiseAll s x .meeting c (fun _ => w64 v) RaiseInfo.plain
      if v / 2 ^ 57 != 0 then raise cNONCANON
      else if v % 4 != 0 || s.badTarget x.w (v / 4) then raise cMISTARGET
      else if !s.listed x.w v then raise cUNLISTED
      else finishMeeting s x.w x.f (posOfWord (v / 4))

/-! ### BRD, JOIN (R210-R213) -/

/-- Arm a rejoin register for the reach of the executing fragment, where it is empty (R211). -/
def Warp.arm (w : Warp) (f : Fragment) (j : Fin 8) : Warp :=
  if (w.j[j]).member == 0 then { w with j := w.j.set j { jpc := 0, arrived := 0, member := w.reach f } } else w

/-- The fragments of a family other than one that wait at a convergent instruction. -/
def Warp.convWaiters (w : Warp) (f : Fragment) : List Nat :=
  ((w.family f).filter fun g => g.uid != f.uid && g.converging).map Fragment.uid

/-- The split of BRD: the taken lanes keep the fragment and go to the target, the others start at the next word in a pool
entry or on the deferred-side stack; FRAGEXH where that is full (R164, R210). -/
def brdSplit (s : State) (x : Focus) (j : Fin 8) (rest : Mask) (wa : Nat) : State :=
  let conv := x.w.convWaiters x.f
  let taken := { (x.f.without rest).atFence (posOfWord wa) with status := .ready, runLen := 0, age := s.clock }
  match (if x.f.entry == noEntry then none else s.freeEntry? x.w.core) with
  | some e =>
    let w1 := x.w.arm x.f j
    let other := { (x.f.child w1.nextUid e rest false).atFence x.c.next with status := .ready, runLen := 0, age := s.clock }
    (s.setWarp ((w1.setFrag taken).addFrag other)).breakConv x.w.core x.w.slot conv
  | none =>
    if x.w.deferred.length ≥ 4 then raisePlain s x .meeting cFRAGEXH
    else
      (s.setWarp (((x.w.arm x.f j).pushDeferred x.f rest x.c.next).setFrag taken)).breakConv x.w.core x.w.slot conv

/-- BRD to a word. A taken lane whose target holds a continuation takes MISALIGNED-TARGET at the BRD (R126). -/
def brdTo (s : State) (x : Focus) (j : Fin 8) (n : Bool) (wa : Nat) : State :=
  let r := x.w.j[j]
  if x.f.handler then raisePlain s x .meeting cILLSTATE
  else if r.member != 0 && (x.w.reach x.f &&& ~~~r.member) != 0 then illState s x r.member
  else
    let taken := x.f.lanes &&& (if n then ~~~x.w.p[j] else x.w.p[j])
    let rest := x.f.lanes &&& ~~~taken
    let w1 := x.w.arm x.f j
    if taken == 0 then finishMeeting s w1 x.f x.c.next
    else if s.badTarget x.w wa then
      meetSplit s { x with w := w1 } ((lanesOf taken).map fun l => (l, cMISTARGET, byteAddr wa)) RaiseInfo.plain
        fun s1 y => meetDone s1 y y.w
    else if rest == 0 then finishMeeting s w1 x.f (posOfWord wa)
    else brdSplit s x j rest wa

/-- BRD. -/
def execBrd (b : Bool) (p : Fin 8) (n : Bool) (off : BitVec 17) (s : State) : Out :=
  meetInstr (.brd b p n off) s fun x => brdTo s x p n (branchTarget x off)
/-- BRD, extended. -/
def execBrdExt (b : Bool) (p : Fin 8) (n : Bool) (off : BitVec 30) (s : State) : Out :=
  meetInstr (.brdExt b p n off) s fun x => brdTo s x p n (branchTarget x off)

/-- JOIN. -/
def execJoin (b : Bool) (j : Fin 8) (s : State) : Out :=
  meetInstr (.join b j) s fun x =>
    let r := x.w.j[j]
    if r.member == 0 then meetDone s x x.w
    else if (x.f.lanes &&& ~~~r.member) != 0 then illState s x r.member
    else
      let w1 := { x.w with j := x.w.j.set j { r with jpc := x.c.next, arrived := r.arrived ||| x.f.lanes } }
      let f1 := { x.f.atFence x.c.pos with status := .waiting (.join j) }
      (s.setWarp ((w1.setFrag f1).settleJoin s.clock j)).settleEntries x.w.core

/-! ### CALL, RET, EXIT, PBLK (R121, R217-R219) -/

/-- CALL to a word. -/
def callTo (i : Instr) (target : Focus → Nat) (s : State) : Out :=
  meetInstr i s fun x =>
    convergentThen s x false fun s1 y =>
      if y.w.returns.length ≥ 16 then raisePlain s1 y .meeting cCSTACK
      else jump s1 y { y.w with returns := BitVec.ofNat 55 (wordOf y.c.next) :: y.w.returns } (target y)

/-- CALL. -/
def execCall (b : Bool) (off : BitVec 17) (s : State) : Out := callTo (.call b off) (fun x => branchTarget x off) s
/-- CALL, extended. -/
def execCallExt (b : Bool) (off : BitVec 30) (s : State) : Out := callTo (.callExt b off) (fun x => branchTarget x off) s

/-- RET. -/
def execRet (b : Bool) (s : State) : Out :=
  meetInstr (.ret b) s fun x =>
    convergentThen s x false fun s1 y =>
      match y.w.returns with
      | [] => raisePlain s1 y .meeting cCSTACK
      | r :: rest => jump s1 y { y.w with returns := rest } r.toNat

/-- Some .E store of the fragment's lanes has not reached its global point (R219). -/
def State.openOwnE (s : State) (x : Focus) : Bool :=
  s.reqs.any fun r => r.frag.core == x.w.core && r.frag.slot == x.w.slot && inMask x.f.lanes r.lane && !(s.forwardsOf r.id).isEmpty

/-- The retirement of some lanes would retire their warp, and writes of the warp are outstanding: it waits for them (R92, R94). -/
def State.retireHeld (s : State) (w : Warp) (m : Mask) : Bool := (w.unretired &&& ~~~m) == 0 && s.openWrites w.core w.slot

/-- A fragment is killed from outside: what its warp has outstanding is performed first where the warp retires with it (R92). -/
def State.killFrag (s : State) (w : Warp) (f : Fragment) : State :=
  if s.retireHeld w f.lanes then (s.flushWrites w.core w.slot).retireFrag w f else s.retireFrag w f

/-- EXIT: STNTs are performed and their faults raised, global points are reached and losses raised; the lanes without a
cause retire. -/
def execExit (b : Bool) (s : State) : Out :=
  meetInstr (.exit b) s fun x =>
    drainThen s x fun s1 y =>
      if s1.openOwnE y then waitRetry s1 y
      else
        let cs := lostCauses y.f
        meetSplit s1 { y with f := if cs == [] then y.f else y.f.clearLost } cs RaiseInfo.plain
          fun s2 z => if s2.retireHeld z.w z.f.lanes then waitRetry s2 z else s2.retireFrag z.w z.f

/-- PBLK: the fence moves past it and its record covers the next positions. -/
def execPblk (b : Bool) (p : Fin 8) (pat : BitVec 8) (cntM1 : Fin 8) (s : State) : Out :=
  meetInstr (.pblk b p pat cntM1) s fun x =>
    put s x.w { x.f.atFence x.c.next with status := .ready, pblk := some ⟨x.w.p[p], pat, cntM1⟩ }

/-! ### BRK, TRAP (R221, R222) -/

/-- Debugging is enabled for the launch of a warp. -/
def State.debugOn (s : State) (w : Warp) : Bool :=
  (s.owner? w).any fun o => (recField o.launch.record 1 1).testBit 2 && (s.part? o.launch.queue.vi o.launch.part).any fun p => p.debug

/-- SOFTTRAP with a code, in every lane. -/
def softTrap (s : State) (x : Focus) (code : Nat) : State :=
  raiseAll s x .meeting cSOFTTRAP (fun _ => 0) { RaiseInfo.plain with code := BitVec.ofNat 16 code }

/-- The fault-ring record of a BRK (R455). -/
def brkRecord (f : Fragment) (code : BitVec 12) : DueRecord :=
  { vaddr := code.setWidth 64, lanes := f.lanes, done := 0, cause := 0x80, strand := 8
    flags := BitVec.ofNat 8 (4 * b2n f.handler) }

/-- BRK: the fragment stops after it and the debug interface is signalled; SOFTTRAP where debugging is not enabled. -/
def execBrk (b : Bool) (code : BitVec 12) (s : State) : Out :=
  meetInstr (.brk b code) s fun x =>
    if s.debugOn x.w then
      let f1 := { x.f.atFence x.c.next with
        status := .stopped, due := x.f.due ++ [brkRecord x.f code], arrivedAt := s.clock, runLen := 0 }
      put { s with debugSignals := s.debugSignals ++ [⟨x.w.core, x.w.slot, x.f.entry, code⟩] } x.w f1
    else softTrap s x (0x8000 + code.toNat)

/-- TRAP. -/
def execTrap (b : Bool) (code : BitVec 12) (s : State) : Out :=
  meetInstr (.trap b code) s fun x => softTrap s x code.toNat

/-! ### RETH (R173, R223) -/

/-- The fragment with the frame restored: it refetches from the fence PC. -/
def Fragment.leaveHandler (f : Fragment) (clock : Nat) : Fragment :=
  { f with
    handler := false, status := .ready, causes := 0
    fencePC := f.frame.fence, fetchPC := f.frame.fence, strands := f.frame.pcv, done := f.frame.done
    pblk := f.frame.pblk, covIdx := 0, info := StopInfo.none, frame := Frame.none, pend := []
    runLen := 0, age := clock }

/-- The handler is entered again with the same frame; where TRAP.VEC is zero the fragment parks with NESTED (R172). -/
def Fragment.reenter (f : Fragment) (vec : W64) (clock : Nat) : Fragment :=
  if vec == 0 then
    let i := f.frame.info
    let r : DueRecord :=
      { vaddr := ((lowest? i.lanes).map fun l => i.addr[l]).getD 0, lanes := i.lanes, done := 0, cause := 32, strand := 8
        flags := BitVec.ofNat 8 (b2n i.write + 2 * b2n i.fetch + 4 + 8 * firstCause (handlerBits f.causes)) }
    { f.atMeeting with
      status := .parked, causes := f.causes ||| (1#64 <<< 32), due := f.due ++ [r], arrivedAt := clock, runLen := 0 }
  else { f.atFence (posOfAddr vec) with status := .ready, runLen := 0, age := clock }

/-- The position after the instruction at p. -/
def State.after (s : State) (w : Warp) (p : Pos) : Pos :=
  match s.peek (cgOfCore w.core) (s.asidOf w) p with
  | .instr _ next => next
  | _ => posOfWord (wordOf p + 1)

/-- A skipped MLOOP or MPAIR counts as complete: its loop record is no longer valid (R291). -/
def Warp.skipLoop (w : Warp) (p : Pos) : Warp :=
  if w.loop.valid && w.loop.pos == p then { w with loop := { w.loop with valid := false } } else w

/-- The faulting instruction counts as completed in the lanes of TRAP.LANES (R173, R216); a meeting instruction in the whole fragment
where one of its lanes is among them. (DESIGN CHOICE, log 23.) -/
def State.skipFault (s : State) (w : Warp) (f : Fragment) (i : StopInfo) : Warp × Fragment :=
  if i.meet && (i.lanes &&& f.lanes) == 0 then (w, f)
  else if i.meet then
    let pos := f.fencePC
    let next := s.after w pos
    let g := f.atFence next
    let rec1 := f.pblk.bind fun r => if r.cntM1.val = 0 then none else some (r.shifted 1)
    (w.skipLoop pos, { g with pblk := rec1 })
  else
    let k := i.strand
    let pos := (f.strands[k]).pos
    let m : Mask := f.done[k] ||| (i.lanes &&& f.lanes)
    let w1 := w.skipLoop pos
    if (f.lanes &&& ~~~m) == 0 then
      let next := s.nextOfStrand (cgOfCore w.core) (s.asidOf w) k codePositions (s.after w pos)
      (w1, { f with strands := f.strands.set k ⟨true, next⟩, done := f.done.set k 0 })
    else (w1, { f with done := f.done.set k m })

/-- The key of the MPAIR that a RETH.SKIP skips: its record's, or its descriptor's where it has not begun. -/
def State.skippedKey (s : State) (w : Warp) (f : Fragment) (i : StopInfo) : Option Nat :=
  let pos := (f.strands[i.strand]).pos
  if i.meet then none
  else match s.peek (cgOfCore w.core) (s.asidOf w) pos with
    | .instr (.mpair _ _ _ _ d _) _ =>
      some (if w.loop.valid && w.loop.pos == pos then w.loop.key else bits (loopDesc w d).cnt 47 32)
    | _ => none

/-- RETH in either form. -/
def rethInstr (i : Instr) (skip : Bool) (s : State) : Out :=
  meetInstr i s fun x =>
    if !x.f.handler then raisePlain s x .meeting cILLSTATE
    else if x.f.causes != 0 then
      if s.busy x.w.core then waitRetry s x else put s x.w (x.f.reenter x.w.trapVec s.clock)
    else
      let f1 := x.f.leaveHandler s.clock
      if skip then
        let (w2, f2) := s.skipFault x.w f1 x.f.frame.info
        let s1 := put s w2 f2
        (match s.skippedKey x.w f1 x.f.frame.info with
        | some k => s1.pairSkipped x.w k
        | none => s1).settlePairs
      else put s x.w f1

/-- RETH. -/
def execReth (b : Bool) (s : State) : Out := rethInstr (.reth b) false s
/-- RETH.SKIP. -/
def execRethSkip (b : Bool) (s : State) : Out := rethInstr (.rethSkip b) true s

/-! ### FRESUME, FKILL (R224-R226) -/

/-- A parked fragment resumes (R225): its recoverable causes are cleared; with a handler-route cause left it enters the
handler first, unless it parked in handler mode (R172). -/
def State.resumed (s : State) (w : Warp) (f : Fragment) : Fragment :=
  let f1 := { f with
    causes := f.causes &&& ~~~recoverableBits, ringSeq := none, due := [], status := .ready, fetchPC := f.fencePC
    covIdx := 0, runLen := 0, age := s.clock, arrivedAt := s.clock }
  if !f.handler && handlerBits f1.causes != 0 then s.handlerRoute w f1 else f1

/-- The fragment of a warp that an entry names; ENTRY 511 names a fragment without one, a parked one before others (R170, R224).
(DEDUCED, log 23.) -/
def Warp.holder? (w : Warp) (entry : Nat) : Option Fragment :=
  let fs := w.frags.filter fun f => f.entry.toNat == entry
  (fs.find? fun f => f.status == .parked) <|> fs.head?

/-- The executing warp's partition holds the fault-service grant for an address space, for any where `asid` is none
(R455). -/
def State.servesSpace (s : State) (w : Warp) (asid : Option Nat) : Bool :=
  (s.owner? w).any fun o => s.spaces.any fun a =>
    a.vi == o.launch.queue.vi && a.service == o.launch.part && asid.all fun n => a.asid == n

/-- The core lies in the executing warp's virtual interface. -/
def State.coreInVi (s : State) (w : Warp) (core : Nat) : Bool :=
  ((s.owner? w).bind fun o => s.iface? o.launch.queue.vi).any fun i => i.grants? (core / 64) (core / 4 % 16)

/-- The fragment that a descriptor names, or the status in the order of R224; `st` is the state it must be in. -/
def State.namedFrag (s : State) (st : Status) (desc seq : W64) (inVi : Nat → Bool) (serves : Nat → Bool) :
    Except Nat (Warp × Fragment) :=
  let core := bits desc 31 24
  let slot := bits desc 21 16
  let entry := bits desc 8 0
  if bits desc 63 32 != 0 || bits desc 23 22 != 0 || bits desc 15 9 != 0 then .error 2
  else if !inVi core then .error 3
  else
    match (s.warp? core slot).bind fun w =>
        if w.preTaken || (256 ≤ entry && entry != 256 + slot && entry != 511) then none else (w.holder? entry).map fun f => (w, f) with
    | none => .error 2
    | some (w, f) =>
      if !serves (s.asidOf w) then .error 3
      else if f.status != st || !f.due.isEmpty || f.ringSeq != some seq then .error 1
      else .ok (w, f)

/-- An answer to a record: PRIVILEGE, then the release, then the status and the effect on the fragment named, once nothing holds it
back. -/
def answerInstr (i : Instr) (r : Fin 32) (held : State → Warp → Fragment → Bool) (s : State) (eff : State → Warp → Fragment → State) : Out :=
  meetInstr i s fun x =>
    if !s.servesSpace x.w none then raisePlain s x .meeting cPRIVILEGE
    else releaseThen s x .system fun s1 y =>
      let n := s1.namedFrag .parked y.w.s[r] y.w.s[Fin.ofNat 32 (r.val + 1)] (s1.coreInVi y.w)
        fun asid => s1.servesSpace y.w (some asid)
      match n with
      | .error c => meetDone s1 y (y.w.writeS r (w64 c))
      | .ok (tw, tf) =>
        if held s1 tw tf then waitRetry s1 y else
        let s2 := meetDone s1 y (y.w.writeS r 0)
        match (s2.warp? tw.core tw.slot).bind fun w => (w.frag? tf.uid).map fun f => (w, f) with
        | none => s2
        | some (w, f) => eff s2 w f

/-- FRESUME. -/
def execFresume (b : Bool) (r : Fin 32) (s : State) : Out :=
  answerInstr (.fresume b r) r (fun _ _ _ => false) s fun s1 w f => put s1 w (s1.resumed w f)

/-- FKILL. -/
def execFkill (b : Bool) (r : Fin 32) (s : State) : Out :=
  answerInstr (.fkill b r) r (fun s1 w f => s1.retireHeld w f.lanes) s fun s1 w f => s1.retireFrag w f

/-! ### Words that are no instruction (R124, R125) -/

/-- The strand of the instruction that the word at a position names, where it names one (R125). -/
def State.strandAt (s : State) (w : Warp) (p : Pos) : Option (Fin 8) :=
  (s.codeAt (cgOfCore w.core) (s.asidOf w) (wordOf p)).bind (strandOfWord (slotOf p))

/-- ILLEGAL_ENCODING: every lane of the fragment takes ILLEGAL at the position: at the strand PC of the strand that the word names, or
as a meeting instruction. -/
def execIllegalEncoding (s : State) : Out :=
  onFocus s fun x =>
    match s.strandAt x.w x.c.pos with
    | some k => raiseIllegal s { x with f := { x.f with strands := x.f.strands.set k ⟨true, x.c.pos⟩ } } (.strand k)
    | none => raiseIllegal s x .meeting

end Sys2Proof.Machine
end

