-- ==== Sys2Proof/Machine/Front.lean ====
section
/-!
DEFINITION. The front-end of a core (R33-R36, R102-R105, R149): the presence and order rules between dispatched
instructions (R86, R155-R157, R182, R282), what a ready fragment can do next, and dispatch.
-/

namespace Sys2Proof.Machine

open Sys2Proof

/-! ### Order between dispatched instructions (R86, R156, R157, R182, R282) -/

/-- Registers that a dispatched instruction reads, besides its guard. -/
def Pend.readsOf (e : Pend) : List RegName :=
  match e.instr.uses with
  | some u => u.reads
  | none => []

/-- Registers that a dispatched instruction writes. -/
def Pend.writesOf (e : Pend) : List RegName :=
  match e.instr.uses with
  | some u => u.writes
  | none => []

/-- The guard of a dispatched instruction. -/
def Pend.guard (e : Pend) : Option Guard := e.instr.uses.bind fun u => u.grd

/-- A dispatched instruction has begun: it has read its operands (R157), and what it writes is an accumulator or memory. -/
def Pend.begun (e : Pend) : Bool := e.flight != 0 || !e.answers.isEmpty

/-- Two uses of one register meet: in a common lane, or anywhere for a scalar. -/
def touches (m1 m2 : Mask) (rs1 rs2 : List RegName) : Bool :=
  rs1.any fun r => rs2.contains r && (match r with
    | .s _ => true
    | _ => (m1 &&& m2) != 0)

/-- The dispatched instructions of a warp that have not begun, with the lanes of their fragments. -/
def Warp.unbegun (w : Warp) : List (Mask × Pend) :=
  w.frags.flatMap fun g => (g.pend.filter fun d => !d.begun).map fun d => (g.lanes, d)

/-- The predicate of a guard is settled for an instruction dispatched at `seq` in some lanes: no instruction dispatched before it still
has to write it there (R156). -/
def guardSettled (ds : List (Mask × Pend)) (m : Mask) (seq : Nat) (grd : Option Guard) : Bool :=
  !(ds.any fun d => d.2.seq < seq && touches m d.2.lanes (guardRegs grd) d.2.writesOf)

/-- The lanes in which a dispatched instruction is active, as far as its guard is settled (R118, R156). -/
def narrowed (w : Warp) (ds : List (Mask × Pend)) (d : Mask × Pend) : Mask :=
  if guardSettled ds d.1 d.2.seq d.2.guard then d.2.lanes &&& guardMask w d.2.guard else d.2.lanes

/-- An instruction that is active in lanes `m` with these reads and writes must wait for d, which was dispatched before it (R156,
R157). -/
def mustWait (w : Warp) (ds : List (Mask × Pend)) (m : Mask) (reads writes : List RegName) (d : Mask × Pend) : Bool :=
  let act := narrowed w ds d
  touches m act reads d.2.writesOf || touches m act writes d.2.readsOf || touches m d.1 writes (guardRegs d.2.guard)
    || touches m act writes d.2.writesOf

/-- The operands that an instruction dispatched at `seq` reads are present, and what it writes has been read and written (R156, R157):
its guard in every lane of its fragment, the rest in its active lanes. -/
def Warp.operandsFree (w : Warp) (lanes : Mask) (e : Pend) : Bool :=
  let ds := w.unbegun
  let act := narrowed w ds (lanes, e)
  guardSettled ds lanes e.seq e.guard
    && !(ds.any fun d => d.2.seq < e.seq && mustWait w ds act e.readsOf e.writesOf d)

/-- The tiles that an instruction reads and those that it writes (R282). -/
def State.tileUse (s : State) (b : Block) : Instr → List Nat × List Nat
  | .tcfg _ n _ | .tzero _ n | .tld _ n _ _ | .acctStore _ _ n => ([], [n.val])
  | .tst _ n _ _ | .acctLoad _ _ n => ([n.val], [])
  | .mma _ _ ta tb _ => (s.spans b ta.val tb.val, [])
  | .mloop _ _ ta tb _ _ | .mpair _ _ ta tb _ _ => ([], s.spans b ta.val tb.val)
  | _ => ([], [])

/-- An instruction waits for a dispatched one of its block over a tile. -/
def State.tileWait (s : State) (b : Block) (i : Instr) (d : Instr) : Bool :=
  let x := s.tileUse b i
  let y := s.tileUse b d
  (x.1 ++ x.2).any y.2.contains || x.2.any y.1.contains

/-- Some instruction of the block dispatched before `seq` holds the tiles of an instruction. -/
def State.tilesHeld (s : State) (w : Warp) (i : Instr) (seq : Nat) : Bool :=
  match s.block? w.block with
  | none => false
  | some b =>
    (s.tileUse b i) != ([], []) &&
      s.warps.any fun v => v.block == w.block && v.frags.any fun g => g.pend.any fun d => d.seq < seq && s.tileWait b i d.instr

/-- A scratchpad window of a block may lead to a FIFO bank (R238, R239). -/
def windowFifo (e : W64) : Bool := bits e 63 62 == 1 || bits e 63 62 == 3

/-- LD or ST with a scratchpad operand may be a pop or a push: some window of its block may lead to a FIFO bank. -/
def State.fifoMay (s : State) (w : Warp) (i : Instr) : Bool :=
  i.fifoOperand.any fun m => m.sp && (s.block? w.block).any fun b => b.windows.any windowFifo

/-- Accesses of one fragment that program order keeps apart (R86): nothing passes an acquire, and a release passes nothing; a push to
a FIFO bank is a release and a pop an acquire (R248). -/
def State.orderedAfter (s : State) (w : Warp) (d e : Instr) : Bool :=
  ((d.acquires || (s.fifoMay w d && !d.writesMem)) && e.isMem)
    || ((e.releases.isSome || (s.fifoMay w e && e.writesMem)) && d.isMem)

/-- A dispatched strand instruction may begin: it is the oldest of its strand, it has no access under way, and no
earlier instruction that conflicts with it is incomplete. One that raises ILLEGAL waits for no operand (R125). -/
def State.startable (s : State) (w : Warp) (f : Fragment) (e : Pend) : Bool :=
  e.flight == 0 && e.answers.isEmpty
    && !(f.pend.any fun d => d.seq < e.seq && d.instr.place == e.instr.place)
    && (!e.instr.wf || (!(f.pend.any fun d => d.seq < e.seq && s.orderedAfter w d.instr e.instr)
        && w.operandsFree f.lanes e && !s.tilesHeld w e.instr e.seq))

/-- A dispatched instruction of a loop under way or of a push that waits goes on by itself. -/
def State.underWay (s : State) (w : Warp) (f : Fragment) (e : Pend) : Bool :=
  s.matrix.any fun m => m.frag == ⟨w.core, w.slot, f.uid⟩ && m.pos == e.pos

/-- The dispatched instructions of a fragment that may begin. -/
def State.startables (s : State) (w : Warp) (f : Fragment) : List Pend :=
  f.pend.filter fun e => s.startable w f e && !s.underWay w f e

/-- A dispatched memory instruction whose lanes have all answered and that waits to be settled (R281). -/
def Fragment.answered (f : Fragment) : List Pend := f.pend.filter fun e => e.flight == 0 && !e.answers.isEmpty

/-- A meeting instruction may execute: nothing of its fragment is incomplete (R35), and no dispatched instruction
conflicts with it. One that raises ILLEGAL waits for no operand (R125). -/
def State.meetReady (s : State) (w : Warp) (f : Fragment) (i : Instr) : Bool :=
  let ds := w.unbegun
  f.pend.isEmpty
    && (!i.wf || (!(ds.any fun d => mustWait w ds f.lanes i.meetReads i.meetWrites d) && !s.tilesHeld w i (s.clock + 1)))

/-! ### Fetch and dispatch -/

/-- The PBLK record covers the position at the fetch PC (R121). -/
def Fragment.covered (f : Fragment) : Bool :=
  match f.pblk with
  | some r => f.covIdx ≤ r.cntM1.val
  | none => false

/-- The lanes in which a covered position executes (R121). -/
def Fragment.coverLanes (f : Fragment) : Mask :=
  match f.pblk with
  | some r =>
    if f.covIdx ≤ r.cntM1.val then
      (if r.pat.getLsbD f.covIdx then f.lanes &&& ~~~r.value else f.lanes &&& r.value)
    else f.lanes
  | none => f.lanes

/-- The lanes of a strand instruction at the fetch PC: what the cover and the strand's done mask leave (R36, R166). -/
def Fragment.lanesAt (f : Fragment) (k : Fin 8) : Mask :=
  let x := f.strands[k]
  if x.live && x.pos == f.fetchPC then f.coverLanes &&& ~~~f.done[k] else f.coverLanes

/-- An instruction of strand k at the fetch PC was completed before a stop (R36). -/
def Fragment.skips (f : Fragment) (k : Fin 8) : Bool :=
  let x := f.strands[k]
  x.live && f.fetchPC.toNat < x.pos.toNat

/-- What the front-end does next for a fragment. -/
inductive Act where
  /-- A dispatched strand instruction executes. -/
  | pend (e : Pend)
  /-- A dispatched memory instruction is settled. -/
  | settle (e : Pend)
  /-- The strand instruction at the fetch PC is dispatched, or skipped. -/
  | strand (i : Instr) (k : Fin 8) (next : Pos)
  | meet (i : Instr) (next : Pos)
  | silent (i : Instr) (next : Pos)
  | bad
  | fill
  deriving DecidableEq, Repr

/-- The fetch of a fragment. -/
def State.fetchOf (s : State) (w : Warp) (f : Fragment) : Fetched := s.fetch (cgOfCore w.core) (s.asidOf w) f.fetchPC

/-- The run-boundary bit of the word at a position, and whether its last instruction stands there (R105). -/
def State.boundary (s : State) (w : Warp) (p : Pos) : Bool :=
  match s.codeWord? (cgOfCore w.core) (s.asidOf w) (wordOf p) with
  | some x => x.getLsbD 29 && (tagOf x != 1 || slotOf p)
  | none => true

/-- The lanes of the core group have stopped while LCLK relocks (R161). -/
def State.relocking (s : State) (core : Nat) : Bool :=
  match s.cgs[cgOfCore core].phase with
  | some (.relock _) => true
  | _ => false

/-- The core issues no strand instruction beyond a run boundary while the LCLK ratio changes (R161). -/
def State.draining (s : State) (w : Warp) (f : Fragment) : Bool :=
  s.busy w.core && (s.relocking w.core || s.cores[coreFin w.core].running != some (w.slot, f.uid))

/-- A convergent matrix instruction of a fragment that must first wait for others of its family begins alone (R215,
R280). -/
def waitsAlone (w : Warp) (f : Fragment) (i : Instr) : Bool := convStrandInstr i && f.lanes != w.unretired && !f.pend.isEmpty

/-- What a fragment whose dispatched instructions give nothing to do does at its fetch PC; none where it is held back. -/
def State.fetchAct (s : State) (w : Warp) (f : Fragment) : Option Act :=
  match s.fetchOf w f with
  | .missing _ => some .fill
  | .bad _ _ => if f.pend.isEmpty then some .bad else none
  | .instr i next =>
    match i.place with
    | .strand k => if s.draining w f || waitsAlone w f i then none else some (.strand i k next)
    | .silent => some (.silent i next)
    | .meeting => if s.meetReady w f i then some (.meet i next) else none

/-- What the clusters may do now with a fragment's dispatched instructions (R34). -/
def State.clusterActs (s : State) (w : Warp) (f : Fragment) : List Act :=
  (if s.relocking w.core then [] else (s.startables w f).map Act.pend) ++ f.answered.map Act.settle

/-- The cursor of an instruction. -/
def cursorOf (w : Warp) (f : Fragment) (pos next : Pos) (lanes : Mask) (cov : Bool) : Cursor :=
  { core := w.core, slot := w.slot, uid := f.uid, pos := pos, next := next, lanes := lanes, covered := cov }

/-- The number of the 10 µs window under way. -/
def State.window (s : State) : Nat := s.time / 10000

/-- A run of a warp's partition has been issued on its core in this window (R384). -/
def State.countIssue (s : State) (w : Warp) : State :=
  match s.owner? w with
  | none => s
  | some o =>
    let mine := fun (r : RunCount) =>
      r.window == s.window && r.core == w.core && r.vi == o.launch.queue.vi && r.part == o.launch.part
    if s.runCounts.any mine then { s with runCounts := replaceAll mine (fun r => { r with runs := r.runs + 1 }) s.runCounts }
    else { s with runCounts := s.runCounts ++ [⟨s.window, w.core, o.launch.queue.vi, o.launch.part, 1⟩] }

/-- The run goes on at a position, or ends there (R105, R44). -/
def State.countRun (s : State) (w : Warp) (f : Fragment) (i : Instr) (p : Pos) : State :=
  let n := f.runLen + 1
  let ends := s.boundary w p || i.blocking || n ≥ 24
  let c := coreFin w.core
  let s1 := put s w { f with runLen := if ends then 0 else n, age := if ends then s.clock else f.age }
  let r : Option (Nat × Nat) := if ends then none else some (w.slot, f.uid)
  let s2 : State := { s1 with cores := s1.cores.set c { s1.cores[c] with running := r } }
  if f.runLen == 0 then s2.countIssue w else s2

/-- Dispatch the strand instruction at the fetch PC (R155): presence of what it writes clears in the lanes in which it is active, as far
as its guard is settled. -/
def State.dispatch (s : State) (w : Warp) (f : Fragment) (i : Instr) (k : Fin 8) (next : Pos) : State × Pend :=
  let e : Pend :=
    { seq := s.clock, pos := f.fetchPC, next := next, instr := i, lanes := f.lanesAt k
      covered := f.covered, flight := 0, answers := [], parts := [], since := none }
  let act := narrowed w w.unbegun (f.lanes, e)
  let w1 := e.writesOf.foldl (fun w r => w.clearPresent act r) w
  let x := f.strands[k]
  let f1 := { f with
    fetchPC := next, covIdx := f.covIdx + 1, pend := f.pend ++ [e]
    strands := if x.live then f.strands else f.strands.set k ⟨true, f.fetchPC⟩ }
  ((put s w1 f1).countRun w1 f1 i f.fetchPC, e)

/-- Pass the position at the fetch PC. -/
def Fragment.pass (f : Fragment) (next : Pos) : Fragment := { f with fetchPC := next, covIdx := f.covIdx + 1 }

/-- Execute with the cursor at an instruction. -/
def State.at (s : State) (c : Cursor) : State := { s with cursor := some c }

end Sys2Proof.Machine
end

