-- ==== Sys2Proof/Machine/SysReg.lean ====
section
/-!
DEFINITION. System registers: what each reads as (R29, R31, R160, R167, R174, R175, R264, R304, R327, R344, R357, R393, R411,
R436, R447, R463), SYSR and SYSW (R176, R177), the check of TRAP.VEC (R143) and the change of the LCLK ratio (R161).
-/

namespace Sys2Proof.Machine

open Sys2Proof

/-! ### Identity (R13, R16, R17, R29, R31) -/

/-- The interface of an owner. -/
def State.ifaceOf (s : State) (o : Owner) : Option Iface := s.iface? o.launch.queue.vi

/-- The partition of an owner. -/
def State.partitionOf (s : State) (o : Owner) : Option Partition := s.part? o.launch.queue.vi o.launch.part

/-- CORE.RANK (R13). -/
def State.coreRank (s : State) (o : Owner) (core : Nat) : Nat :=
  let d := (s.dies[dieOfCore core]).index.toNat
  let g := core / 4 % 16
  core % 4 + 4 * (((s.ifaceOf o).bind fun i => i.logicalCg d g).getD 0) + 64 * g + 1024 * d

/-- Registers 0x000 to 0x00C. -/
def State.readId (s : State) (o : Owner) (w : Warp) (f : Fragment) (n : Nat) (l : Fin 32) : Nat :=
  let die := s.dies[dieOfCore w.core]
  let d := die.index.toNat
  if n = 0x000 then l.val
  else if n = 0x001 then 256 * w.slot + w.inBlock
  else if n = 0x002 then 256 * (o.gang.nBlocks - 1) + 16 * (o.block.nWarps - 1) + o.block.inGang
  else if n = 0x003 then o.gang.index
  else if n = 0x004 then o.gang.order
  else if n = 0x005 then 2 ^ 28 * o.launch.dies.toNat + 2 ^ 26 * o.launch.depth + (o.launch.nGangs - 1)
  else if n = 0x006 then f.entry.toNat
  else if n = 0x007 then f.lanes.toNat
  else if n = 0x008 then ((s.ifaceOf o).bind fun i => i.logicalDie d).getD 0
  else if n = 0x009 then die.orient.toNat
  else if n = 0x00A then s.coreRank o w.core
  else if n = 0x00B then 2 ^ ((s.ifaceOf o).map fun i => (i.cgsOf d).length).getD 0 - 1
  else o.launch.poolBase / 2 ^ 20 % 2 ^ 37 * 2 ^ 20 + o.launch.poolMiB

/-! ### The fold and the trap frame (R160, R167, R174) -/

/-- LRATIO.CAP of a core group: management holds it at 0 while the vault above is over temperature (R434). -/
def State.capOf (s : State) (cg : Fin 64) : BitVec 2 := if (s.vaultOf cg.val).hot then 0 else s.cgs[cg].cap

/-- LRATIO: GRANT is the partition's. -/
def State.readLratio (s : State) (o : Owner) (core : Nat) : Nat :=
  let g := s.cgs[cgOfCore core]
  64 * (s.capOf (cgOfCore core)).toNat + 32 * b2n ((s.partitionOf o).any fun p => p.lrGrant) + 16 * b2n g.phase.isSome + 4 * g.req.toNat
    + g.cur.toNat

/-- FOLD.STAT. -/
def State.foldStat (s : State) (w : Warp) : Nat :=
  2 ^ 31 * b2n w.exh + 2 ^ 24 * w.deferred.length + s.freeEntries w.core

/-- TRAP.INFO. -/
def trapInfo (i : StopInfo) : Nat :=
  2 ^ 16 * i.code.toNat + 2 ^ 8 * i.first.toNat + 8 * b2n i.meet + i.strand.val

/-- TRAP.PCV of a strand PC. -/
def StrandPC.image (x : StrandPC) : Nat := 2 ^ 63 * b2n x.live + x.pos.toNat

/-- TRAP.PBLK. -/
def pblkImage : Option PblkRec → Nat
  | none => 0
  | some r => 2 ^ 63 + 2 ^ 55 * r.pat.toNat + 2 ^ 52 * r.cntM1.val + r.value.toNat

/-- Registers 0x040 to 0x058: outside handler mode all but TRAP.VEC read as zero. -/
def readTrap (w : Warp) (f : Fragment) (n : Nat) (l : Fin 32) : Nat :=
  let fr := f.frame
  if n = 0x041 then w.trapVec.toNat
  else if !f.handler then 0
  else if n = 0x040 then f.causes.toNat
  else if n = 0x042 then fr.fence.toNat
  else if n = 0x043 then fr.info.lanes.toNat
  else if n = 0x044 then trapInfo fr.info
  else if n = 0x045 then pblkImage fr.pblk
  else if n < 0x050 then (fr.pcv[Fin.ofNat 8 (n - 0x048)]).image
  else if n < 0x058 then (fr.done[Fin.ofNat 8 (n - 0x050)]).toNat
  else if inMask fr.info.lanes l then (fr.info.addr[l]).toNat
  else 0

/-! ### Memory, matrix, copy, vertical and collective registers -/

/-- The mode of a bank in BANK.MODE; 3 while it switches (R264). -/
def Bank.modeCode (b : Bank) : Nat :=
  if b.switching.isSome then 3 else match b.mode with
    | .cache => 0
    | .scratch => 1
    | .fifo => 2

/-- Sum of 2 ^ (step × n) × g n over the banks. -/
def overBanks (step : Nat) (g : Fin 12 → Nat) : Nat :=
  (List.finRange 12).foldl (fun acc n => acc + 2 ^ (step * n.val) * g n) 0

/-- Registers 0x100 to 0x123 (R264). -/
def State.readMemReg (s : State) (o : Owner) (w : Warp) (n : Nat) : Nat :=
  let bank := fun k => s.bank w.core k
  let held := fun (b : Bank) => s.heldByGang b o.gang.id
  if n < 0x110 then (o.block.windows[Fin.ofNat 16 (n - 0x100)]).toNat
  else if n = 0x110 then overBanks 2 fun k => (bank k).modeCode
  else if n = 0x111 then
    2 ^ 16 * (overBanks 1 fun k => b2n (held (bank k)))
      + overBanks 1 fun k => b2n ((bank k).holder == some (.block o.block.id))
  else if n = 0x112 then (s.cgs[cgOfCore w.core].slope).toNat
  else (bank (Fin.ofNat 12 (n - 0x118))).fifo.length

/-- Registers 0x200 to 0x220 (R304). -/
def State.readMatrixReg (s : State) (o : Owner) (w : Warp) (n : Nat) : Nat :=
  let r := w.loop
  if n < 0x210 then ((s.tile? o.block (n - 0x200)).map fun t => t.ctl.toNat).getD 0
  else if n = 0x210 then w.mxStat.toNat
  else if n = 0x211 then w.mxSteps.toNat
  else if n = 0x212 then w.mxAudCfg.toNat
  else if n = 0x213 then w.mxAudRing.toNat
  else if n = 0x214 then w.mxAudSeq.toNat
  else if n = 0x218 then 2 ^ 63 * b2n r.valid + 2 ^ 62 * b2n r.paired + 2 ^ 56 * r.acc.val + r.step % 2 ^ 32
  else if n = 0x219 then r.pos.toNat
  else if n = 0x21A then r.aAddr.toNat
  else if n = 0x21B then r.bAddr.toNat
  else if n = 0x21C then r.inc.toNat
  else if n = 0x21D then r.cnt.toNat
  else (s.cgs[cgOfCore w.core].bondTo).toNat

/-- Registers 0x300 to 0x344 (R327). -/
def State.readCopyReg (s : State) (o : Owner) (w : Warp) (n : Nat) : Nat :=
  let tag := fun k => s.tag o.block.id k
  if n < 0x340 then (tag (Fin.ofNat 64 (n - 0x300))).err.toNat
  else if n = 0x340 then (s.copyHandle o.gang.id).toNat
  else if n = 0x341 then w.copyLast.toNat
  else if n = 0x342 then ((s.copyCtx? o.gang.id).map fun c => c.err.toNat).getD 0
  else if n = 0x343 then (List.finRange 64).foldl (fun acc k => acc + 2 ^ k.val * b2n ((tag k).count != 0)) 0
  else o.block.tags

/-- Registers 0x400 to 0x41F (R357). -/
def State.readCollReg (s : State) (o : Owner) (w : Warp) (n : Nat) : Nat :=
  let die := dieOfCore w.core
  if n = 0x400 then (s.collHandle o.launch.id die).toNat
  else if n = 0x401 then w.collLast.toNat
  else if n = 0x402 then (s.dies[die].collCfg).toNat
  else if n = 0x403 then (s.dies[die].collTmo).toNat
  else if n = 0x404 then
    (s.barrier (.grid o.launch.id)).episode % 2 ^ 32 * 2 ^ 32 + (s.barrier (.die o.level.id)).episode % 2 ^ 32
  else (o.level.groups[Fin.ofNat 16 (n - 0x410)]).toNat

/-! ### Dispatch, pre-emption, home, link and host registers -/

/-- Bits of the dependence slots that satisfy a test. -/
def slotBits (ds : List (Option Dep)) (p : Option Dep → Bool) : Nat :=
  (List.range 4).foldl (fun acc n => acc + 2 ^ n * b2n (p ((ds[n]?).getD none))) 0

/-- DISP.DEPSTAT: an unused slot counts as met (R391). -/
def State.depStat (s : State) (l : Launch) : Nat :=
  256 * slotBits l.deps (fun d => d.any fun d => d.early) + slotBits l.deps fun d => d.all s.depMet

/-- Registers 0x480 to 0x487 (R393). -/
def State.readDispReg (s : State) (o : Owner) (w : Warp) (n : Nat) : Nat :=
  let l := o.launch
  let die := s.dies[dieOfCore w.core]
  if n = 0x480 then (queueHandle l.queue.vi l.queue.q).toNat
  else if n = 0x481 then l.op
  else if n = 0x482 then s.depStat l
  else if n = 0x483 then
    match s.partitionOf o with
    | none => 256 * l.prio + l.part
    | some p => 2 ^ 24 * b2n p.preempt + 2 ^ 16 * p.share + 256 * l.prio + 16 * p.prioCap + l.part
  else if n = 0x484 then s.time
  else if n = 0x485 then l.refCost
  else if n = 0x486 then die.therm.toNat
  else die.ageCfg.toNat

/-- The placed unit of a gang. -/
def State.unitOf (s : State) (gang : Nat) : Option PlacedUnit := s.units.find? fun u => u.gangs.contains gang

/-- PRE.STAT (R411). -/
def State.preStat (s : State) (o : Owner) (w : Warp) : Nat :=
  match s.unitOf o.gang.id with
  | none => 2 * b2n w.preFull
  | some u => 2 ^ 16 * min u.restores 0xFFFF + 2 * b2n w.preFull + b2n (u.requested.isSome && !w.preTaken)

/-- HOME.TIER: the shares of the interface's home agents, in decimal GB (R417). -/
def Iface.tierGB (i : Iface) : Nat :=
  min ((i.diesOf.map fun d => (i.cgsOf d).length).foldl (· + ·) 0 * i.tierSize / 10 ^ 9) 1024

/-- HOME.VAULT of the vault above a logical core group of a package die. -/
def State.vaultReg (s : State) (i : Iface) (d v : Nat) : Nat :=
  match i.packageCg d v with
  | none => 0
  | some g =>
    let x := (s.dies[Fin.ofNat 4 d]).vaults[Fin.ofNat 16 g]
    2 ^ 31 * b2n x.ready + 2 ^ 30 * b2n x.hot + 2 ^ 24 * x.mult.val + 2 ^ 16 * (x.temp % 256) + x.retRows.toNat

/-- Registers 0x600 to 0x61F (R436). (DEDUCED, log 24.) -/
def State.readHomeReg (s : State) (o : Owner) (w : Warp) (n : Nat) : Nat :=
  if n = 0x600 then o.launch.asid
  else if n = 0x601 then (s.dies[dieOfCore w.core].atom).toNat
  else match s.ifaceOf o with
    | none => 0
    | some i => if n = 0x602 then i.tierGB else s.vaultReg i (w.core / 64) (n - 0x610)

/-- LINK.STAT of die d: its CW port is on link d, its CCW port on link d + 3 (R437, R439). -/
def State.linkStat (s : State) (d : Nat) : Nat :=
  let a := s.links[Fin.ofNat 4 d]
  let b := s.links[Fin.ofNat 4 (d + 3)]
  let alt := !(s.linkUp d && s.linkUp (d + 1)) && s.linkUp (d + 3) && s.linkUp (d + 2)
  2 ^ 16 * min (a.downs + b.downs) 255 + 4 * b2n alt + 2 * b2n b.up + b2n a.up

/-- LINK.WIN: the launch's largest count of the last window (R447). -/
def State.linkWin (s : State) (launch : Nat) : Nat :=
  let cs := s.linkCounts.filter fun c => c.launch == launch
  match minBy (fun c => (2 ^ 40 - min c.last (2 ^ 40)) * 8 + 2 * c.link.val + b2n c.dir) cs with
  | none => 0
  | some c => 2 ^ 59 * c.link.val + 2 ^ 58 * b2n c.dir + c.last % 2 ^ 40

/-- LINK.PORT: no flit is replayed in the model (log 27). -/
def Port.image (p : Port) : Nat :=
  2 ^ 31 * b2n p.up + 2 ^ 30 * b2n p.rev + 2 ^ 16 * p.peerPkg.toNat + 2 ^ 8 * p.peerPort.toNat

/-- Registers 0x700 to 0x72F (R447). -/
def State.readLinkReg (s : State) (o : Owner) (w : Warp) (n : Nat) : Nat :=
  let d := w.core / 64
  let b := s.linkBytes[Fin.ofNat 4 d]
  if n = 0x700 then s.linkStat d
  else if n = 0x701 then s.mgmt.fabId.toNat
  else if n = 0x702 then b.cwOut
  else if n = 0x703 then b.cwIn
  else if n = 0x704 then b.ccwOut
  else if n = 0x705 then b.ccwIn
  else if n = 0x706 then s.linkWin o.launch.id
  else ((s.dies[Fin.ofNat 4 d]).ports[Fin.ofNat 32 (n - 0x710)]).image

/-- HM.STAT and HM.VI (R463). -/
def State.readHostReg (s : State) (o : Owner) (n : Nat) : Nat :=
  if n = 0x800 then
    2 ^ 16 * (s.mgmt.fwver.toNat % 2 ^ 16) + 4 * b2n ((s.partitionOf o).any fun p => p.debug)
      + 2 * b2n (s.mgmt.boot == .recovered) + b2n s.mgmt.replace
  else 256 * o.launch.part + o.launch.queue.vi

/-- A system register as a lane of a fragment reads it (R175, R176). -/
def State.sysRead (s : State) (o : Owner) (w : Warp) (f : Fragment) (n : Nat) (l : Fin 32) : W64 :=
  w64 (
    if n ≤ 0x00C then s.readId o w f n l
    else if n = 0x010 then w.fpstat.toNat
    else if n = 0x011 then w.fpen.toNat
    else if n = 0x012 then w.fptrig.toNat
    else if n = 0x018 then s.mgmt.ackTo
    else if n = 0x020 then s.readLratio o w.core
    else if n = 0x028 then s.foldStat w
    else if n = 0x029 then w.foldCtl.toNat
    else if n < 0x100 then readTrap w f n l
    else if n < 0x200 then s.readMemReg o w n
    else if n < 0x300 then s.readMatrixReg o w n
    else if n < 0x380 then s.readCopyReg o w n
    else if n = 0x380 then s.vxCfg w
    else if n = 0x381 then s.vxStat w
    else if n < 0x480 then s.readCollReg o w n
    else if n < 0x500 then s.readDispReg o w n
    else if n = 0x500 then s.preStat o w
    else if n = 0x501 then (s.dies[dieOfCore w.core].preTmo).toNat
    else if n < 0x700 then s.readHomeReg o w n
    else if n < 0x800 then s.readLinkReg o w n
    else s.readHostReg o n)

/-! ### SYSR (R74, R176) -/

/-- A 64-bit register. -/
def sysWide (n : BitVec 12) : Bool := (sregInfo n).any fun i => i.wide

/-- The destination of SYSR takes the value. -/
def sysrWrite (w : Warp) (o : SysOp) (m : Mask) (v : Fin 32 → W64) : Warp :=
  match o.r with
  | .g r => w.writeG (sysWide o.sreg) r m v
  | .s r => w.writeS r (((lowest? m).map v).getD 0)

/-- SYSR: FPSTAT and FPTRIG wait for every pending matrix operation of the warp. -/
def execSysr (o : SysOp) (s : State) : Out :=
  meetInstr (.sysr o) s fun x =>
    if (o.sreg == 0x010#12 || o.sreg == 0x012#12) && s.matrixPending x.w then waitRetry s x
    else match s.owner? x.w with
      | none => meetDone s x x.w
      | some ow => meetDone s x (sysrWrite x.w o x.f.lanes (s.sysRead ow x.w x.f o.sreg.toNat))

/-! ### SYSW (R4, R5, R177) -/

/-- The value SYSW writes. -/
def syswValue (x : Focus) (o : SysOp) : W64 :=
  match o.r with
  | .s r => x.w.s[r]
  | .g r => ((lowest? x.f.lanes).map fun l => regSelLane x.w l (.g r)).getD 0

/-- The ratio of a core group begins to change where REQ differs from CUR and none is under way (R161). (DESIGN CHOICE, log 22.) -/
def CoreGroup.request (g : CoreGroup) (req : BitVec 2) : CoreGroup :=
  { g with req := req, phase := if g.phase.isNone && req != g.cur then some .drain else g.phase }

/-- LRATIO is written: PRIVILEGE without the grant; 3 leaves REQ; a value above CAP counts as CAP (R161). -/
def lratioEffect (s : State) (x : Focus) (v : W64) : State :=
  let cg := cgOfCore x.w.core
  let g := s.cgs[cg]
  if !((s.partOf x.w).any fun p => p.lrGrant) then raisePlain s x .meeting cPRIVILEGE
  else
    let req := BitVec.ofNat 2 (bits v 3 2)
    let g1 := if req == 3#2 then g else g.request (if req.toNat > (s.capOf cg).toNat then s.capOf cg else req)
    meetDone { s with cgs := s.cgs.set cg g1 } x x.w

/-- TRAP.VEC is written: a nonzero ADDR must be listed in the kernel's target bitmap; zero removes the handler (R143). -/
def trapVecEffect (s : State) (x : Focus) (v : W64) : State :=
  let a := w64 (bits v 56 2 * 4)
  if a == 0 || s.listed x.w a.toNat then meetDone s x { x.w with trapVec := a }
  else raiseAll s x .meeting cUNLISTED (fun _ => a) RaiseInfo.plain

/-- SYSW: each field takes the effect of its access code. -/
def syswEffect (s : State) (x : Focus) (n : Nat) (v : W64) : State :=
  let lo := v.setWidth 32
  if n = 0x010 then meetDone s x { x.w with fpstat := x.w.fpstat &&& ~~~(lo &&& 0x7F#32) }
  else if n = 0x011 then meetDone s x { x.w with fpen := lo &&& 0x7F#32 }
  else if n = 0x012 then meetDone s x { x.w with fptrig := x.w.fptrig &&& ~~~(lo &&& 0x7F#32) }
  else if n = 0x020 then lratioEffect s x v
  else if n = 0x028 then meetDone s x { x.w with exh := x.w.exh && !lo.getLsbD 31 }
  else if n = 0x029 then meetDone s x { x.w with foldCtl := lo &&& 3#32 }
  else if n = 0x040 then
    finishMeeting s x.w (if x.f.handler then { x.f with causes := x.f.causes &&& ~~~v } else x.f) x.c.next
  else if n = 0x041 then trapVecEffect s x v
  else meetDone s x { x.w with mxStat := x.w.mxStat &&& ~~~(lo &&& 3#32) }

/-- SYSW. -/
def execSysw (o : SysOp) (s : State) : Out :=
  meetInstr (.sysw o) s fun x => syswEffect s x o.sreg.toNat (syswValue x o)

/-- LRATIO_WRITE: the write of LRATIO by the executing fragment. -/
def execLratioWrite (v : W64) (s : State) : Out := onFocus s fun x => lratioEffect s x v

/-- TRAP_VEC_WRITE: the write of TRAP.VEC by the executing fragment. -/
def execTrapVecWrite (v : W64) (s : State) : Out := onFocus s fun x => trapVecEffect s x v

/-! ### The change of the LCLK ratio (R161) -/

/-- An instruction that a cluster carries out: matrix operations and those of an engine go on while LCLK changes (R161). -/
def inCluster : Instr → Bool
  | .mma _ _ _ _ _ | .mloop _ _ _ _ _ _ | .mpair _ _ _ _ _ _ => false
  | .vpush _ _ _ | .vpushn _ _ _ _ => false
  | _ => true

/-- A fragment has a strand instruction in a cluster, or its run goes on to the next boundary. -/
def State.inClusters (s : State) (w : Warp) (f : Fragment) : Bool :=
  (f.pend.any fun e => inCluster e.instr)
    || (f.status == .ready && f.runLen != 0 && s.cores[coreFin w.core].running == some (w.slot, f.uid))

/-- No strand instruction is in flight in a cluster of the core group, and none may issue before the run boundaries. -/
def State.drained (s : State) (cg : Fin 64) : Bool :=
  s.warps.all fun w => cgOfCore w.core != cg || w.frags.all fun f => !s.inClusters w f

/-- LRATIO_SWITCH: the lanes stop for 2,048 FCLK cycles; a change whose target equals CUR completes at once. -/
def State.lratioSwitch (s : State) (cg : Fin 64) : Option State :=
  let g := s.cgs[cg]
  if g.phase == some .drain && s.drained cg then
    let ph := if g.req == g.cur then none else some (.relock (s.time + cyclesNs 2048))
    some { s with cgs := s.cgs.set cg { g with phase := ph } }
  else none

/-- LRATIO_SWITCH. -/
def execLratioSwitch (cg : Fin 64) (s : State) : Out := event s (s.lratioSwitch cg)

/-- LRATIO_RESUME: CUR := REQ once the lanes have relocked. -/
def State.lratioResume (s : State) (cg : Fin 64) : Option State :=
  let g := s.cgs[cg]
  match g.phase with
  | some (.relock due) =>
    if due ≤ s.time then some { s with cgs := s.cgs.set cg { g with cur := g.req, phase := none } } else none
  | _ => none

/-- LRATIO_RESUME. -/
def execLratioResume (cg : Fin 64) (s : State) : Out := event s (s.lratioResume cg)

end Sys2Proof.Machine
end

