-- ==== Sys2Proof/Machine/Home.lean ====
section
/-!
DEFINITION. The home engine beside the accesses themselves: address spaces terminated by lost data (R425), ICINV, VINV and
CFLUSH (R427-R432), code-store fills (R148), and the governor (R434).
-/

namespace Sys2Proof.Machine

open Sys2Proof

/-! ### Termination of an address space (R425) -/

/-- An address space is terminated: its launches end with KILLED, its queues take no further records, and management is
told. -/
def State.terminateSpace (s : State) (asid : Nat) : State :=
  match s.space? asid with
  | none => s
  | some a =>
    if a.terminated then s
    else
      let s1 : State := { s with
        spaces := replaceAll (fun k => k.asid == asid) (fun k => { k with terminated := true }) s.spaces
        queues := replaceAll (fun q => q.asid == asid) (fun q => { q with err := true }) s.queues }
      let s2 := (s1.launches.filter fun l => l.asid == asid).foldl (fun s l => s.endLaunch l.id stKILLED 0) s1
      s2.postEvent (fnOfVi a.vi) evASKILL (some asid) none

/-- Write back the dirty bytes at the addresses that satisfy a test. -/
def State.writeBack (s : State) (p : Nat → Bool) : State :=
  let (m, lost) := s.mem.writeBack p
  lost.eraseDups.foldl State.terminateSpace { s with mem := m }

/-! ### Bank switches (R245, R246) -/

/-- A package address is cached dirty in the way that a bank of a core is: its home is on the core's die, and whether the line stands in
that way is a free value. (DESIGN CHOICE, log 26.) -/
def State.inWay (s : State) (core : Nat) (n : Fin 12) (pa : Nat) : Bool :=
  s.dieOfPa pa == some (dieOfCore core) && Config.inWay s.freeIndex (pa / 128 * 4096 + core * 12 + n.val)

/-- The dirty lines of a bank's way are written back (R245, R425). -/
def State.flushWay (s : State) (core : Nat) (n : Fin 12) : State :=
  if s.mem.dirty.isEmpty then s
  else { s.writeBack (s.inWay core n) with freeIndex := s.freeIndex + 1 }

/-- BANK_SWITCH_COMPLETE (R246): a way that leaves CACHE mode is written back first. -/
def State.switchComplete (s : State) (core : Nat) (n : Fin 12) : Option State :=
  match (s.bank core n).switching with
  | none => none
  | some (mode, holder) =>
    let s0 := if (s.bank core n).mode == .cache && mode != .cache then s.flushWay core n else s
    let s1 := s0.setBank core n (Bank.switched mode holder)
    some { s1 with mem := { s1.mem with
      poison := s1.mem.poison.filter fun u => !(bankKey core n 0 / 32 ≤ u && u < bankKey core n 0 / 32 + 2048) } }

/-- BANK_SWITCH_COMPLETE. -/
def execBankSwitchComplete (core : Fin 256) (bank : Fin 12) (s : State) : Out :=
  event s (s.switchComplete core.val bank)

/-! ### ICINV, VINV, CFLUSH (R427-R432) -/

/-- A range of an address space in units of a number of bytes; `len` is not 0. -/
structure AsRange where
  asid : Nat
  base : Nat
  len : Nat
  unit : Nat
  deriving DecidableEq, Repr

/-- The unit of a virtual address meets the range. -/
def AsRange.meets (r : AsRange) (va : Nat) : Bool :=
  r.base / r.unit ≤ va / r.unit && va / r.unit ≤ (r.base + r.len - 1) / r.unit

/-- The package address of the frame that a cached translation names. -/
def State.frameOf (s : State) (t : TcEntry) : Option Nat :=
  (s.rootOf t.asid).bind fun r => r.1.toPackage (bits t.pte 47 16 * 2 ^ 16)

/-- The virtual addresses of an address space under which a package address is cached. -/
def State.namesOf (s : State) (asid pa : Nat) : List Nat :=
  (s.tcache.filter fun t => t.asid == asid).filterMap fun t =>
    match s.frameOf t with
    | some f => if f ≤ pa && pa < f + 2 ^ 16 then some (t.page * 2 ^ 16 + (pa - f)) else none
    | none => none

/-- A byte's line is written back with the range: it is cached under a name in the range, or the address space holds it dirty
under a name whose translation is no longer cached. -/
def State.inRange (s : State) (r : AsRange) (pa : Nat) : Bool :=
  let names := s.namesOf r.asid pa
  names.any r.meets || (names.isEmpty && s.mem.dirty.any fun d => d.1 == pa && d.2.2 == r.asid)

/-- A region of an address space meets the range. -/
def AsRange.meetsRegion (r : AsRange) (region : Nat) : Bool :=
  r.base / 2 ^ 30 ≤ region && region ≤ (r.base + r.len - 1) / 2 ^ 30

/-- The translations of the pages of the range are no longer cached, and no core group holds their region entries (R95). -/
def State.dropXlates (s : State) (r : AsRange) : State :=
  { s with
    tcache := s.tcache.filter fun t => !(t.asid == r.asid && r.meets (t.page * 2 ^ 16))
    regions := s.regions.filter fun e => !(e.asid == r.asid && r.meetsRegion e.region) }

/-- The action of VINV on its range. -/
def State.vinvRange (s : State) (r : AsRange) : State := (s.writeBack (s.inRange r)).dropXlates r

/-- The action of ICINV on its range. -/
def State.icinvRange (s : State) (r : AsRange) : State :=
  s.dropCode (fun e => e.asid == r.asid && r.meets (e.wa * 4)) fun _ => true

/-- The executing fragment waits for every die to acknowledge. -/
def rangeWait (s : State) (x : Focus) : State :=
  let op : RangeOp := { id := s.nextId, frag := ⟨x.w.core, x.w.slot, x.f.uid⟩, pos := x.c.pos }
  waitRetry { s with ranges := s.ranges ++ [op], nextId := s.nextId + 1 } x

/-- A range operation of the fragment is under way. -/
def State.ranging (s : State) (x : Focus) : Bool := s.ranges.any fun r => r.frag == ⟨x.w.core, x.w.slot, x.f.uid⟩

/-- What the three instructions share (R428): the checks, the release where it has one, then the action on the range. -/
def rangeInstr (i : Instr) (a l : Fin 32) (asid : Focus → State → Option Nat) (unit : Nat) (rel : Bool)
    (act : State → AsRange → State) (s : State) : Out :=
  meetInstr i s fun x =>
    let base := x.w.s[a]
    let len := x.w.s[l]
    if s.ranging x then waitRetry s x
    else if bits len 63 40 != 0 then raiseAll s x .meeting cILLSTATE (fun _ => len) RaiseInfo.plain
    else if len != 0 && (bits base 63 57 != 0 || bits (base + len - 1) 63 57 != 0) then
      raiseAll s x .meeting cNONCANON (fun _ => base) RaiseInfo.plain
    else match asid x s with
      | none => raisePlain s x .meeting cPRIVILEGE
      | some n =>
        let go := fun (s1 : State) (y : Focus) =>
          if len == 0 then meetDone s1 y y.w
          else rangeWait (act s1 { asid := n, base := base.toNat, len := len.toNat, unit := unit }) y
        if rel then releaseThen s x .system go else go s x

/-- The executing address space. -/
def ownSpace (x : Focus) (s : State) : Option Nat := some (s.asidOf x.w)

/-- The address space that a scalar names, where the partition holds its fault-service grant. -/
def servedSpace (n : Fin 32) (x : Focus) (s : State) : Option Nat :=
  let v := x.w.s[n]
  if bits v 63 16 == 0 && s.servesSpace x.w (some (bits v 15 0)) then some (bits v 15 0) else none

/-- ICINV. -/
def execIcinv (b : Bool) (a l : Fin 32) (s : State) : Out :=
  rangeInstr (.icinv b a l) a l ownSpace 128 false State.icinvRange s
/-- VINV. -/
def execVinv (b : Bool) (a l : Fin 32) (s : State) : Out :=
  rangeInstr (.vinv b a l) a l ownSpace (2 ^ 16) true State.vinvRange s
/-- VINV.AS. -/
def execVinvAs (b : Bool) (a l n : Fin 32) (s : State) : Out :=
  rangeInstr (.vinvAs b a l n) a l (servedSpace n) (2 ^ 16) true State.vinvRange s
/-- CFLUSH. -/
def execCflush (b : Bool) (a l : Fin 32) (s : State) : Out :=
  rangeInstr (.cflush b a l) a l ownSpace 128 true (fun s r => s.writeBack (s.inRange r)) s
/-- CFLUSH.INV: copies that are dropped leave nothing behind that a program could observe. -/
def execCflushInv (b : Bool) (a l : Fin 32) (s : State) : Out :=
  rangeInstr (.cflushInv b a l) a l ownSpace 128 true (fun s r => s.writeBack (s.inRange r)) s

/-- RANGE_ACK_COMPLETE: every die has acknowledged; one that is not ready does so at once. -/
def State.rangeAck (s : State) (id : Nat) : Option State :=
  match s.ranges.find? fun r => r.id == id with
  | none => none
  | some r =>
    let src := (dieOfCore r.frag.core).val
    if (List.range 4).any fun d => s.dies[Fin.ofNat 4 d].ready && !s.route src d then none
    else
      let s1 : State := { s with ranges := s.ranges.filter fun k => k.id != id }
      match s1.warp? r.frag.core r.frag.slot with
      | none => some s1
      | some w =>
        match w.frag? r.frag.uid with
        | none => some s1
        | some f => some (put s1 w { f.atFence (s1.after w r.pos) with status := .ready, age := s1.clock })

/-- RANGE_ACK_COMPLETE. -/
def execRangeAckComplete (id : Nat) (s : State) : Out := event s (s.rangeAck id)

/-! ### Code-store fills (R148) -/

/-- A fill that faults: the fragment stops before the word, without a split; its strands stand by R36, and one that has
nothing before the word stands at it. The record says STRAND 8 and a fetch. -/
def State.fillFault (s : State) (w : Warp) (f : Fragment) (wa cause : Nat) : State :=
  let cs := (lanesOf f.lanes).map fun l => (l, cause, byteAddr wa)
  let (s1, w1, f1) := s.stopFragment w { f with info := if f.handler then f.info else StopInfo.none }
  let strands := Vector.ofFn fun k =>
    let x := f1.strands[k]
    if x.live then x else ⟨false, posOfWord wa⟩
  put s1 w1 (s1.takeRoute w1 { f1 with strands := strands } cs .meeting { RaiseInfo.plain with fetch := true })

/-- The word at an address lies in a kernel range of an admitted object: no other word is ever fetched (R137). -/
def State.executable (s : State) (asid va : Nat) : Bool :=
  s.objects.any fun o => o.asid == asid && o.kernels.any fun k =>
    o.code + 4 * k.first ≤ va && va < o.code + 4 * (k.first + k.words)

/-- Translate a fetch of a core group (R414, R415). -/
def State.fetchXlate (s : State) (cg : Fin 64) (asid va : Nat) : Except Nat Xlate :=
  if s.choice.stale && (s.heldRegion (some cg) asid va).any (fun e2 => bits e2 63 62 == 0) then .error cTRANSLATION
  else s.xlate asid va .fetch s.choice.stale

/-- CODE_STORE_FILL: the word that a fragment's fetch misses comes into the code store of its core group, once its home
serves the die; or the fill faults once nothing of the fragment is incomplete. A word outside every admitted kernel range never
comes, and its fragment stands there for ever (R137). A fetch from the executing grid's die-pool range goes through the page tables
as any other does. (DESIGN CHOICE, log 30.) -/
def State.fill (s : State) (r : FragRef) : Option State :=
  match s.warp? r.core r.slot with
  | none => none
  | some w =>
    match w.frag? r.uid with
    | none => none
    | some f =>
      match f.status, s.fetchOf w f with
      | .ready, .missing wa =>
        let asid := s.asidOf w
        let cg := cgOfCore w.core
        let va := wa * 4
        if !s.executable asid va then none
        else if !s.serves (dieOfCore w.core).val ((s.homeOf (some cg) asid va).getD (dieOfCore w.core).val) then none
        else
          let bad := fun c => if f.pend.isEmpty then some ((s.noteRegion (some cg) asid va).fillFault w f wa c) else none
          match s.fetchXlate cg asid va with
          | .error c => bad c
          | .ok x =>
            let s0 := (s.noteRegion (some cg) asid va).useXlate asid va .fetch x
            if s0.mem.poisoned x.pa 4 then (if f.pend.isEmpty then some (s0.fillFault w f wa cMEMERR) else none)
            else
              let (bs, s1) := s0.bytesFor (some (dieOfCore w.core)) x.pa 4
              let g := s1.cgs[cg]
              let e : CodeWord := { asid := asid, wa := wa, word := w32 (leNat bs) }
              some { s1 with cgs := s1.cgs.set cg { g with store := e :: g.store } }
      | _, _ => none

/-- CODE_STORE_FILL. -/
def execCodeStoreFill (f : FragRef) (s : State) : Out := event s (s.fill f)

/-! ### The governor (R434) -/

/-- Thr of a multiplier code. -/
def thrOf (m : Nat) : Nat := if m = 0 then 85 else if m = 1 then 95 else 105

/-- One governor step of a vault. -/
def Vault.govern (v : Vault) : Vault :=
  let t := v.now
  let m := multOf (16 * t)
  let mult :=
    if m > v.mult.val then m
    else if m < v.mult.val && t + 3 ≤ thrOf (v.mult.val - 1) then v.mult.val - 1
    else v.mult.val
  { v with temp := t, mult := Fin.ofNat 4 mult, hot := t > 115 || (v.hot && t > 112) }

/-- A core group whose CAP has come to lie below its ratio goes down to it (R161). -/
def State.applyCap (s : State) (cg : Fin 64) : State :=
  let g := s.cgs[cg]
  let cap := s.capOf cg
  if cap.toNat < g.cur.toNat || cap.toNat < g.req.toNat then { s with cgs := s.cgs.set cg (g.request cap) } else s

/-- GOVERNOR_SAMPLE: the boundary of a window whose cost has been charged. -/
def State.governorSample (s : State) (die : Fin 4) : Option State :=
  let d := s.dies[die]
  if s.time / 10000 ≤ d.governed || d.charged ≤ d.governed then none
  else if !d.ready then some { s with dies := s.dies.set die { d with governed := d.governed + 1 } }
  else
    let d1 := { d with governed := d.governed + 1, vaults := Vector.ofFn fun v => d.vaults[v].govern }
    let s1 : State := { s with dies := s.dies.set die d1 }
    let newly := (List.finRange 16).filter fun v => d1.vaults[v].hot && !d.vaults[v].hot
    let s2 := newly.foldl (fun s v => s.postEvent 0 evOVER (some (die.val * 16 + v.val)) none) s1
    some ((List.finRange 16).foldl (fun s v => s.applyCap (Fin.ofNat 64 (die.val * 16 + v.val))) s2)

/-- GOVERNOR_SAMPLE. -/
def execGovernorSample (die : Fin 4) (s : State) : Out := event s (s.governorSample die)

end Sys2Proof.Machine
end

