-- ==== Sys2Proof/Machine/Preempt.lean ====
section
/-!
DEFINITION. Pre-emption (R396-R408): save requests, PHINT, the forced save, and the save of a unit whose warps have all been
taken.
-/

namespace Sys2Proof.Machine

open Sys2Proof

/-! ### Save requests (R396) -/

/-- A save request for a placed unit is accepted; a second one merges with it. -/
def State.requestSave (s : State) (unit : Nat) : State :=
  let ask := fun (u : PlacedUnit) => { u with requested := some s.time }
  { s with units := replaceAll (fun u => u.id == unit && u.requested.isNone) ask s.units }

/-- The placed unit of a warp. -/
def State.unitOfWarp (s : State) (w : Warp) : Option PlacedUnit := (s.block? w.block).bind fun b => s.unitOf b.gang

/-- The warps of a unit. -/
def State.warpsOf (s : State) (u : PlacedUnit) : List Warp :=
  s.warps.filter fun w => (s.block? w.block).any fun b => u.gangs.contains b.gang

/-! ### Taking a warp (R398-R400) -/

/-- A stopped fragment as it is saved: arrivals at joins and barriers stay; other waits end at their instruction. `strand`
says that it waited at a dispatched instruction. -/
def Fragment.saved (f : Fragment) (strand : Bool) (clock : Nat) : Fragment :=
  let fence := { f with status := .ready, fetchPC := f.fencePC, covIdx := 0, runLen := 0 }
  match f.status with
  | .parked | .stopped => f
  | .ready => fence
  | .waiting (.join _) | .waiting (.barrier _ _ _) => f
  | .waiting (.swath _ after) => { f.atFence after with status := .ready, age := clock }
  | .waiting _ => if f.trapPending then f else if strand then fence else { f.atMeeting with status := .ready, runLen := 0 }

/-- The arrivals of a fragment at reduction-tree episodes are withdrawn (R400). -/
def State.withdrawEpisodes (s : State) (r : FragRef) : State :=
  { s with episodes := s.episodes.map fun (e : Episode) => { e with arrivals := e.arrivals.filter fun a => a.1 != r } }

/-- A fragment of a warp that is taken stops (R36, R158). -/
def State.saveFrag (core slot : Nat) (s : State) (uid : Nat) : State :=
  match s.warp? core slot with
  | none => s
  | some w =>
    match w.frag? uid with
    | none => s
    | some f =>
      let (s1, w1, f1) := s.stopFragment w f
      (put s1 w1 (f1.saved (!f.pend.isEmpty) s.clock)).withdrawEpisodes ⟨core, slot, uid⟩

/-- A warp is taken for saving with the maps that govern its save, none where it is saved full. -/
def State.takeWarp (s : State) (w : Warp) (maps : Option (W64 × W64)) : State :=
  let s1 := (w.frags.map fun f => f.uid).foldl (State.saveFrag w.core w.slot) s
  let c := s1.cores[coreFin w.core]
  let run := match c.running with
    | some (sl, u) => if sl == w.slot then none else some (sl, u)
    | none => none
  let s2 : State := { s1 with
    ranges := s1.ranges.filter fun r => !(r.frag.core == w.core && r.frag.slot == w.slot)
    cores := s1.cores.set (coreFin w.core) { c with running := run } }
  match s2.warp? w.core w.slot with
  | none => s2
  | some w1 => s2.setWarp { w1 with preTaken := true, preMaps := maps }

/-- The maps of a PHINT govern the save (R399). -/
def mapsGovern (x : Focus) : Bool := x.w.frags.length == 1 && x.f.lanes == x.w.unretired && !x.f.handler

/-- PHINT in either form: no effect without a request; else the warp is taken, the executing fragment after the PHINT. While
the LCLK ratio changes no warp is taken (R396). -/
def phintInstr (i : Instr) (maps : Focus → Option (W64 × W64)) (s : State) : Out :=
  meetInstr i s fun x =>
    match s.unitOfWarp x.w with
    | none => meetDone s x x.w
    | some u =>
      if u.requested.isNone then meetDone s x x.w
      else if s.busy x.w.core then waitRetry s x
      else
        let s1 := meetDone s x x.w
        match s1.warp? x.w.core x.w.slot with
        | none => s1
        | some w => s1.takeWarp w (if mapsGovern x then maps x else none)

/-- PHINT. -/
def execPhint (g m : Fin 32) (s : State) : Out :=
  phintInstr (.phint g m) (fun x => some (x.w.s[g], x.w.s[m])) s
/-- PHINT.ALL. -/
def execPhintAll (s : State) : Out := phintInstr .phintAll (fun _ => none) s

/-- PRE.TMO of a die in ns; below 10 µs it acts as 10. -/
def State.preTmoNs (s : State) (die : Fin 4) : Nat := max 10 (s.dies[die].preTmo).toNat * 1000

/-- FORCED_SAVE: the warps of a unit that have not been taken in time are taken (R401). -/
def State.forcedSave (s : State) (unit : Nat) : Option State :=
  match s.units.find? fun u => u.id == unit with
  | none => none
  | some u =>
    match u.requested with
    | none => none
    | some t =>
      let late := (s.warpsOf u).filter fun w =>
        !w.preTaken && !s.busy w.core && t + s.preTmoNs (dieOfCore w.core) ≤ s.time
      if late.isEmpty then none
      else some (late.foldl (fun s w => s.takeWarp w none) s)

/-- FORCED_SAVE. -/
def execForcedSave (unit : Nat) (s : State) : Out := event s (s.forcedSave unit)

/-! ### The record (R402-R408) -/

/-- Bit n of a liveness map; everything lives where there is none. -/
def liveBit (maps : Option (W64 × W64)) (p : W64 × W64 → W64) (n : Nat) : Bool := maps.all fun m => (p m).getLsbD n

/-- A warp as its record restores it: what was not live reads zero, and every register is present (R399, R408). -/
def Warp.recorded (w : Warp) : Warp :=
  let live := fun p n => liveBit w.preMaps p n
  { w with
    g := Vector.ofFn fun n => if live Prod.fst n.val then w.g[n] else Lanes.all 0
    s := Vector.ofFn fun n => if live Prod.snd n.val then w.s[n] else 0
    acc := Vector.ofFn fun k =>
      if live Prod.snd (32 + k.val) || (w.loop.valid && w.loop.acc == k) then w.acc[k]
      else { val := Lanes.all 0, tile := none }
    gPresent := Vector.replicate 64 (BitVec.allOnes 32), sPresent := BitVec.allOnes 32
    pPresent := Vector.replicate 8 (BitVec.allOnes 32)
    preFull := w.preMaps.isNone, preTaken := false, preMaps := none }

/-- A SCRATCH bank of a block is named by a live window (R407). -/
def bankLive (b : Block) (ws : List Warp) (k : Fin 12) : Bool :=
  (List.finRange 16).any fun n =>
    let e := b.windows[n]
    bits e 63 62 == 1 && bits e 3 0 == k.val && ws.any fun w => liveBit w.preMaps Prod.snd (40 + n.val)

/-- The banks that a block holds, as they are saved. -/
def State.savedBanks (s : State) (ws : List Warp) (b : Block) : List (Nat × Fin 12 × Bank) :=
  (List.finRange 12).filterMap fun k =>
    let x := s.bank b.core k
    if x.holder == some (.block b.id) then
      some (b.id, k, if x.mode == .fifo || bankLive b (ws.filter fun w => w.block == b.id) k then x else { x with data := [] })
    else none

/-- The tiles that a block holds, by their names. -/
def State.savedTiles (s : State) (b : Block) : List (Nat × Nat × Tile) :=
  b.tiles.zipIdx.map fun t => (b.id, t.2, s.cores[coreFin b.core].tiles[t.1])

/-- The vertical FIFOs that a gang holds: gang, pair of the core group, entries. -/
def State.savedFifos (s : State) (g : Gang) : List (Nat × Nat × List (Lanes W32)) :=
  (List.range 2).filterMap fun p =>
    let x := s.pair (4 * g.cg + 2 * p)
    if x.holder == some g.id then some (g.id, p, x.fifo) else none

/-- The largest value of a measure over a list. -/
def maxBy {α : Type} (m : α → Nat) (xs : List α) : Nat := xs.foldl (fun n x => max n (m x)) 0

/-- The barriers of some blocks, gangs and levels, and of a grid. -/
def barOf (blocks gangs levels : List Nat) (grid : Option Nat) : BarKey → Bool
  | .block b | .named b _ => blocks.contains b
  | .gang g => gangs.contains g
  | .die d => levels.contains d
  | .grid l => grid == some l

/-- The parts of a unit that a save moves. -/
structure UnitParts where
  unit : PlacedUnit
  launch : Launch
  levels : List DieLevel
  gangs : List Gang
  blocks : List Block
  warps : List Warp
  deriving DecidableEq, Repr

/-- The parts of a placed unit; the levels are those of a die-level or grid unit. -/
def State.partsOf (s : State) (u : PlacedUnit) (l : Launch) : UnitParts :=
  let gs := s.gangs.filter fun g => u.gangs.contains g.id
  { unit := u, launch := l
    levels := if u.kind == 0 then [] else s.levels.filter fun d => d.launch == l.id && gs.any fun g => g.level == d.id
    gangs := gs, blocks := s.blocks.filter fun b => u.gangs.contains b.gang, warps := s.warpsOf u }

/-- A barrier is one of the unit's. -/
def UnitParts.owns (p : UnitParts) (k : BarKey) : Bool :=
  barOf (p.blocks.map fun b => b.id) (p.gangs.map fun g => g.id) (p.levels.map fun d => d.id)
    (if p.unit.kind == 2 then some p.launch.id else none) k

/-- A collective context is one of the unit's: a grid's are all those of the launch, also on a die whose level has retired (R353). -/
def UnitParts.ownsColl (p : UnitParts) (c : CollCtx) : Bool :=
  c.launch == p.launch.id && (p.unit.kind == 2 || p.levels.any fun d => d.die == c.die)

/-- A collective operation is one that the unit's save waits for: of a grid, any of the launch; else one on a die of the unit (R402). -/
def UnitParts.waitsColl (p : UnitParts) (o : CollOpn) : Bool :=
  o.launch == p.launch.id && (p.unit.kind == 2 || p.gangs.any fun g => g.cg / 16 == o.die.val)

/-- The cores of the unit. -/
def UnitParts.cores (p : UnitParts) : List Nat := (p.blocks.map fun b => b.core).eraseDups

/-- Pool entries that the unit's fragments hold on a core. -/
def UnitParts.entriesOn (p : UnitParts) (core : Nat) : Nat :=
  sumBy (fun w => if w.core == core then (w.frags.filter fun f => f.entry.toNat < 192).length else 0) p.warps

/-- Tile-mode accumulators of one name on a core. -/
def UnitParts.taccOn (p : UnitParts) (core : Nat) : Nat :=
  maxBy (fun (k : Fin 8) => (p.warps.filter fun w => w.core == core && (w.recorded.acc[k]).tile.isSome).length) (List.finRange 8)

/-- DIES of the record: logical dies that hold part of the unit. -/
def State.unitDies (s : State) (p : UnitParts) : Nat :=
  ((p.gangs.filterMap fun g => (s.iface? p.launch.queue.vi).bind fun i => i.logicalDie (g.cg / 16)).eraseDups).foldl
    (fun n d => n + 2 ^ d) 0

/-- KIND and owner of a unit's sections in their order (R406). -/
def State.sectionsOf (s : State) (p : UnitParts) : List (Nat × Nat) :=
  let i := s.iface? p.launch.queue.vi
  let die := fun (pd : Nat) => 2 ^ 12 * (i.bind fun i => i.logicalDie pd).getD 0
  let cg := fun (c : Nat) => die (c / 16) + 2 ^ 8 * (i.bind fun i => i.logicalCg (c / 16) (c % 16)).getD 0
  let block := fun (b : Block) => cg (b.core / 4) + 2 ^ 6 * (b.core % 4) + 4 * b.inGang
  let owner := fun (w : Warp) => (p.blocks.find? fun b => b.id == w.block).map block
  sortBy (fun x => x.1 * 2 ^ 16 + x.2)
    ((if p.unit.kind == 2 then [(1, 0)] else []) ++ p.levels.map (fun d => (2, die d.die.val)) ++ p.gangs.map (fun g => (3, cg g.cg))
      ++ p.blocks.map (fun b => (4, block b)) ++ p.warps.filterMap fun w => (owner w).map fun o => (5, o))

/-- The headers of the sections: KIND, length, owner. The lengths are free values. -/
def State.sectionHeaders (s : State) (p : UnitParts) : List (BitVec 128) :=
  (s.sectionsOf p).zipIdx.map fun x =>
    BitVec.ofNat 128 (x.1.1 + 2 ^ 32 * (8 * Config.sectionWords s.freeIndex x.2 % 2 ^ 32) + 2 ^ 64 * x.1.2)

/-- The length of a record in bytes: its header and its sections, in whole lines of 64. -/
def recordLength (sections : List (BitVec 128)) : Nat :=
  64 * ((64 + sumBy (fun (x : BitVec 128) => bits (x.extractLsb' 32 32 |>.setWidth 64) 31 0) sections + 63) / 64)

/-- The 64-byte header (R405). -/
def SavedUnit.headerBytes (u : SavedUnit) (l : Launch) : List Byte :=
  leBytes 4 0x5843574B ++ leBytes 2 1 ++ leBytes 1 u.kind ++ leBytes 1 (b2n u.full + 2 * b2n u.parked + 4 * b2n u.stoppedF)
    ++ leBytes 8 (recordLength u.sections) ++ leBytes 8 (queueHandle l.queue.vi l.queue.q).toNat ++ leBytes 8 l.op ++ leBytes 2 u.nfrag
    ++ leBytes 1 u.defDepth ++ leBytes 1 u.tacc ++ leBytes 2 u.nbar ++ leBytes 1 u.nwarp ++ leBytes 1 u.ncg ++ leBytes 1 u.dies.toNat
    ++ leBytes 7 0 ++ leBytes 8 u.time ++ leBytes 8 0

/-- The context record with its header. -/
def SavedUnit.withHeader (u : SavedUnit) (l : Launch) : SavedUnit := { u with header := BitVec.ofNat 512 (leNat (u.headerBytes l)) }

/-- The context record of a unit whose warps have been taken (R405, R406), without its header. -/
def State.recordOf (s : State) (p : UnitParts) : SavedUnit :=
  let dieCgs := fun (d : Nat) => ((p.gangs.map fun g => g.cg).eraseDups.filter fun c => c / 16 == d).length
  { header := 0, sections := s.sectionHeaders p
    logical := (List.range 4).filterMap fun d => ((s.iface? p.launch.queue.vi).bind fun i => i.logicalDie d).map fun l => (d, l)
    id := p.unit.id, launch := p.launch.id, kind := p.unit.kind, full := p.warps.any fun w => w.preMaps.isNone
    parked := p.warps.any fun w => w.frags.any fun f => f.status == .parked
    stoppedF := p.warps.any fun w => w.frags.any fun f => f.status == .stopped
    nfrag := maxBy p.entriesOn p.cores, defDepth := maxBy (fun w => w.deferred.length) p.warps
    tacc := maxBy p.taccOn p.cores
    nbar := maxBy (fun c => sumBy (fun b => if b.core == c then b.named else 0) p.blocks) p.cores
    nwarp := maxBy (fun c => (p.warps.filter fun w => w.core == c).length) p.cores
    ncg := maxBy dieCgs (List.range 4), dies := BitVec.ofNat 4 (s.unitDies p), time := s.time, restores := p.unit.restores
    level := p.levels, gangs := p.gangs, blocks := p.blocks, warps := p.warps.map Warp.recorded
    barriers := s.barriers.filter fun b => p.owns b.key, barValues := s.barValues.filter fun b => p.owns b.key
    tags := s.tags.filter fun t => p.blocks.any fun b => b.id == t.block
    ctxs := s.copyCtxs.filter fun c => p.gangs.any fun g => g.id == c.gang
    tiles := p.blocks.flatMap s.savedTiles, banks := p.blocks.flatMap (s.savedBanks p.warps)
    fifos := p.gangs.flatMap s.savedFifos, collCtxs := s.collCtxs.filter p.ownsColl
    debugSignals := s.debugSignals.filter fun d => p.warps.any fun w => d.core == w.core && d.slot == w.slot }

/-- The unit may be saved now: its warps are taken, and its accesses, copies and collectives are complete (R402). -/
def State.saveReady (s : State) (p : UnitParts) : Bool :=
  p.unit.requested.isSome && p.warps.all (fun w => w.preTaken)
    && !(s.copyOps.any fun o => p.gangs.any fun g => g.id == o.gang)
    && !(s.collOps.any p.waitsColl)
    && !(s.reqs.any fun r => p.warps.any fun w => (r.frag.core == w.core && r.frag.slot == w.slot)
      || (r.openE && r.readers.any fun d => d.1 == w.core && d.2.1 == w.slot))
    && !(p.blocks.any fun b => (List.finRange 12).any fun k =>
      let x := s.bank b.core k
      x.switching.any fun y => y.2 == some (.block b.id))

/-- The unit of an uncorrectable error in a tile's words; it is seen only when the tile is read for a record (R403). -/
def tileUnit (core : Nat) (t : Fin 16) : Nat := 2 ^ 71 + core * 16 + t.val

/-- An uncorrectable error in a register, tile, bank or pool word that the record would hold (R403). -/
def State.recordBad (s : State) (p : UnitParts) : Bool :=
  let bad := fun (lo n : Nat) => s.mem.poison.any fun u => lo ≤ u && u < lo + n
  let banks := p.blocks.flatMap fun b => (s.savedBanks p.warps b).map fun k => (b.core, k)
  !s.mem.poison.isEmpty && (
    p.warps.any (fun w => bad (warpUnit w.core w.slot) 1)
    || p.blocks.any (fun b => b.tiles.any fun t => bad (tileUnit b.core t) 1)
    || p.levels.any (fun d => bad (poolKey d.id 0 / 32) (2 ^ 35))
    || banks.any (fun x => (x.2.2.2.mode == .fifo || !x.2.2.2.data.isEmpty) && bad (bankKey x.1 x.2.2.1 0 / 32) 2048))

/-- A block's banks are given back; nothing of it is left on its core. -/
def State.giveBackBanks (s : State) (b : Block) : State :=
  let c := s.cores[coreFin b.core]
  let mine := fun (k : Fin 12) => c.banks[k].holder == some (.block b.id)
  let bank := fun (k : Fin 12) => if mine k then Bank.switched .cache none else c.banks[k]
  let gone := fun (u : Nat) => (List.finRange 12).any fun k =>
    mine k && bankKey b.core k 0 / 32 ≤ u && u < bankKey b.core k 0 / 32 + 2048
  { s with
    cores := s.cores.set (coreFin b.core) { c with banks := Vector.ofFn bank }
    mem := { s.mem with poison := s.mem.poison.filter fun u => !gone u } }

/-- The unit's resources are released; its contexts stay open, saved with it (R402, step 4). -/
def State.vacate (s : State) (p : UnitParts) : State :=
  let s1 := p.blocks.foldl State.giveBackBanks s
  let s2 := p.gangs.foldl (fun s g => s.freeFifo g.id) s1
  let gangOf := fun (n : Nat) => p.gangs.any fun g => g.id == n
  let blockOf := fun (n : Nat) => p.blocks.any fun b => b.id == n
  let warpOf := fun (c sl : Nat) => p.warps.any fun w => w.core == c && w.slot == sl
  { s2 with
    warps := s2.warps.filter fun w => !blockOf w.block
    blocks := s2.blocks.filter fun b => !blockOf b.id
    gangs := s2.gangs.filter fun g => !gangOf g.id
    levels := (s2.levels.filter fun d => !(p.levels.any fun k => k.id == d.id)).map fun (d : DieLevel) =>
      { d with liveGangs := d.liveGangs - (p.gangs.filter fun g => g.level == d.id).length }
    barriers := s2.barriers.filter fun b => !p.owns b.key
    barValues := s2.barValues.filter fun b => !p.owns b.key
    tags := s2.tags.filter fun t => !blockOf t.block
    copyCtxs := s2.copyCtxs.filter fun c => !gangOf c.gang
    collCtxs := s2.collCtxs.filter fun c => !p.ownsColl c
    debugSignals := s2.debugSignals.filter fun d => !warpOf d.core d.slot
    units := s2.units.filter fun u => u.id != p.unit.id
    mem := { s2.mem with poison := s2.mem.poison.filter fun u => !(p.warps.any fun w => u == warpUnit w.core w.slot) } }

/-- CONTEXT_SAVE: the record is written and the unit's resources are released; it is pending again. (DESIGN CHOICE, log 25.) -/
def State.contextSave (s : State) (unit : Nat) : Option State :=
  match s.units.find? fun u => u.id == unit with
  | none => none
  | some u =>
    match s.launch? u.launch with
    | none => none
    | some l =>
      let p := s.partsOf u l
      if !s.saveReady p then none
      else if s.recordBad p then some (s.terminateSpace l.asid)
      else
        let s1 := s.vacate p
        some (p.cores.foldl State.settleCore { s1.wakeDispatch with saved := s1.saved ++ [(s.recordOf p).withHeader l], freeIndex := s1.freeIndex + 1 })

/-- CONTEXT_SAVE. -/
def execContextSave (unit : Nat) (s : State) : Out := event s (s.contextSave unit)

end Sys2Proof.Machine
end

