-- ==== Sys2Proof/Machine/Restore.lean ====
section
/-!
DEFINITION. Restore (R408-R410): where a saved unit fits again, and its placement from its context record.
-/

namespace Sys2Proof.Machine

open Sys2Proof

/-! ### Whether a saved gang fits (R409) -/

/-- What a saved block needs of a core: what the record's sections hold. -/
def SavedUnit.needOf (u : SavedUnit) (b : Block) : Need :=
  { warps := (u.warps.filter fun w => w.block == b.id).length, tiles := b.tiles.length, bars := b.named, tags := b.tags
    banks := sumBy (fun x => if x.1 == b.id then 2 ^ x.2.1.val else 0) u.banks }

/-- The saved blocks of a gang. -/
def SavedUnit.blocksOf (u : SavedUnit) (g : Gang) : List Block := u.blocks.filter fun b => b.gang == g.id

/-- The blocks fit on their ranks. -/
def ranksFit (u : SavedUnit) : List Block → List CoreCap → Bool
  | [], _ => true
  | b :: bs, cs =>
    let r := rankOf b.core
    let c := cs.getD r CoreCap.whole
    c.takes (u.needOf b) && ranksFit u bs (cs.set r (c.less (u.needOf b)))

/-- Free tile slots of cluster k of a core. -/
def State.freeSlots (s : State) (core : Nat) (k : Fin 8) : Nat :=
  16 - (s.warps.filter fun w => w.core == core && (w.acc[k]).tile.isSome).length

/-- The pools of a core cover the record: entries and tile slots. -/
def State.coreCovers (s : State) (u : SavedUnit) (core : Nat) : Bool :=
  u.nfrag ≤ s.freeEntries core && (List.finRange 8).all fun k => u.tacc ≤ s.freeSlots core k

/-- The saved warps of a gang on a rank. -/
def SavedUnit.warpsAt (u : SavedUnit) (g : Gang) (rank : Nat) : List Warp :=
  u.warps.filter fun w => (u.blocksOf g).any fun b => b.id == w.block && rankOf b.core == rank

/-- The pools of a core hold the entries and the tile slots of a saved gang's warps. -/
def State.warpsFit (s : State) (ws : List Warp) (core : Nat) : Bool :=
  sumBy (fun w => (w.frags.filter fun f => f.entry.toNat < 192).length) ws ≤ s.freeEntries core
    && (List.finRange 8).all fun k => (ws.filter fun w => (w.acc[k]).tile.isSome).length ≤ s.freeSlots core k

/-- A saved gang fits on a core group; `covers` says which cores' pools cover the record as the restore begins. -/
def State.gangRefits (s : State) (covers : Nat → Bool) (u : SavedUnit) (l : Launch) (p : Partition) (h : PassHeat) (g : Gang) (cg : Nat) :
    Bool :=
  let pd := cg / 16
  let bs := u.blocksOf g
  let caps := (List.range 4).map fun r => s.coreCap (4 * cg + r)
  let units := l.heat * bs.length
  s.cgOpen l cg && s.dies[Fin.ofNat 4 pd].ready && (u.kind != 0 || (s.collFree l pd && s.poolFits l p pd))
    && s.floorsOk l h cg units && (s.freeCopyCtx cg).isSome && ranksFit u bs caps
    && bs.all (fun b => covers (4 * cg + rankOf b.core))
    && (List.range 4).all (fun r => s.warpsFit (u.warpsAt g r) (4 * cg + r))
    && u.fifos.all fun x => x.1 != g.id || ((s.pair (4 * cg + 2 * x.2.1)).holder.isNone && (s.pair (4 * cg + 2 * x.2.1)).gate == .on)

/-! ### Placing it (R408, R410) -/

/-- Fragments of a restored warp take entries: pool entries lowest first, the home entry of the new slot, or none. -/
def takeEntries (slot : Nat) : List Fragment → List Nat → List Fragment
  | [], _ => []
  | f :: fs, free =>
    if f.entry.toNat < 192 then
      match free with
      | e :: rest => { f with entry := BitVec.ofNat 9 e } :: takeEntries slot fs rest
      | [] => { f with entry := noEntry } :: takeEntries slot fs []
    else if f.entry == noEntry then f :: takeEntries slot fs free
    else { f with entry := homeEntry slot } :: takeEntries slot fs free

/-- The debug signal of a saved fragment. -/
def SavedUnit.signal (u : SavedUnit) (w : Warp) (f : Fragment) : Option DebugSignal :=
  u.debugSignals.find? fun d => d.core == w.core && d.slot == w.slot && d.entry == f.entry

/-- A fragment resumes in its saved state: a parked one replays without a FRESUME, a stopped one stays stopped and is
signalled again. -/
def State.revive (s : State) (w : Warp) (f : Fragment) (code : Option (BitVec 12)) : Fragment :=
  match f.status, code with
  | .parked, _ => s.resumed w f
  | .stopped, some c => { f with due := [brkRecord f c], ringSeq := none, arrivedAt := s.clock }
  | _, _ => { f with age := s.clock }

/-- A saved warp on a core. -/
def State.restoreWarp (u : SavedUnit) (core : Nat) (s : State) (w : Warp) : State :=
  let slot := s.freeSlotOf core
  let held := s.heldEntries core
  let frags := takeEntries slot w.frags ((List.range 192).filter fun e => !held.contains e)
  let acc := Vector.ofFn fun (k : Fin 8) =>
    let a := w.acc[k]
    { a with tile := a.tile.map fun t => { t with slot := (s.freeSlot? core k).getD 0 } }
  let w1 := { w with core := core, slot := slot, frags := frags, acc := acc }
  let codes := w.frags.map fun f => (u.signal w f).map fun d => d.code
  let w2 := { w1 with frags := (frags.zip codes).map fun x => s.revive w1 x.1 x.2 }
  let new := (frags.zip codes).filterMap fun x => x.2.map fun c => (⟨core, slot, x.1.entry, c⟩ : DebugSignal)
  { s with warps := s.warps ++ [w2], debugSignals := s.debugSignals ++ new }

/-- A saved block on a core: its banks, tiles and tags return, and its warps. -/
def State.restoreBlock (u : SavedUnit) (cg : Nat) (s : State) (b : Block) : State :=
  let core := 4 * cg + rankOf b.core
  let c := s.cores[coreFin core]
  let names := s.takeTiles core b.tiles.length
  let tile := fun (t : Fin 16) =>
    match names.idxOf? t with
    | some n => ((u.tiles.find? fun x => x.1 == b.id && x.2.1 == n).map fun x => x.2.2).getD c.tiles[t]
    | none => c.tiles[t]
  let bank := fun (k : Fin 12) =>
    match u.banks.find? fun x => x.1 == b.id && x.2.1 == k with
    | some x => x.2.2
    | none => c.banks[k]
  let s1 : State := { s with
    blocks := s.blocks ++ [{ b with core := core, tiles := names }]
    tags := s.tags ++ u.tags.filter fun t => t.block == b.id
    cores := s.cores.set (coreFin core) { c with banks := Vector.ofFn bank, tiles := Vector.ofFn tile } }
  (u.warps.filter fun w => w.block == b.id).foldl (State.restoreWarp u core) s1

/-- The FIFOs of a saved gang on a core group. -/
def State.restoreFifos (s : State) (u : SavedUnit) (l : Launch) (g : Gang) (cg : Nat) : State :=
  (u.fifos.filter fun x => x.1 == g.id).foldl (fun s x =>
    let core := 4 * cg + 2 * x.2.1
    s.setPair core { s.pair core with
      holder := some g.id, down := l.vdown, pgok := (recField l.record 7 1).testBit 6, fifo := x.2.2, waits := [] }) s

/-- A saved gang on a core group where it fits. -/
def State.restoreGang (s : State) (u : SavedUnit) (l : Launch) (h : PassHeat) (g : Gang) (cg : Nat) : State × PassHeat :=
  let bs := u.blocksOf g
  let h1 : PassHeat :=
    { units := (cg, l.heat * bs.length) :: h.units, empty := if (s.residents cg).isEmpty then cg :: h.empty else h.empty }
  let r : State × Nat := if u.kind == 0 then s.ensureLevel l (cg / 16) else (s, g.level)
  let live := fun (d : DieLevel) => { d with liveGangs := d.liveGangs + 1 }
  let old := u.ctxs.find? fun c => c.gang == g.id
  let idx := ((r.1).freeCopyCtx cg).getD 0
  let s1 : State := { r.1 with
    gangs := r.1.gangs ++ [{ g with cg := cg, level := r.2 }]
    levels := if u.kind == 0 then replaceAll (fun d => d.id == r.2) live r.1.levels else r.1.levels
    copyCtxs := r.1.copyCtxs ++ old.toList.map fun c => { c with cg := cg, index := idx } }
  (bs.foldl (State.restoreBlock u cg) (s1.restoreFifos u l g cg), h1)

/-- Each saved gang in turn on the lowest core group that takes it: those of its die for a die-level or grid unit. -/
def State.restoreGangs (covers : Nat → Bool) (u : SavedUnit) (l : Launch) (p : Partition) (cgs : Gang → List Nat) :
    List Gang → State → PassHeat → Option (State × PassHeat)
  | [], s, h => some (s, h)
  | g :: gs, s, h =>
    match (cgs g).find? fun c => s.gangRefits covers u l p h g c with
    | none => none
    | some c =>
      let r := s.restoreGang u l h g c
      State.restoreGangs covers u l p cgs gs r.1 r.2

/-- The package die on which what was saved on a package die returns: the one of its logical number (R409). -/
def SavedUnit.dieNow (u : SavedUnit) (i : Iface) (d : Nat) : Nat :=
  (((u.logical.find? fun x => x.1 == d).bind fun x => i.packageDie x.2)).getD d

/-- The saved die levels return on their logical dies; none where the pool does not fit. -/
def State.restoreLevels (l : Launch) (p : Partition) (die : Nat → Fin 4) : List DieLevel → State → Option State
  | [], s => some s
  | d :: ds, s =>
    let pd := die d.die.val
    if !s.dies[pd].ready || !s.collFree l pd.val || !s.poolFits l p pd.val then none
    else State.restoreLevels l p die ds { s with levels := s.levels ++ [{ d with die := pd }] }

/-- The saved collective contexts return, on dies whose level has retired too (R353); none where a context is not free. -/
def State.restoreColls (l : Launch) (die : Nat → Fin 4) : List CollCtx → State → Option State
  | [], s => some s
  | c :: cs, s =>
    let pd := die c.die.val
    if !s.collFree l pd.val then none
    else
      match s.freeCollCtx pd.val with
      | none => none
      | some n => State.restoreColls l die cs { s with collCtxs := s.collCtxs ++ [{ c with die := pd, index := n }] }

/-- Where a saved warp stands after the restore. -/
def State.newPlace (s : State) (u : SavedUnit) (core slot : Nat) : Nat × Nat :=
  match u.warps.find? fun w => w.core == core && w.slot == slot with
  | none => (core, slot)
  | some w =>
    match s.warps.find? fun v => v.block == w.block && v.inBlock == w.inBlock with
    | some v => (v.core, v.slot)
    | none => (core, slot)

/-- The saved barriers with their warps' new places. -/
def State.restoreBarriers (s : State) (u : SavedUnit) : State :=
  let bar := fun (b : Barrier) => { b with warps := b.warps.map fun (x : BarWarp) =>
    { x with core := (s.newPlace u x.core x.slot).1, slot := (s.newPlace u x.core x.slot).2 } }
  let val := fun (v : BarValues) => { v with dests := v.dests.map fun d =>
    let n := s.newPlace u d.1.core d.1.slot
    (⟨n.1, n.2⟩, d.2) }
  { s with barriers := s.barriers ++ u.barriers.map bar, barValues := s.barValues ++ u.barValues.map val }

/-- The saved unit placed again, with `ok` saying which core groups it may take and `pd` the die of the pass; none where it
does not fit. -/
def State.restore (s : State) (u : SavedUnit) (l : Launch) (i : Iface) (p : Partition) (h : PassHeat) (pd : Nat)
    (ok : Nat → Bool) : Option (State × PassHeat) :=
  let on := fun (d : Nat) => (s.partCgs i p d).filter ok
  let die := fun (d : Nat) => u.dieNow i d
  let cgs := fun (g : Gang) => if u.kind == 0 then on pd else on (die (g.cg / 16))
  let fin := fun (d : Nat) => (Fin.ofNat 4 (die d) : Fin 4)
  match (State.restoreLevels l p fin u.level s).bind (State.restoreColls l fin u.collCtxs) with
  | none => none
  | some s1 =>
    (State.restoreGangs (s.coreCovers u) u l p cgs u.gangs s1 h).map fun r =>
      let s2 := (r.1.restoreBarriers u).active l
      let unit : PlacedUnit :=
        { id := u.id, launch := u.launch, kind := u.kind, gangs := u.gangs.map fun g => g.id, requested := none
          restores := u.restores + 1 }
      let s3 : State := { s2 with units := s2.units ++ [unit], saved := s2.saved.filter fun v => v.id != u.id }
      ((u.barriers.map fun b => b.key).foldl State.checkBarrier s3, r.2)

/-! ### Refusal of a restore -/

/-- A bank is, or is becoming, a block's. -/
def Bank.blocks (b : Bank) : Bool :=
  let held := fun (h : Option Holder) => match h with
    | some (.block _) => true
    | _ => false
  held b.holder || b.switching.any fun x => held x.2

/-- The device with every resident block removed: gates, grants and dies stay as they are (R377). Reservations are looked at apart. -/
def State.unoccupied (s : State) : State :=
  let bank := fun (b : Bank) => if b.blocks then Bank.reset else b
  { s with
    warps := [], blocks := [], gangs := [], levels := [], units := [], tags := [], copyCtxs := [], collCtxs := [], barriers := []
    cores := Vector.ofFn fun c => { Core.reset with banks := Vector.ofFn fun k => bank s.cores[c].banks[k] }
    pairs := Vector.ofFn fun p => { s.pairs[p] with holder := none, fifo := [], waits := [] }
    launches := s.launches.map fun (k : Launch) => { k with reserved := [] } }

/-- The device with every resident block removed, every crown core on and every die out of reset (R409). -/
def State.emptied (s : State) : State :=
  let t := s.unoccupied
  { t with
    pairs := Vector.ofFn fun p => { t.pairs[p] with gate := .on }
    dies := Vector.ofFn fun d => { t.dies[d] with ready := true } }

/-- Logical dies to which a saved unit may go. -/
def restoreDies (u : SavedUnit) (l : Launch) (p : Partition) : List Nat :=
  if u.kind == 0 then l.dieList
  else
    let want := (List.range 4).filter fun d => u.dies.getLsbD d
    if want.all fun d => (partDies p).contains d then want else []

/-- The resource, 1 to 5 of R385's table, of which no core group that a saved gang may take has enough for its blocks. -/
def State.lacking (s : State) (u : SavedUnit) (g : Gang) (cgs : List Nat) : Option Nat :=
  let fits := fun (r cg : Nat) =>
    (List.range 4).all fun rank =>
      let c := s.coreCap (4 * cg + rank)
      let ns := ((u.blocksOf g).filter fun b => rankOf b.core == rank).map fun b => (u.needOf b).only r
      (ns.foldl (fun (acc : Bool × CoreCap) n => (acc.1 && acc.2.takes n, acc.2.less n)) (true, c)).1
  if cgs.isEmpty then none else [1, 2, 3, 4, 5].find? fun r => !cgs.any (fits r)

/-- No core group that a saved gang may take has the vertical pairs that it held. -/
def State.lacksPair (s : State) (u : SavedUnit) (g : Gang) (cgs : List Nat) : Bool :=
  !cgs.isEmpty && !cgs.any fun cg => u.fifos.all fun x => x.1 != g.id || (s.pair (4 * cg + 2 * x.2.1)).holder.isNone

/-- A saved unit that can never be placed again: DETAIL of UNPLACEABLE. -/
def State.restoreRefusal (s : State) (u : SavedUnit) (l : Launch) (i : Iface) (p : Partition) : Option Nat :=
  let dies := (restoreDies u l p).filterMap i.packageDie
  if dies.isEmpty then some 9
  else if l.poolMiB > p.poolMax then some 7
  else if u.nfrag > 192 then some 10
  else if u.defDepth > 4 then some 11
  else if u.tacc > 16 then some 12
  else if dies.any fun pd => (s.emptied.restore u l i p ⟨[], []⟩ pd fun _ => true).isSome then none
  else
    let cgs := fun (g : Gang) => (if u.kind == 0 then dies else [u.dieNow i (g.cg / 16)]).flatMap (s.partCgs i p)
    match u.gangs.findSome? fun g => s.emptied.lacking u g (cgs g) with
    | some r => some r
    | none => some (if u.gangs.any fun g => s.emptied.lacksPair u g (cgs g) then 8 else 6)

end Sys2Proof.Machine
end

