-- ==== Sys2Proof/Machine/Pass.lean ====
section
/-!
DEFINITION. The dispatch engine's records and passes: the checks of a kernel record (R363, R365), the placement pass with
refusal, reservation and pre-emption (R367, R368, R376-R379, R386), the refresh charge (R375), link windows (R380, R381)
and run-share windows (R384).
-/

namespace Sys2Proof.Machine

open Sys2Proof

/-! ### The units of a launch (R370) -/

/-- Kind of a launch's units: 0 gang, 1 die level, 2 grid. -/
def Launch.unitKind (l : Launch) : Nat := l.depth - 1

/-- Gangs per die of a die-level or grid launch on n dies. -/
def Launch.perDie (l : Launch) (n : Nat) : Nat := if n = 0 then 0 else (l.nGangs + n - 1) / n

/-- The first gang and the number of gangs of the k-th of n dies. -/
def Launch.gangRange (l : Launch) (n k : Nat) : Nat × Nat :=
  let a := min (k * l.perDie n) l.nGangs
  (a, min (l.perDie n) (l.nGangs - a))

/-- The dies of a launch with the gangs of each: logical die, first gang, count. -/
def gangRanges (l : Launch) : List (Nat × Nat × Nat) :=
  let ds := l.dieList
  ds.zipIdx.map fun x => (x.1, l.gangRange ds.length x.2)

/-! ### Checks 5 and 6 of R365 -/

/-- Gangs that an empty core group takes, heat aside. -/
def gangsPerCg (n : Need) (blocks : Nat) (vfifo down : Bool) : Nat → List CoreCap → List Nat → Nat
  | 0, _, _ => 0
  | k + 1, caps, pairs =>
    let takes := fun (pair : Option (Nat × Bool)) => assignGang n blocks pair caps
    let after := fun (rs : List Nat) => rs.foldl (fun cs r => cs.set r ((cs.getD r CoreCap.whole).less n)) caps
    if vfifo then
      match (pairs.filterMap fun q => (takes (some (q, down))).map fun rs => (q, rs)).head? with
      | some x => 1 + gangsPerCg n blocks vfifo down k (after x.2) (pairs.filter fun q => q != x.1)
      | none => 0
    else match takes none with
      | some rs => 1 + gangsPerCg n blocks vfifo down k (after rs) pairs
      | none => 0

/-- Four cores with nothing on them. -/
def wholeCg : List CoreCap := List.replicate 4 CoreCap.whole

/-- Gangs of a launch on an empty core group: at most 64, one per copy context. -/
def Launch.perCg (l : Launch) (k : Kernel) : Nat :=
  gangsPerCg (l.need k) l.nBlocks l.vfifo l.vdown 64 wholeCg [0, 1]

/-- The resource of which a gang needs more than an empty core group has. -/
def Launch.tooMuch (l : Launch) (k : Kernel) : Option Nat :=
  [1, 2, 3, 4, 5].find? fun r => (assignGang ((l.need k).only r) l.nBlocks none wholeCg).isNone

/-- Core groups of a partition on a logical die. -/
def State.cgsOn (s : State) (i : Iface) (p : Partition) (d : Nat) : List Nat :=
  match i.packageDie d with
  | some pd => s.partCgs i p pd
  | none => []

/-- The gangs fit when each core group of die d takes `cap d` of them. -/
def State.gangsFit (s : State) (l : Launch) (i : Iface) (p : Partition) (cap : Nat → Nat) : Bool :=
  let room := fun (d : Nat) => (s.cgsOn i p d).length * cap d
  if l.unitKind == 0 then l.dieList.any fun d => 1 ≤ room d
  else (gangRanges l).all fun r => r.2.2 ≤ room r.1

/-- Check 5: DETAIL of UNPLACEABLE. -/
def State.unplaceable (s : State) (l : Launch) (i : Iface) (p : Partition) (k : Kernel) : Option Nat :=
  if l.dieList.isEmpty then some 9
  else if l.poolMiB > p.poolMax || l.poolMiB > l2MiB then some 7
  else match l.tooMuch k with
    | some r => some r
    | none =>
      if l.vfifo && l.perCg k == 0 then some 8
      else if s.gangsFit l i p fun _ => l.perCg k then none
      else some 6

/-- Gangs that an empty core group of a package die takes before the launch's own floor fails. -/
def State.floorCap (s : State) (l : Launch) (k : Kernel) (pd : Nat) : Nat :=
  ((List.range (l.perCg k)).takeWhile fun n =>
    l.floor ≤ availOf (s.multEmpty pd ((n + 1) * (l.heat * l.nBlocks)))).length

/-- Check 6: the unit's own floor fails even on empty core groups. -/
def State.floorFails (s : State) (l : Launch) (i : Iface) (p : Partition) (k : Kernel) : Bool :=
  !(s.gangsFit l i p fun d => ((i.packageDie d).map fun pd => s.floorCap l k pd).getD 0)

/-! ### KERNEL_RECORD (R363, R365) -/

/-- The first status that a kernel record's checks give: status and DETAIL, or the launch. -/
def State.checkKernel (s : State) (q : Queue) (l : Launch) : Except (Nat × Nat) Launch :=
  match minBy id (recordFaults l.record) with
  | some d => .error (stBADRECORD, d)
  | none =>
    match s.kernelFor q l.record with
    | none => .error (stNOOBJECT, 0)
    | some k =>
      match kernelFault l.record k with
      | some d => .error (stBADRECORD, d)
      | none =>
        match s.readDeps q l.record l.op with
        | .error n => .error (stDEPFAULT, n)
        | .ok ds =>
          match s.iface? q.vi, s.part? q.vi q.part with
          | some i, some p =>
            let l1 := { l with deps := ds, depth := k.depth, poolMiB := k.poolMiB, prio := min l.prio p.prioCap, dies := diesAsked l p
                               heldBack := i.held, held := b2n i.held }
            match s.unplaceable l1 i p k with
            | some d => .error (stUNPLACEABLE, d)
            | none => if s.floorFails l1 i p k then .error (stFLOOR, 0) else .ok l1
          | _, _ => .error (stUNPLACEABLE, 9)

/-- A kernel record is taken. -/
def State.takeKernel (s : State) (q : Queue) (r : Rec256) : State :=
  let l := launchOf s.nextId q (q.head + 1) r
  let s1 := { s.advanceHead q with nextId := s.nextId + 1 }
  match s1.checkKernel q l with
  | .error e => (s1.writeCompletion l e.1 e.2).completeOp l.queue l.op e.1 true
  | .ok l1 => { s1 with launches := s1.launches ++ [l1] }

/-- KERNEL_RECORD. -/
def execKernelRecord (q : QueueRef) (s : State) : Out :=
  event s (s.recordEvent q (· == 1) State.takeKernel fun _ => none)

/-! ### Eligibility (R367, R368, R386) -/

/-- Launches whose dependences are met or released early become eligible: the coordinator looks at them (R19, R367). -/
def State.noteEligible (s : State) : State :=
  let new := fun (l : Launch) => l.eligibleAt.isNone && l.ending.isNone && s.coordinated && s.depsOk l.deps
  if s.launches.any new then
    ({ s with launches := replaceAll new (fun l => { l with eligibleAt := some s.time }) s.launches }).wakeDispatch
  else s

/-- Launches whose object is being withdrawn and that have no unit left end with NOOBJECT. -/
def State.endWithdrawn (s : State) : State :=
  (s.launches.filter fun l => s.withdrawnObj l && !s.hasUnits l).foldl (fun s l => s.finishLaunch l stNOOBJECT 0) s

/-- A launch was released early by an operation of which a unit is saved: the restore comes first. -/
def State.behindRestore (s : State) (l : Launch) : Bool :=
  l.deps.any fun d => match d with
    | some d => d.early && !s.depMet d && (match d.ctx with
      | .queue vi q => s.launches.any fun o =>
          o.queue.vi == vi && o.queue.q == q && o.op == d.value && s.saved.any fun u => u.launch == o.id
      | _ => false)
    | none => false

/-- The launch is held back: by its own link share or its interface's (R380, R381). -/
def State.heldOff (s : State) (l : Launch) : Bool := l.heldBack || (s.iface? l.queue.vi).any fun i => i.held

/-! ### Placing new units (R371, R372) -/

/-- A unit has been placed. -/
def State.noteUnit (s : State) (l : Launch) (gangs : List Nat) (dies : List Nat) : State :=
  let u : PlacedUnit :=
    { id := s.nextId, launch := l.id, kind := l.unitKind, gangs := gangs, requested := none, restores := 0 }
  let l1 := { l with
    placed := l.placed + gangs.length, tFirst := some (l.tFirst.getD s.time), doneDies := l.doneDies ++ dies, reserved := [] }
  (({ s with units := s.units ++ [u], nextId := s.nextId + 1 } : State).setLaunch l1).active l

/-- The gangs of several dies, all or none. -/
def State.placeRanges (l : Launch) (i : Iface) (p : Partition) (k : Kernel) (ok : Nat → Bool) :
    List (Nat × Nat × Nat) → State → PassHeat → Option (State × List Nat × PassHeat)
  | [], s, h => some (s, [], h)
  | r :: rs, s, h =>
    match State.placeGangs l p k ((s.cgsOn i p r.1).filter ok) r.2.2 r.2.1 s h with
    | none => none
    | some x => (State.placeRanges l i p k ok rs x.1 x.2.2).map fun y => (y.1, x.2.1 ++ y.2.1, y.2.2)

/-- The ranges of the next unit of a launch that a pass of package die pd may place. -/
def nextRanges (l : Launch) (i : Iface) (pd : Nat) : List (Nat × Nat × Nat) :=
  match i.logicalDie pd with
  | none => []
  | some d =>
    if !l.dieList.contains d then []
    else if l.unitKind == 0 then (if l.placed < l.nGangs then [(d, l.placed, 1)] else [])
    else if l.unitKind == 1 then
      (gangRanges l).filter fun r => r.1 == d && r.2.2 != 0 && !l.doneDies.contains d
    else if l.placed == 0 then (gangRanges l).filter fun r => r.2.2 != 0 else []

/-- The next unit of a launch placed on the core groups that `ok` allows; none where it does not fit. -/
def State.placeUnit (s : State) (l : Launch) (i : Iface) (p : Partition) (k : Kernel) (h : PassHeat) (pd : Nat)
    (ok : Nat → Bool) : Option (State × PassHeat) :=
  let rs := nextRanges l i pd
  (State.placeRanges l i p k ok rs s h).map fun x =>
    (x.1.noteUnit l x.2.1 (if l.unitKind == 0 then [] else rs.map fun r => r.1), x.2.2)

/-! ### The pass (R376-R379) -/

/-- A pending unit: the next new one of a launch, or a saved one. -/
inductive Waiting where
  | fresh (launch : Nat)
  | saved (unit : Nat)
  deriving DecidableEq, Repr

/-- The state of a pass: the device, heat placed so far, launches refused. -/
structure PassState where
  s : State
  h : PassHeat
  refused : List (Nat × Waiting)

/-- Everything that placing a launch's units needs. -/
def State.placeEnv (s : State) (l : Launch) : Option (Iface × Partition × Kernel) :=
  match s.iface? l.queue.vi, s.part? l.queue.vi l.part, s.kernelOf l with
  | some i, some p, some x => some (i, p, x.2)
  | _, _, _ => none

/-- Core groups that a launch may use: those of its reservation, where it has one. -/
def Launch.may (l : Launch) (cg : Nat) : Bool := l.reserved.isEmpty || l.reserved.contains cg

/-- The reservation of a launch, where it has one, lies on the die. -/
def Launch.triedOn (l : Launch) (pd : Nat) : Bool := l.reserved.isEmpty || l.reserved.any fun c => c / 16 == pd

/-- A unit is refused. -/
def PassState.refuse (x : PassState) (l : Launch) (w : Waiting) : PassState :=
  { x with s := x.s.setLaunch { l with refusals := l.refusals + 1 }, refused := x.refused ++ [(l.id, w)] }

/-- New units of a launch, as many as fit. -/
def placeFresh (pd : Nat) (id : Nat) : Nat → PassState → PassState
  | 0, x => x
  | n + 1, x =>
    match x.s.launch? id with
    | none => x
    | some l =>
      match x.s.placeEnv l with
      | none => x
      | some (i, p, k) =>
        if l.eligibleAt.isNone || l.ending.isSome || x.s.heldOff l || x.s.withdrawnObj l || x.s.behindRestore l
            || !l.triedOn pd || (nextRanges l i pd).isEmpty then x
        else match x.s.placeUnit l i p k x.h pd l.may with
          | none => x.refuse l (.fresh id)
          | some r => placeFresh pd id n { x with s := r.1, h := r.2 }

/-- A saved unit may go to the die. -/
def savedOn (u : SavedUnit) (l : Launch) (i : Iface) (pd : Nat) : Bool :=
  match i.logicalDie pd with
  | none => false
  | some d => if u.kind == 0 then l.dieList.contains d else u.dies.getLsbD d

/-- A saved unit is restored, refused, or refused whole. -/
def placeSaved (pd : Nat) (id : Nat) (x : PassState) : PassState :=
  match x.s.saved.find? fun u => u.id == id with
  | none => x
  | some u =>
    match x.s.launch? u.launch with
    | none => x
    | some l =>
      match x.s.placeEnv l with
      | none => x
      | some (i, p, _) =>
        if l.ending.isSome || x.s.heldOff l || x.s.behindRestore l || !l.triedOn pd then x
        else match x.s.restoreRefusal u l i p with
          | some d => { x with s := x.s.endLaunch l.id stUNPLACEABLE d }
          | none =>
            if !savedOn u l i pd then x
            else match x.s.restore u l i p x.h pd l.may with
              | some r => { x with s := r.1.setLaunch { l with reserved := [] }, h := r.2 }
              | none => x.refuse l (.saved id)

/-- The pending units in the order of a pass: effective priority, then the time of eligibility, saved units of a launch
before its new ones. -/
def State.waitingUnits (s : State) : List Waiting :=
  let key := fun (l : Launch) => (7 - min l.prio 7) * 2 ^ 80 + l.eligibleAt.getD 0
  (sortBy key (s.launches.filter fun l => l.eligibleAt.isSome)).flatMap fun l =>
    ((s.saved.filter fun u => u.launch == l.id).map fun u => Waiting.saved u.id) ++ [Waiting.fresh l.id]

/-- One pending unit of a pass. -/
def considerUnit (pd : Nat) (x : PassState) : Waiting → PassState
  | .fresh id => placeFresh pd id 1025 x
  | .saved id => placeSaved pd id x

/-- LIMIT of a die; 0 acts as 1. -/
def State.ageLimit (s : State) (pd : Nat) : Nat := max 1 (bits (s.dies[Fin.ofNat 4 pd]).ageCfg 15 0)

/-- The lowest-numbered set of core groups on which a unit fits once every resident block is removed, none of them reserved
by another launch. -/
def State.reservable (s : State) (l : Launch) (w : Waiting) (pd : Nat) : Option (List Nat) :=
  let ok := s.cgOpen l
  match s.placeEnv l with
  | none => none
  | some (i, p, k) =>
    let r : Option (State × PassHeat) := match w with
      | .fresh _ => s.unoccupied.placeUnit l i p k ⟨[], []⟩ pd ok
      | .saved id => (s.saved.find? fun u => u.id == id).bind fun u => s.unoccupied.restore u l i p ⟨[], []⟩ pd ok
    r.map fun x => (x.1.gangs.map fun g => g.cg).eraseDups

/-- The pre-emption of the units on a launch's reservation whose priority is below its own (R378). -/
def State.preemptFor (s : State) (l : Launch) : State :=
  if !((s.part? l.queue.vi l.part).any fun p => p.preempt) then s
  else
    let lower := s.units.filter fun u =>
      (s.launch? u.launch).any (fun k => k.prio < l.prio)
        && u.gangs.any fun n => (s.gang? n).any fun g => l.reserved.contains g.cg
    lower.foldl (fun s u => s.requestSave u.id) s

/-- Reservations after the pass, oldest launch first (R377). -/
def reserveFor (pd : Nat) (s : State) (r : Nat × Waiting) : State :=
  match s.launch? r.1 with
  | none => s
  | some l =>
    if !l.reserved.isEmpty then s.preemptFor l
    else if l.refusals < s.ageLimit pd then s
    else match s.reservable l r.2 pd with
      | none => s
      | some cgs =>
        let l1 := { l with reserved := cgs, claim := s.nextId }
        ({ s with nextId := s.nextId + 1 }.setLaunch l1).preemptFor l1

/-- PLACEMENT_PASS of a die. -/
def State.placementPass (s : State) (die : Fin 4) : State :=
  let s1 := (s.noteEligible).endWithdrawn
  let d := s1.dies[die]
  let s2 : State := { s1 with dies := s1.dies.set die { d with passed := s1.time / 1000 + 1, passDue := false } }
  if !d.ready then s2
  else
    let x := s2.waitingUnits.foldl (considerUnit die.val) { s := s2, h := ⟨[], []⟩, refused := [] }
    let age := fun (r : Nat × Waiting) => ((x.s.launch? r.1).bind fun l => l.eligibleAt).getD 0
    (sortBy age x.refused).foldl (reserveFor die.val) x.s

/-- PLACEMENT_PASS. -/
def execPlacementPass (die : Fin 4) (s : State) : Out := .next (s.placementPass die)

/-! ### The refresh charge (R375) -/

/-- A charge of a / b vault-nanoseconds is accumulated exactly. -/
def Launch.charge (l : Launch) (a b : Nat) : Launch :=
  let n := l.refNum * b + a * l.refDen
  let d := l.refDen * b
  let g := Nat.gcd n d
  { l with refNum := n / g, refDen := d / g }

/-- Heat units of a launch on a core group. -/
def State.heatOn (s : State) (l : Launch) (cg : Nat) : Nat :=
  l.heat * (s.blocks.filter fun b => b.core / 4 == cg && (s.gang? b.gang).any fun g =>
    (s.level? g.level).any fun d => d.launch == l.id).length

/-- One vault's cost in a window of 10 µs is divided among the launches resident below it. -/
def State.chargeVault (s : State) (cg : Nat) : State :=
  let ls := s.residents cg
  let total := sumBy (fun l => s.heatOn l cg) ls
  let cost := 100 * costOf (s.vaultOf cg).mult.val
  ls.foldl (fun t l =>
    match t.launch? l.id with
    | none => t
    | some k =>
      t.setLaunch (if total == 0 then k.charge cost ls.length else k.charge (cost * s.heatOn l cg) total)) s

/-- REFRESH_CHARGE of a die at a window's end. -/
def State.refreshCharge (s : State) (die : Fin 4) : Option State :=
  let d := s.dies[die]
  if s.window ≤ d.charged then none
  else
    let s1 : State := { s with dies := s.dies.set die { d with charged := d.charged + 1 } }
    some (if d.ready then (List.range 16).foldl (fun s v => s.chargeVault (16 * die.val + v)) s1 else s1)

/-- REFRESH_CHARGE. -/
def execRefreshCharge (die : Fin 4) (s : State) : Out := event s (s.refreshCharge die)

/-! ### Link windows (R380, R381, R446) -/

/-- The launches that have something resident as the next window begins. -/
def State.stillActive (s : State) : List (Nat × Nat) :=
  (s.launches.filter fun l => s.units.any fun u => u.launch == l.id).map fun l => (l.id, l.queue.vi)

/-- The directions of the links. -/
def linkDirs : List (Fin 4 × Bool) := (List.finRange 4).flatMap fun k => [(k, false), (k, true)]

/-- Bytes of all launches in the ended window on a direction of a link, with those charged to none. -/
def State.dirBytes (s : State) (cs : List LinkCount) (link : Fin 4) (dir : Bool) : Nat :=
  sumBy (fun c => if c.link == link && c.dir == dir then c.last else 0) cs + Config.linkUncharged s.freeIndex link dir

/-- Some direction of some link carried more than a share in per cent. -/
def overShare (share : Nat) (bytes : Fin 4 → Bool → Nat) : Bool :=
  share != 0 && linkDirs.any fun d => bytes d.1 d.2 > share * 600000

/-- LINK_WINDOW_END: the counts of the window, free values for the launches at work in it (log 3, log 28), LINK.BYTES, and who is held back in the next window. -/
def State.linkWindowEnd (s : State) : Option State :=
  if s.window ≤ s.linkWindow then none
  else
    let cs : List LinkCount := s.linkActive.flatMap fun l => linkDirs.map fun d =>
      { launch := l.1, vi := l.2, link := d.1, dir := d.2, last := Config.linkTraffic s.freeIndex l.1 d.1 d.2 }
    let of := fun (p : LinkCount → Bool) (k : Fin 4) (dir : Bool) =>
      sumBy (fun c => if p c && c.link == k && c.dir == dir then c.last else 0) cs
    let heldVi := fun (i : Iface) => overShare i.linkShare (of fun c => c.vi == i.vi)
    let ifaces := s.ifaces.map fun (i : Iface) => { i with held := heldVi i }
    let held := fun (l : Launch) =>
      overShare l.lshare (of fun c => c.launch == l.id) || s.ifaces.any fun i => i.vi == l.queue.vi && heldVi i
    let launches := s.launches.map fun (l : Launch) => { l with heldBack := held l, held := l.held + b2n (held l) }
    let bytes := Vector.ofFn fun (d : Fin 4) =>
      let b := s.linkBytes[d]
      let cw := d
      let ccw : Fin 4 := d + 3
      { cwOut := b.cwOut + s.dirBytes cs cw false, cwIn := b.cwIn + s.dirBytes cs cw true
        ccwOut := b.ccwOut + s.dirBytes cs ccw true, ccwIn := b.ccwIn + s.dirBytes cs ccw false : LinkBytes }
    some ({ s with
      linkLast := Vector.ofFn fun n => s.dirBytes cs (Fin.ofNat 4 (n.val / 2)) (n.val % 2 == 1)
      linkWindow := s.linkWindow + 1, linkActive := s.stillActive, linkCounts := cs, linkBytes := bytes, ifaces := ifaces, launches := launches
      freeIndex := s.freeIndex + 1 }).wakeDispatch

/-- LINK_WINDOW_END. -/
def execLinkWindowEnd (s : State) : Out := event s s.linkWindowEnd

/-- RUN_SHARE_WINDOW_END: the counts of a core's ended windows are gone. -/
def State.runWindowEnd (s : State) (core : Nat) : Option State :=
  let old := fun (r : RunCount) => r.core == core && r.window < s.window
  if s.runCounts.any old then some { s with runCounts := s.runCounts.filter fun r => !old r } else none

/-- RUN_SHARE_WINDOW_END. -/
def execRunShareWindowEnd (core : Fin 256) (s : State) : Out := event s (s.runWindowEnd core.val)

end Sys2Proof.Machine
end

