-- ==== Sys2Proof/Machine/Link.lean ====
section
/-!
DEFINITION. The ready block (R451), the link engine's failures (R440, R441), scale-up ports (R442-R444), and the reset of a
die (R19, R148, R342, R386, R403, R426).
-/

namespace Sys2Proof.Machine

open Sys2Proof

/-! ### The ready block (R451, R453) -/

/-- BOOT as a number. -/
def Boot.code : Boot → Nat
  | .booting => 0 | .running => 1 | .imageRefused => 2 | .recordRefused => 3 | .recoveryRefused => 4 | .recovered => 5
  | .halted => 6

/-- The dies and core groups that a function sees, by its own numbers: those of its interface, or all of the package. -/
def State.seen (s : State) (fn : Fin 65) : List (Nat × List Nat) :=
  match viOfFn fn with
  | none => (List.range 4).map fun d => (d, List.range 16)
  | some vi =>
    match s.iface? vi with
    | none => []
    | some i => i.diesOf.map fun d => (d, i.cgsOf d)

/-- The sum of 2 ^ n over the places n of a list at which a test holds. -/
def placeBits {α : Type} (p : α → Bool) (xs : List α) : Nat := sumBy (fun x => if p x.1 then 2 ^ x.2 else 0) xs.zipIdx

/-- Second-tier capacity that a function sees, in decimal GB. -/
def State.seenTier (s : State) (fn : Fin 65) : Nat :=
  match viOfFn fn with
  | none => s.mgmt.tierGB
  | some vi => ((s.iface? vi).map Iface.tierGB).getD 0

/-- The ready block of a function. -/
def State.readyBytes (s : State) (fn : Fin 65) : List Byte :=
  let ds := s.seen fn
  let die := fun (d : Nat) => s.dies[Fin.ofNat 4 d]
  let vaults := sumBy (fun x => 2 ^ (16 * x.2) * placeBits (fun g => ((die x.1.1).vaults[Fin.ofNat 16 g]).ready) x.1.2) ds.zipIdx
  let ports := sumBy (fun x => 2 ^ (32 * x.2) * placeBits (fun (p : Nat) => ((die x.1.1).ports[Fin.ofNat 32 p]).up) (List.range 32))
    ds.zipIdx
  let basic := b2n s.mgmt.pciUp + 2 * b2n s.mgmtUp + 4 * placeBits (fun x => (die x.1).ready) ds
  leBytes 1 basic ++ leBytes 1 s.mgmt.boot.code ++ leBytes 2 0 ++ leBytes 4 s.mgmt.fwver.toNat ++ leBytes 8 vaults
    ++ leBytes 16 ports ++ leBytes 1 (b2n s.mgmt.replace) ++ leBytes 2 (s.seenTier fn) ++ List.replicate 29 0

/-- The ready block of a function is written where one of its bits has changed, and a READY event after it. A function without
a root page has none. -/
def State.refreshFn (s : State) (fn : Fin 65) : State :=
  let f := s.funcs[fn]
  let bs := s.readyBytes fn
  if f.root == 0 || f.ready == bs then s
  else ((s.setFunc fn { f with ready := bs }).hostWrite f.root bs).putEvent fn evREADY none none

/-- The ready blocks of all functions. -/
def State.refreshReady (s : State) : State := (List.finRange 65).foldl State.refreshFn s

/-! ### Link failure (R439-R441) -/

/-- The links that a message from die a to die b takes. -/
def State.pathOf (s : State) (a b : Nat) : List Nat :=
  if a == b then []
  else if (a + 1) % 4 == b then (if s.linkUp a then [a] else [(a + 1) % 4, (a + 2) % 4, (a + 3) % 4])
  else if (b + 1) % 4 == a then (if s.linkUp b then [b] else [(b + 1) % 4, (b + 2) % 4, (b + 3) % 4])
  else if s.linkUp a && s.linkUp (a + 1) then [a, (a + 1) % 4] else [(a + 3) % 4, (a + 2) % 4]

/-- A request whose message may stand in a replay buffer of a link. An STNT goes on (log 31). -/
def State.onLink (s : State) (k : Nat) (r : Req) : Bool :=
  let ag := s.reqAgent r
  r.remote && r.kind != .stnt && (s.pathOf ag.die.val (s.homeDie ag (.glob r.va.toNat))).contains k

/-- Forwarded values are dropped: their stores' global acknowledgements are lost (R441, R100). -/
def State.dropForwarded (s : State) : State :=
  (s.reqs.filter fun r => r.kind == .storeE).foldl (fun s r =>
    match r.phase with
    | .accepted | .global => s.loseGlobal r
    | .performed (.value _ _) =>
      match s.storeAcceptance r.id with
      | some s1 => (match s1.req? r.id with
        | some q => s1.loseGlobal q
        | none => s1)
      | none => s
    | _ => s) s

/-- Each end of a link tells management (R456): the CW port of die k, the CCW port of die k + 1. -/
def State.linkEvents (s : State) (k : Nat) : State :=
  (s.postEvent 0 evLINKDOWN (some (2 * k)) none).postEvent 0 evLINKDOWN (some (2 * ((k + 1) % 4) + 1)) none

/-- LINK_DOWN: messages in the link's replay buffers are discarded (which, is a free value), forwarded values dropped. (DESIGN CHOICE, log 31.) -/
def State.linkDownAt (s : State) (k : Fin 4) : Option State :=
  let l := s.links[k]
  if !l.up then none
  else
    let drop := fun (r : Req) =>
      if s.onLink k.val r && Config.partialWrite s.freeIndex r.id then { r with lost := true } else r
    let s1 := { s.dropForwarded with freeIndex := s.freeIndex + 1 }
    let s2 : State := { s1 with
      reqs := s1.reqs.map drop, links := s1.links.set k { up := false, downs := l.downs + 1 } }
    some (s2.linkEvents k.val)

/-- LINK_DOWN. -/
def execLinkDown (k : Fin 4) (s : State) : Out := event s (s.linkDownAt k)

/-- LINK_UP: messages take the default routes again. Where the link had been declared down, this too is a change of route
(R441). -/
def State.linkUpAt (s : State) (k : Fin 4) : Option State :=
  let l := s.links[k]
  if l.up then none
  else
    let s1 := if l.downs == 0 then s else s.dropForwarded
    some { s1 with links := s1.links.set k { l with up := true } }

/-- LINK_UP. -/
def execLinkUp (k : Fin 4) (s : State) : Out := event s (s.linkUpAt k)

/-! ### Scale-up ports (R442-R444) -/

/-- Replace a port. -/
def State.setPort (s : State) (die : Fin 4) (n : Fin 32) (p : Port) : State :=
  let d := s.dies[die]
  { s with dies := s.dies.set die { d with ports := d.ports.set n p } }

/-- SCALEUP_PORT_DOWN: the collective engine goes on over the other ports of the route mask. -/
def execScaleupPortDown (die : Fin 4) (port : Fin 32) (s : State) : Out :=
  let p := s.dies[die].ports[port]
  event s (if p.up then some (s.setPort die port { p with up := false }).refreshReady else none)

/-- SCALEUP_PORT_UP: training reports the far end and its lane order. A die in reset trains no port. -/
def execScaleupPortUp (die : Fin 4) (port : Fin 32) (peerPkg : BitVec 12) (peerPort : BitVec 7) (rev : Bool) (s : State) :
    Out :=
  event s (if s.dies[die].ready then
    some (s.setPort die port { up := true, peerPkg := peerPkg, peerPort := peerPort, rev := rev }).refreshReady
  else none)

/-! ### The reset of a die (R426) -/

/-- The launches with a unit resident on a die, or with part of a unit there. -/
def State.launchesOn (s : State) (die : Nat) : List Launch :=
  s.launches.filter fun l => s.gangs.any fun g => g.cg / 16 == die && (s.level? g.level).any fun d => d.launch == l.id

/-- A launch ends with DIERESET; DETAIL is the logical die (R386). -/
def State.endByReset (die : Nat) (s : State) (l : Launch) : State :=
  s.killLaunch l stDIERESET (((s.iface? l.queue.vi).bind fun i => i.logicalDie die).getD 0)

/-- Cached translations whose home lies on a die are gone with the region entries of its core groups, and its forwarded values are not read any more. -/
def State.forgetHome (s : State) (die : Nat) : State :=
  let at_ := fun (t : TcEntry) =>
    ((s.rootOf t.asid).bind fun r => r.1.packageDie (homeLogical t.e2 (t.page * 2 ^ 16))) == some die
  { s with
    tcache := s.tcache.filter fun t => !at_ t
    regions := s.regions.filter fun e => e.cg.val / 16 != die
    forwards := s.forwards.map fun (f : Forward) => if s.dieOfPa f.pa == some die then { f with dropped := true } else f }

/-- A core group after the reset of its die: LRATIO at its reset values, an empty code store (R148, R160). -/
def CoreGroup.restart (g : CoreGroup) : CoreGroup := { g with req := 1, cur := 1, phase := none, store := [] }

/-- A die that has just been reset: what the configuration record and management set stays. -/
def Die.restart (d : Die) : Die :=
  { d with
    ready := false, ports := Vector.replicate 32 Port.reset
    vaults := Vector.ofFn fun v => { d.vaults[v] with ready := false, hot := false, mult := 0, temp := 0 } }

/-- The reset of a die: dirty lines are written back or lost, its launches end, and its cores, pairs and code stores hold
nothing. (DESIGN CHOICE, log 38.) -/
def State.dieReset (s : State) (die : Fin 4) (abrupt : Bool) : State :=
  let here := fun (pa : Nat) => s.dieOfPa pa == some die.val
  let s1 :=
    if abrupt then
      let (m, lost) := s.mem.loseDirty here
      lost.eraseDups.foldl State.terminateSpace { s with mem := m }
    else s.writeBack here
  let s2 := ((s1.launchesOn die.val).foldl (State.endByReset die.val) s1).forgetHome die.val
  let s3 := (List.range 64).foldl (fun s c => s.resetCore (64 * die.val + c)) s2
  let s4 : State := { s3 with
    pairs := Vector.ofFn fun p => if p.val / 32 == die.val then Pair.reset else s3.pairs[p]
    cgs := Vector.ofFn fun g => if g.val / 16 == die.val then s3.cgs[g].restart else s3.cgs[g]
    dies := s3.dies.set die s3.dies[die].restart
    linkBytes := s3.linkBytes.set die { cwOut := 0, cwIn := 0, ccwOut := 0, ccwIn := 0 } }
  s4.wakeDispatch.refreshReady

/-- DIE_READY: a die that boot or a reset left not ready reports ready; its homes serve again. -/
def State.dieReadyAt (s : State) (die : Fin 4) : Option State :=
  let d := s.dies[die]
  if d.ready || !s.mgmtUp then none
  else
    let d1 := { d with ready := true, vaults := Vector.ofFn fun v => { d.vaults[v] with ready := true } }
    some ({ s with dies := s.dies.set die d1 }.wakeDispatch).refreshReady

/-- DIE_READY. -/
def execDieReady (die : Fin 4) (s : State) : Out := event s (s.dieReadyAt die)

/-- VAULT_SCRUB_ERROR: the background scrub's finding is reported to management and raises no cause (R424). -/
def execVaultScrubError (die : Fin 4) (vault : Fin 16) (s : State) : Out :=
  .next { s with mgmt := { s.mgmt with scrubbed := s.mgmt.scrubbed ++ [16 * die.val + vault.val] } }

end Sys2Proof.Machine
end

