-- ==== Sys2Proof/Machine/Mgmt.lean ====
section
/-!
DEFINITION. Host and management: package reset and recovery (R13, R418, R451, R452, R462), the BAR (R449), capability
fields (R448), notify words (R457, R458), the supply-loss checkpoint (R460, R461), and what every management record
shares (R450, R454).
-/

namespace Sys2Proof.Machine

open Sys2Proof

/-! ### Boot (R13, R16, R452) -/

/-- A configuration record breaks R13: two dies with one index or one orientation. -/
def recordClash (r : List Byte) : Bool :=
  (List.finRange 4).any fun a => (List.finRange 4).any fun b =>
    a != b && (Config.recordIndex r a == Config.recordIndex r b || Config.recordOrient r a == Config.recordOrient r b)

/-- The configuration record is refused under an image. -/
def configBad (image record : List Byte) : Bool := !Config.recordVerifies image record || recordClash record

/-- A core group is retired, or a vault has no spare row left (R462). -/
def replaceMe (r : List Byte) : Bool :=
  Config.recordNoSpare r || (List.finRange 4).any fun d => Config.recordCgMask r d != 0xFFFF#16

/-- A die as the configuration record sets it up: the die that stands at place n has package index n, and on a K9410 or K9410M its
orientation is that index (R13). -/
def Die.configured (d : Die) (r : List Byte) (n : Fin 4) : Die :=
  { d with
    index := BitVec.ofNat 2 n.val, orient := if Config.isDieSet then Config.recordOrient r n else BitVec.ofNat 2 n.val
    cgMask := Config.recordCgMask r n
    vaults := Vector.ofFn fun v => { d.vaults[v] with retRows := Config.recordRetRows r n v } }

/-- The device runs an image with a configuration record. -/
def State.runImage (s : State) (image record : List Byte) (boot : Boot) : State :=
  let rep := replaceMe record
  let m := { s.mgmt with
    boot := boot, image := image, record := record, fwver := Config.imageVersion image, replace := rep
    ackTo := ((Config.recordAckTo record).map BitVec.toNat).getD 2000 }
  let s1 : State := { s with mgmt := m, dies := Vector.ofFn fun d => s.dies[d].configured record d }
  if rep then s1.postEvent 0 evREPLACE none none else s1

/-- The boot ROM checks the flash. -/
def State.bootFlash (s : State) : State :=
  let i := s.mgmt.flashImage
  let r := s.mgmt.flashRecord
  if !Config.imageVerifies i then { s with mgmt := { s.mgmt with boot := .imageRefused } }
  else if configBad i r then { s with mgmt := { s.mgmt with boot := .recordRefused } }
  else s.runImage i r .running

/-- The device after the reset of the package, before its boot: everything as at State.reset but the flash, host memory, what
the vaults and shares hold, the fitted second tier, the host's capability fields, and the model's own counters. -/
def State.cleared (s : State) : State :=
  let (m, _) := s.mem.loseDirty fun _ => true
  { State.reset with
    freeIndex := s.freeIndex, clock := s.clock, nextId := s.nextId, agenda := s.agenda, cursor := none
    hostMem := s.hostMem, mem := { m with indet := [], poison := m.poison.filter fun u => u < 2 ^ 45 }
    funcs := Vector.ofFn fun n => { Function.reset with root := s.funcs[n].root }
    mgmt := { Mgmt.reset with
      flashImage := s.mgmt.flashImage, flashRecord := s.mgmt.flashRecord, tierGB := s.mgmt.tierGB, pciUp := s.mgmt.pciUp } }

/-- PACKAGE_RESET. -/
def execPackageReset (s : State) : Out := .next s.cleared.bootFlash.refreshReady

/-- The recovery push of a function's root page: image and record. -/
def State.pushed (s : State) (fn : Fin 65) : List Byte × List Byte :=
  let d := s.funcs[fn].root + 192
  let part := fun (o : Nat) => s.hostRead (s.hostNum (d + o) 8) (s.hostNum (d + o + 8) 8)
  (part 0, part 16)

/-- RECOVER: a device that waits for a recovery push checks it and runs it. -/
def State.recoverPush (s : State) (fn : Fin 65) : Option State :=
  let waits := s.mgmt.boot == .imageRefused || s.mgmt.boot == .recordRefused || s.mgmt.boot == .recoveryRefused
  if !waits || s.funcs[fn].root == 0 then none
  else
    let (image, pushed) := s.pushed fn
    let record := if pushed.isEmpty then s.mgmt.flashRecord else pushed
    if !Config.imageVerifies image || configBad image record then
      some ({ s with mgmt := { s.mgmt with boot := .recoveryRefused } }).refreshReady
    else some (s.runImage image record .recovered).refreshReady

/-- RECOVER. -/
def execRecover (fn : Fin 65) (s : State) : Out := event s (s.recoverPush fn)

/-! ### PCI Express (R448, R449, R451) -/

/-- PCI_EXPRESS_LINK_UP. -/
def execPciExpressLinkUp (s : State) : Out :=
  event s (if s.mgmt.pciUp then none else some ({ s with mgmt := { s.mgmt with pciUp := true } }).refreshReady)

/-- PCI_EXPRESS_LINK_DOWN. -/
def execPciExpressLinkDown (s : State) : Out :=
  event s (if s.mgmt.pciUp then some ({ s with mgmt := { s.mgmt with pciUp := false } }).refreshReady else none)

/-- CAPABILITY_WRITE: ROOTADDR names the 4 KiB root page, which then gets its ready block; a DOORBELL bit but RECOVER does
nothing. -/
def execCapabilityWrite (fn : Fin 65) (f : CapField) (v : W64) (s : State) : Out :=
  match f with
  | .rootAddr =>
    .next ((s.setFunc fn { s.funcs[fn] with root := v.toNat / 4096 * 4096, ready := [] }).refreshFn fn)
  | .doorbell => .next s

/-- BARFAULT: offset bits 39:8 in the detail. -/
def State.barFault (s : State) (vi : Nat) (off : BitVec 40) : State :=
  s.postEvent (fnOfVi vi) evBARFAULT none (some (off.toNat / 256))

/-- The address space bound to a BAR. -/
def State.boundSpace (s : State) (vi : Nat) : Option Nat := (s.iface? vi).bind fun i => i.barAsid

/-- BAR_READ: the bytes, or all ones where the BAR is unbound or the read faults. -/
def execBarRead (vi : Fin 64) (off : BitVec 40) (n : Nat) (s : State) : Out :=
  let ones := fun (t : State) => { t.barFault vi.val off with barAnswer := List.replicate n 0xFF#8 }
  match s.boundSpace vi.val with
  | none => .next (ones s)
  | some a =>
    match s.readVa none a off.toNat n with
    | .error _ => .next (ones (s.readTouch a off.toNat n))
    | .ok (bs, s1) => .next { s1 with barAnswer := bs }

/-- BAR_WRITE: performed at its home, or dropped. -/
def execBarWrite (vi : Fin 64) (off : BitVec 40) (bytes : List Byte) (s : State) : Out :=
  match s.boundSpace vi.val with
  | none => .next (s.barFault vi.val off)
  | some a =>
    match s.writeVa a off.toNat bytes with
    | .error _ => .next (s.barFault vi.val off)
    | .ok s1 => .next s1

/-! ### Notify words (R457, R458) -/

/-- A sample of a metric, 16 bits. -/
def State.sample (s : State) (metric object : Nat) : Nat :=
  let vault := (s.dies[Fin.ofNat 4 (object / 16)]).vaults[Fin.ofNat 16 object]
  (if metric = 0 then (s.dies[Fin.ofNat 4 object]).temp
   else if metric = 1 then vault.now
   else if metric = 2 then s.mgmt.power
   else if metric = 3 then vault.mult.val
   else (s.linkLast[Fin.ofNat 8 object]) * 1000 / 60000000) % 2 ^ 16

/-- The sampling period of a metric in ns. -/
def metricPeriod (metric : Nat) : Nat := if metric = 2 then 100000 else 10000

/-- The notify word. -/
def notifyWord (above : Bool) (value seq : Nat) : Nat := 2 ^ 48 * b2n above + 2 ^ 32 * (value % 2 ^ 16) + seq % 2 ^ 32

/-- Replace a function's subscription of a slot. -/
def State.setSub (s : State) (fn : Fin 65) (b : Subscription) : State :=
  let f := s.funcs[fn]
  s.setFunc fn { f with subs := b :: f.subs.filter fun x => x.slot != b.slot }

/-- Cancel the subscription of a slot. -/
def State.dropSub (s : State) (fn : Fin 65) (slot : Nat) : State :=
  let f := s.funcs[fn]
  s.setFunc fn { f with subs := f.subs.filter fun x => x.slot != slot }

/-- Write a notify word; where the write would fault the subscription is cancelled. (DESIGN CHOICE, log 40.) -/
def State.notify (s : State) (fn : Fin 65) (b : Subscription) (value : Nat) : State :=
  let r := if b.word.toNat % 8 != 0 || bits b.word 63 57 != 0 then none
    else match s.writeVa b.asid b.word.toNat (leBytes 8 (notifyWord b.above value b.seq)) with
      | .ok s1 => some s1
      | .error _ => none
  match r with
  | some s1 => s1.setSub fn { b with seq := b.seq + 1 }
  | none => (s.dropSub fn b.slot).postEvent fn evNOTIFYFAULT (some b.slot) none

/-- One later sample of a subscription. -/
def State.sampleSub (s : State) (fn : Fin 65) (b : Subscription) : State :=
  let v := s.sample b.metric b.object
  let above := if b.above then !(v + b.hyst ≤ b.threshold) else v > b.threshold
  let b1 := { b with above := above, sampled := b.sampled + 1 }
  if above == b.above then s.setSub fn b1 else s.notify fn b1 v

/-- NOTIFY_SAMPLE: a subscription's metric is sampled at the end of each period. -/
def execNotifySample (slot : Fin 64) (vi : Fin 65) (s : State) : Out :=
  event s (match s.funcs[vi].subs.find? fun b => b.slot == slot.val with
    | none => none
    | some b => if s.time / metricPeriod b.metric ≤ b.sampled then none else some (s.sampleSub vi b))

/-! ### The supply-loss checkpoint (R460) -/

/-- The dirty lines, by the package address of their first byte, ascending. -/
def State.dirtyLines (s : State) : List Nat := sortBy id ((s.mem.dirty.map fun d => d.1 / 128).eraseDups)

/-- The name under which a dirty line is checkpointed: address space and virtual line, where its permissions carry CK. -/
def State.lineName (s : State) (line : Nat) : Option (Nat × Nat) :=
  ((s.mem.dirty.find? fun d => d.1 / 128 == line).map fun d => d.2.2).bind fun asid =>
    (s.tcache.find? fun t => t.asid == asid && t.pte.getLsbD 59
      && (s.frameOf t).any fun f => f ≤ line * 128 && line * 128 < f + 2 ^ 16).map fun t =>
        (asid, t.page * 2 ^ 16 + line * 128 % 2 ^ 16)

/-- The record of a line: an uncorrectable error leaves its data undefined. -/
def State.lineRecord (s : State) (line : Nat) (name : Nat × Nat) : List Byte :=
  let err := s.mem.poisoned (line * 128) 128
  leBytes 8 name.2 ++ leBytes 2 name.1 ++ leBytes 1 (b2n err) ++ List.replicate 5 0
    ++ (if err then (List.range 128).map fun k => Config.freeByte s.freeIndex (line * 128 + k)
        else cellReads s.mem.cells (line * 128) 128)

/-- The records of the checkpoint: those of lines that a ready die holds. -/
def State.checkpointRecords (s : State) : List (List Byte) :=
  s.dirtyLines.filterMap fun n =>
    if (s.dieOfPa (n * 128)).any fun d => s.dies[Fin.ofNat 4 d].ready then (s.lineName n).map (s.lineRecord n) else none

/-- The marker. -/
def markerBytes (full : Bool) (count time : Nat) (records : List Byte) : List Byte :=
  leBytes 4 0x4B43_574B ++ leBytes 4 (b2n full) ++ leBytes 8 count ++ leBytes 8 time
    ++ leBytes 32 (Config.sm3 records).toNat ++ List.replicate 8 0

/-- The checkpoint sequencer: records, marker, halt. -/
def State.checkpoint (s : State) : State :=
  let recs := s.checkpointRecords
  let m := s.mgmt
  let room := (m.ckptSize - 64) / 144
  let kept := recs.take room
  let data := kept.flatMap id
  let s1 := if m.ckptSize == 0 then s
    else (s.hostWrite (m.ckptBase + 64) data).hostWrite m.ckptBase
      (markerBytes (kept.length < recs.length) kept.length s.time data)
  { s1 with
    freeIndex := s1.freeIndex + 1, mgmt := { s1.mgmt with boot := .halted }
    dies := Vector.ofFn fun d => { s1.dies[d] with ready := false } }

/-- SUPPLY_LOSS_WARNING. -/
def execSupplyLossWarning (s : State) : Out :=
  event s (if s.mgmt.boot == .halted then none else some s.checkpoint.refreshReady)

end Sys2Proof.Machine
end

