-- ==== Sys2Proof/Machine/Records.lean ====
section
/-!
DEFINITION. The management records (R454, R465) and the management queue (R450).
-/

namespace Sys2Proof.Machine

open Sys2Proof

/-! ### What every record shares (R454) -/

/-- Status codes. -/
def msDONE : Nat := 0
def msBADRECORD : Nat := 1
def msDENIED : Nat := 2
def msBUSY : Nat := 3
def msNOSPACE : Nat := 4

/-- What a record leads to: the device, its status, and a byte written back into the record. -/
structure MgmtResult where
  s : State
  status : Nat
  back : Option (Nat × Nat)

/-- A status without an effect. -/
def refuseRec (s : State) (st : Nat) : MgmtResult := { s := s, status := st, back := none }

/-- DONE with an effect. -/
def doneRec (s : State) : MgmtResult := { s := s, status := msDONE, back := none }

/-- The kind of a record, and bytes 3:1 and the bytes that its row leaves unnamed are zero. -/
def recordOk (r : Rec256) (kind : Nat) (named : List (Nat × Nat)) : Bool :=
  recField r 0 1 == kind && recField r 1 3 == 0
    && (List.range 248).all fun n => let b := n + 8
      recField r b 1 == 0 || named.any fun x => x.1 ≤ b && b ≤ x.2

/-- A function may issue records: the physical function, or the function of an enabled interface. -/
def State.issuer (s : State) (fn : Fin 65) : Bool :=
  match viOfFn fn with
  | none => true
  | some vi => (s.iface? vi).any fun i => i.enabled

/-- Form first, then the right to issue the record, then its effect. (DESIGN CHOICE, log 39.) -/
def mgmtRec (fn : Fin 65) (r : Rec256) (kind : Nat) (pf : Bool) (named : List (Nat × Nat)) (s : State)
    (k : State → MgmtResult) : MgmtResult :=
  if !recordOk r kind named then refuseRec s msBADRECORD
  else if (pf && fn != 0) || !s.issuer fn then refuseRec s msDENIED
  else k s

/-- The interface for which a record acts: the issuing function's own, or the one that byte 12 names from the physical
function. -/
def State.viOfRec (s : State) (fn : Fin 65) (r : Rec256) : Except Nat Iface :=
  let n := recField r 12 1
  match viOfFn fn with
  | some vi => if n != 0 then .error msBADRECORD else match s.iface? vi with
    | some i => .ok i
    | none => .error msDENIED
  | none => match s.iface? n with
    | some i => .ok i
    | none => .error msBADRECORD

/-- Replace an interface. -/
def State.setIface (s : State) (i : Iface) : State :=
  if s.ifaces.any fun k => k.vi == i.vi then { s with ifaces := replaceAll (fun k => k.vi == i.vi) (fun _ => i) s.ifaces }
  else { s with ifaces := s.ifaces ++ [i] }

/-- STATUS is written into the ring slot, HEAD and DONE move on (R450, R454). -/
def State.finishRecord (fn : Fin 65) (m : MgmtResult) : State :=
  let f := m.s.funcs[fn]
  let cb := f.root + 64
  let head := f.mqHead
  let s1 := m.s.setFunc fn { f with mqHead := head + 1 }
  if f.root == 0 then s1
  else
    let slot := s1.hostNum cb 8 + 256 * (head % 2 ^ (s1.hostNum (cb + 8) 1 % 32))
    let s2 := s1.hostWrite (slot + 4) (leBytes 4 m.status)
    let s3 := match m.back with
      | some b => s2.hostWrite (slot + b.1) (leBytes 1 b.2)
      | none => s2
    (s3.hostWrite (cb + 16) (leBytes 8 (head + 1))).hostWrite (cb + 32) (leBytes 8 (head + 1))

/-- The record at the head of a function's management queue is carried out, where management runs. -/
def mgmtExec (fn : Fin 65) (s : State) (op : State → MgmtResult) : Out :=
  .next (if s.mgmtUp then State.finishRecord fn (op s) else s)

/-! ### VICONFIG, PARTITION (R359, R417, R453) -/

/-- Pairs of die and core group that a mask names. -/
def maskPairs (m : W64) : List (Nat × Nat) :=
  (List.range 4).flatMap fun d => ((List.range 16).filter fun g => m.getLsbD (16 * d + g)).map fun g => (d, g)

/-- The interface has a resident unit. -/
def State.viBusy (s : State) (vi : Nat) : Bool :=
  s.units.any fun u => (s.launch? u.launch).any fun l => l.queue.vi == vi

/-- Bytes of a vault: a sixteenth of 64 GB (R24). -/
def vaultBytes : Nat := 4 * 10 ^ 9

/-- What VICONFIG asks for does not exist (R465). -/
def State.viNoSpace (s : State) (cgs : W64) (vbase vsize tbase tsize : Nat) : Bool :=
  let ps := maskPairs cgs
  ps.any (fun p => !(s.dies[Fin.ofNat 4 p.1].cgMask).getLsbD p.2) || vbase + vsize > vaultBytes
    || (tsize != 0 && tbase + ps.length * tsize > s.mgmt.tierGB * 10 ^ 9)

/-- The effect of VICONFIG. -/
def viconfigOp (fn : Fin 65) (r : Rec256) (s : State) : MgmtResult :=
  mgmtRec fn r 0x10 true [(8, 9), (16, 40), (48, 63)] s fun s =>
    let f := recField r
    let vi := f 8 1
    let cgs := w64 (f 16 8)
    if vi > 63 || f 9 1 > 1 || f 24 8 % 2 ^ 16 != 0 || f 32 8 % 2 ^ 16 != 0 then refuseRec s msBADRECORD
    else if s.viBusy vi then refuseRec s msBUSY
    else if s.viNoSpace cgs (f 24 8) (f 32 8) (f 48 8) (f 56 8) then refuseRec s msNOSPACE
    else
      let old := s.iface? vi
      let i : Iface :=
        { vi := vi, enabled := f 9 1 == 1, cgs := cgs, vaultBase := f 24 8, vaultSize := f 32 8, linkShare := f 40 1
          tierBase := f 48 8, tierSize := f 56 8, barAsid := old.bind fun i => i.barAsid
          grants := (old.map fun i => i.grants).getD [], parts := (old.map fun i => i.parts).getD [], held := false }
      doneRec (s.setIface i).refreshReady

/-- VICONFIG. -/
def execViconfig (fn : Fin 65) (r : Rec256) (s : State) : Out := mgmtExec fn s (viconfigOp fn r)

/-- The logical mask of package core groups. -/
def Iface.logicalMask (i : Iface) (m : W64) : W64 :=
  w64 (sumBy (fun p => match i.logicalDie p.1, i.logicalCg p.1 p.2 with
    | some d, some g => 2 ^ (16 * d + g)
    | _, _ => 0) (maskPairs m))

/-- The effect of PARTITION. -/
def partitionOp (fn : Fin 65) (r : Rec256) (s : State) : MgmtResult :=
  mgmtRec fn r 0x11 true [(8, 13), (16, 31)] s fun s =>
    let f := recField r
    match s.iface? (f 8 1) with
    | none => refuseRec s msBADRECORD
    | some i =>
      if f 9 1 > 7 || f 10 1 > 7 || f 12 1 > 7 then refuseRec s msBADRECORD
      else if (maskPairs (w64 (f 16 8))).any fun p => !i.grants? p.1 p.2 then refuseRec s msDENIED
      else
        let p : Partition :=
          { index := f 9 1, prioCap := f 10 1, share := f 11 1, preempt := (f 12 1).testBit 0, lrGrant := (f 12 1).testBit 1
            debug := (f 12 1).testBit 2, poolMax := f 13 1, cgs := i.logicalMask (w64 (f 16 8)), saveBytes := f 24 8 }
        doneRec (s.setIface { i with parts := p :: i.parts.filter fun q => q.index != p.index })

/-- PARTITION. -/
def execPartition (fn : Fin 65) (r : Rec256) (s : State) : Out := mgmtExec fn s (partitionOp fn r)

/-! ### ASCREATE, ASDESTROY (R449, R455) -/

/-- The effect of ASCREATE. -/
def ascreateOp (fn : Fin 65) (r : Rec256) (s : State) : MgmtResult :=
  mgmtRec fn r 0x12 false [(8, 12), (16, 31)] s fun s =>
    let f := recField r
    match s.viOfRec fn r with
    | .error e => refuseRec s e
    | .ok i =>
      if f 10 1 > 7 || f 11 1 > 1 then refuseRec s msBADRECORD
      else if (s.space? (f 8 2)).isSome then refuseRec s msBUSY
      else
        let a : AddrSpace :=
          { asid := f 8 2, vi := i.vi, root := f 16 8, ring := w64 (f 24 8), service := f 10 1, ringSeq := 0
            terminated := false }
        let s1 := if f 11 1 == 1 then s.setIface { i with barAsid := some a.asid } else s
        doneRec { s1 with spaces := s1.spaces ++ [a] }

/-- ASCREATE. -/
def execAscreate (fn : Fin 65) (r : Rec256) (s : State) : Out := mgmtExec fn s (ascreateOp fn r)

/-- A queue is gone: its context is released and its operations are dropped, a withdrawal under way among them. (DESIGN CHOICE, log
55.) -/
def State.dropQueue (s : State) (vi q : Nat) : State :=
  let s1 := s.releaseCtx (.queue vi q)
  { s1 with
    queues := s1.queues.filter fun k => !(k.vi == vi && k.q == q)
    pendingOps := s1.pendingOps.filter fun o => o.queue != ⟨vi, q⟩ }

/-- Everything that an address space holds is released, its launches killed first; code stores keep their copies (R148). -/
def State.destroySpace (s : State) (asid : Nat) : State :=
  let unbind := fun (i : Iface) => if i.barAsid == some asid then { i with barAsid := none } else i
  let s0 : State := { s with ifaces := s.ifaces.map unbind }
  let s1 := (s0.launches.filter fun l => l.asid == asid).foldl (fun s l => s.killLaunch l stKILLED 0) s0
  let s2 := (s1.queues.filter fun q => q.asid == asid).foldl (fun s q => s.dropQueue q.vi q.q) s1
  { s2 with
    spaces := s2.spaces.filter fun a => a.asid != asid
    objects := s2.objects.filter fun o => o.asid != asid
    tcache := s2.tcache.filter fun t => t.asid != asid
    regions := s2.regions.filter fun e => e.asid != asid }

/-- The effect of ASDESTROY. -/
def asdestroyOp (fn : Fin 65) (r : Rec256) (s : State) : MgmtResult :=
  mgmtRec fn r 0x13 false [(8, 9), (12, 12)] s fun s =>
    match s.viOfRec fn r, s.space? (recField r 8 2) with
    | .error e, _ => refuseRec s e
    | .ok _, none => refuseRec s msBADRECORD
    | .ok i, some a =>
      if a.vi != i.vi then refuseRec s (if fn == 0 then msBADRECORD else msDENIED) else doneRec (s.destroySpace a.asid)

/-- ASDESTROY. -/
def execAsdestroy (fn : Fin 65) (r : Rec256) (s : State) : Out := mgmtExec fn s (asdestroyOp fn r)

/-! ### QREG, QUNREG (R359, R360) -/

/-- A queue as its control block describes it; none where the block cannot be read or breaks R360. -/
def State.queueAt (s : State) (vi q part asid : Nat) (block : W64) : Option Queue :=
  match s.readNum asid block.toNat 8, s.readNum asid (block.toNat + 8) 1, s.readNum asid (block.toNat + 9) 1 with
  | some ring, some n, some flags =>
    if block.toNat % 64 != 0 || ring % 256 != 0 || n < 4 || n > 16 then none
    else some { vi := vi, q := q, part := part, asid := asid, block := block, ring := w64 ring, log2n := n
                dev := flags.testBit 0, head := 0, tail := 0, seen := 0, counter := 0, err := false, statuses := [] }
  | _, _, _ => none

/-- The effect of QREG. -/
def qregOp (fn : Fin 65) (r : Rec256) (s : State) : MgmtResult :=
  mgmtRec fn r 0x14 false [(8, 12), (16, 23)] s fun s =>
    let f := recField r
    match s.viOfRec fn r with
    | .error e => refuseRec s e
    | .ok i =>
      if f 8 1 > 15 || f 9 1 > 7 then refuseRec s msBADRECORD
      else match s.space? (f 10 2) with
        | none => refuseRec s msBADRECORD
        | some a =>
          if a.vi != i.vi || (s.part? i.vi (f 9 1)).isNone then refuseRec s msDENIED
          else if (s.queue? i.vi (f 8 1)).isSome then refuseRec s msBUSY
          else match s.queueAt i.vi (f 8 1) (f 9 1) a.asid (w64 (f 16 8)) with
            | none => refuseRec s msBADRECORD
            | some q => doneRec { s with queues := s.queues ++ [{ q with err := a.terminated }] }

/-- QREG. -/
def execQreg (fn : Fin 65) (r : Rec256) (s : State) : Out := mgmtExec fn s (qregOp fn r)

/-- The effect of QUNREG. -/
def qunregOp (fn : Fin 65) (r : Rec256) (s : State) : MgmtResult :=
  mgmtRec fn r 0x15 false [(8, 8), (12, 12)] s fun s =>
    match s.viOfRec fn r with
    | .error e => refuseRec s e
    | .ok i =>
      match s.queue? i.vi (recField r 8 1) with
      | none => refuseRec s msBADRECORD
      | some q =>
        if s.launches.any fun l => l.queue == ⟨q.vi, q.q⟩ then refuseRec s msBUSY else doneRec (s.dropQueue q.vi q.q)

/-- QUNREG. -/
def execQunreg (fn : Fin 65) (r : Rec256) (s : State) : Out := mgmtExec fn s (qunregOp fn r)

/-! ### SETREG -/

/-- Change a register of the dies of a mask. -/
def State.setDies (s : State) (mask : Nat) (g : Die → Die) : State :=
  { s with dies := Vector.ofFn fun d => if mask.testBit d.val then g s.dies[d] else s.dies[d] }

/-- Change a register of a core group, by its package number. -/
def State.setCg (s : State) (cg : Nat) (g : CoreGroup → CoreGroup) : State :=
  { s with cgs := s.cgs.set (Fin.ofNat 64 cg) (g s.cgs[Fin.ofNat 64 cg]) }

/-- The device after the fields of a register that are marked "Set by management" have taken their places in `v`; none for a
register without such a field, or one that another record sets. -/
def State.setRegister (s : State) (reg where_ : Nat) (v : W64) : Option State :=
  let cg := fun g => if where_ < 64 then some (s.setCg where_ g) else none
  let dies := fun g => if where_ < 16 then some (s.setDies where_ g) else none
  if reg = 0x020 then
    if bits v 7 6 == 3 then none
    else (cg fun g => { g with cap := BitVec.ofNat 2 (bits v 7 6) }).map fun s1 => s1.applyCap (Fin.ofNat 64 where_)
  else if reg = 0x112 then cg fun g => { g with slope := w32 (bits v 23 0) }
  else if reg = 0x220 then cg fun g => { g with bondTo := w32 (bits v 31 0) }
  else if reg = 0x402 then dies fun d => { d with collCfg := w32 (bits v 15 0) }
  else if reg = 0x403 then dies fun d => { d with collTmo := w32 (bits v 31 0) }
  else if reg = 0x486 then dies fun d => { d with therm := w32 (bits v 23 16 * 2 ^ 16 + bits v 7 0) }
  else if reg = 0x487 then dies fun d => { d with ageCfg := w32 (bits v 15 0) }
  else if reg = 0x501 then dies fun d => { d with preTmo := w32 (bits v 31 0) }
  else if reg = 0x601 then dies fun d => { d with atom := w32 (bits v 7 0) }
  else if reg = 0x701 then some { s with mgmt := { s.mgmt with fabId := BitVec.ofNat 12 (bits v 11 0) } }
  else none

/-- The effect of SETREG. -/
def setregOp (fn : Fin 65) (r : Rec256) (s : State) : MgmtResult :=
  mgmtRec fn r 0x16 true [(8, 13), (16, 23)] s fun s =>
    match s.setRegister (recField r 8 4) (recField r 12 2) (w64 (recField r 16 8)) with
    | some s1 => doneRec s1
    | none => refuseRec s msBADRECORD

/-- SETREG. -/
def execSetreg (fn : Fin 65) (r : Rec256) (s : State) : Out := mgmtExec fn s (setregOp fn r)

/-! ### FIFOGRANT (R238, R245) -/

/-- The effect of FIFOGRANT. -/
def fifograntOp (fn : Fin 65) (r : Rec256) (s : State) : MgmtResult :=
  mgmtRec fn r 0x17 true [(8, 14)] s fun s =>
    let f := recField r
    match s.iface? (f 8 1) with
    | none => refuseRec s msBADRECORD
    | some i =>
      if f 9 1 > 63 || f 12 1 > 3 || f 13 1 > 11 || f 14 1 > 1 then refuseRec s msBADRECORD
      else match (i.packageDie (f 10 1)).bind fun d => (i.packageCg d (f 11 1)).map fun g => 64 * d + 4 * g + f 12 1 with
        | none => refuseRec s msDENIED
        | some core =>
          let k : Fin 12 := Fin.ofNat 12 (f 13 1)
          let b := s.bank core k
          let full := !b.fifo.isEmpty || !b.pushes.isEmpty || !b.pops.isEmpty
          if f 14 1 == 1 then
            if b.holder.isSome || b.switching.isSome || (i.grants.any fun g => g.index == f 9 1) || (b.mode == .fifo && full)
            then refuseRec s msBUSY
            else
              let s1 := s.setBank core k (Bank.switched .fifo (some (.grant i.vi (f 9 1))))
              doneRec (s1.setIface { i with grants := i.grants ++ [⟨f 9 1, core, k⟩] })
          else if !(i.grants.any fun g => g.index == f 9 1 && g.core == core && g.bank == k) then refuseRec s msBADRECORD
          else if full then refuseRec s msBUSY
          else
            let s1 := s.setBank core k (Bank.switched .cache none)
            doneRec (s1.setIface { i with grants := i.grants.filter fun g => g.index != f 9 1 })

/-- FIFOGRANT. -/
def execFifogrant (fn : Fin 65) (r : Rec256) (s : State) : Out := mgmtExec fn s (fifograntOp fn r)

/-! ### SAVE, KILL (R396, R385) -/

/-- The queue that a handle names (R360). -/
def queueOfHandle (h : Nat) : Option QueueRef :=
  let ctx := h % 2 ^ 16
  if h / 2 ^ 60 != 3 || h / 2 ^ 16 % 2 ^ 44 != 0 || ctx ≥ 1024 then none else some ⟨ctx / 16, ctx % 16⟩

/-- A function may act on an interface. -/
def actsOn (fn : Fin 65) (vi : Nat) : Bool := fn == 0 || viOfFn fn == some vi

/-- The effect of SAVE. -/
def saveOp (fn : Fin 65) (r : Rec256) (s : State) : MgmtResult :=
  mgmtRec fn r 0x18 false [(8, 24), (28, 31)] s fun s =>
    let f := recField r
    match queueOfHandle (f 8 8) with
    | none => refuseRec s msBADRECORD
    | some q =>
      if !actsOn fn q.vi then refuseRec s msDENIED
      else
        let unit := (s.launches.find? fun l => l.queue == q && l.op == f 16 8).bind fun l =>
          s.units.find? fun u => u.launch == l.id && u.kind == f 24 1
            && u.gangs.any fun n => (s.gang? n).any fun g => g.index == f 28 4
        match unit with
        | some u => doneRec (s.requestSave u.id)
        | none => refuseRec s msBADRECORD

/-- SAVE. -/
def execSave (fn : Fin 65) (r : Rec256) (s : State) : Out := mgmtExec fn s (saveOp fn r)

/-- The effect of KILL. -/
def killOp (fn : Fin 65) (r : Rec256) (s : State) : MgmtResult :=
  mgmtRec fn r 0x19 false [(8, 23)] s fun s =>
    let f := recField r
    match queueOfHandle (f 8 8) with
    | none => refuseRec s msBADRECORD
    | some q =>
      if !actsOn fn q.vi then refuseRec s msDENIED
      else match s.launches.find? fun l => l.queue == q && l.op == f 16 8 with
        | some l => doneRec (s.killLaunch l stKILLED 0)
        | none =>
          if (s.queue? q.vi q.q).any fun k => k.statuses.any fun x => x.op == f 16 8 && x.kernel then doneRec s
          else refuseRec s msBADRECORD

/-- KILL. -/
def execKill (fn : Fin 65) (r : Rec256) (s : State) : Out := mgmtExec fn s (killOp fn r)

/-! ### DIERESET, GATE, DEBUG (R221, R224, R341, R426) -/

/-- The effect of DIERESET. -/
def dieresetOp (fn : Fin 65) (r : Rec256) (s : State) : MgmtResult :=
  mgmtRec fn r 0x1A true [(8, 9)] s fun s =>
    if recField r 8 1 > 3 || recField r 9 1 > 1 then refuseRec s msBADRECORD
    else doneRec (s.dieReset (Fin.ofNat 4 (recField r 8 1)) (recField r 9 1 == 1))

/-- DIERESET. -/
def execDiereset (fn : Fin 65) (r : Rec256) (s : State) : Out := mgmtExec fn s (dieresetOp fn r)

/-- The package core group that a function names by its own numbers. -/
def State.cgFor (s : State) (fn : Fin 65) (d g : Nat) : Except Nat Nat :=
  match viOfFn fn with
  | none => if d < 4 && g < 16 then .ok (16 * d + g) else .error msBADRECORD
  | some vi =>
    match (s.iface? vi).bind fun i => (i.packageDie d).bind fun pd => (i.packageCg pd g).map fun pg => 16 * pd + pg with
    | some n => .ok n
    | none => .error msDENIED

/-- Form of PGREQ by its number. -/
def gateForm : Nat → GateForm
  | 0 => .now
  | 1 => .drain
  | 2 => .ungate
  | _ => .cancel

/-- The effect of GATE: byte 12 receives the status of R341. -/
def gateOp (fn : Fin 65) (r : Rec256) (s : State) : MgmtResult :=
  mgmtRec fn r 0x1B false [(8, 12)] s fun s =>
    let f := recField r
    if f 10 1 > 1 || f 11 1 > 3 then refuseRec s msBADRECORD
    else match s.cgFor fn (f 8 1) (f 9 1) with
      | .error e => refuseRec s e
      | .ok cg =>
        let core := 4 * cg + 2 * f 10 1
        let p := s.pair core
        let x := p.request (gateForm (f 11 1))
        { s := gateSet (s.setPair core { p with gate := x.1 }) p.gate x.1, status := msDONE, back := some (12, x.2) }

/-- GATE. -/
def execGate (fn : Fin 65) (r : Rec256) (s : State) : Out := mgmtExec fn s (gateOp fn r)

/-- A stopped fragment goes on at its fence PC. -/
def Fragment.unbreak (f : Fragment) (clock : Nat) : Fragment :=
  { f with status := .ready, due := [], ringSeq := none, fetchPC := f.fencePC, covIdx := 0, runLen := 0, age := clock }

/-- The effect of DEBUG: byte 9 receives the status of R224. -/
def debugOp (fn : Fin 65) (r : Rec256) (s : State) : MgmtResult :=
  mgmtRec fn r 0x1E false [(8, 9), (16, 31)] s fun s =>
    let f := recField r
    let vi := viOfFn fn
    let inVi := fun (core : Nat) => vi.all fun v => (s.iface? v).any fun i => i.grants? (core / 64) (core / 4 % 16)
    let mine := fun (asid : Nat) => vi.all fun v => (s.space? asid).any fun a => a.vi == v
    if f 8 1 > 1 then refuseRec s msBADRECORD
    else match s.namedFrag .stopped (w64 (f 16 8)) (w64 (f 24 8)) inVi mine with
      | .error c => { s := s, status := msDONE, back := some (9, c) }
      | .ok (w, g) =>
        let keep := fun (d : DebugSignal) => !(d.core == w.core && d.slot == w.slot && d.entry == g.entry)
        let s1 : State := { s with debugSignals := s.debugSignals.filter keep }
        { s := if f 8 1 == 0 then put s1 w (g.unbreak s.clock) else s1.killFrag w g
          status := msDONE, back := some (9, 0) }

/-- DEBUG. -/
def execDebug (fn : Fin 65) (r : Rec256) (s : State) : Out := mgmtExec fn s (debugOp fn r)

/-! ### SUBSCRIBE, ATTEST, CKPTWIN, FABRIC, UPDATE (R444, R452, R457-R461) -/

/-- The package object of a metric that a function names (R453, R457). -/
def State.metricObject (s : State) (fn : Fin 65) (metric object : Nat) : Except Nat Nat :=
  if metric = 0 then
    match viOfFn fn with
    | none => if object < 4 then .ok object else .error msBADRECORD
    | some vi => match (s.iface? vi).bind fun i => i.packageDie object with
      | some d => .ok d
      | none => .error msDENIED
  else if metric = 1 || metric = 3 then s.cgFor fn (object / 16) (object % 16)
  else if metric = 2 then (if object == 0 then .ok 0 else .error msBADRECORD)
  else if metric = 4 then (if object < 8 then .ok object else .error msBADRECORD)
  else .error msBADRECORD

/-- The effect of SUBSCRIBE. -/
def subscribeOp (fn : Fin 65) (r : Rec256) (s : State) : MgmtResult :=
  mgmtRec fn r 0x1C false [(8, 26)] s fun s =>
    let f := recField r
    if f 8 1 > 63 || f 26 1 > 1 then refuseRec s msBADRECORD
    else if f 26 1 == 0 then doneRec (s.dropSub fn (f 8 1))
    else match s.metricObject fn (f 9 1) (f 10 2) with
      | .error e => refuseRec s e
      | .ok o =>
        if !(s.space? (f 24 2)).any fun a => actsOn fn a.vi then refuseRec s msDENIED
        else
          let v := s.sample (f 9 1) o
          let b : Subscription :=
            { slot := f 8 1, metric := f 9 1, object := o, threshold := f 12 2, hyst := f 14 2, word := w64 (f 16 8)
              asid := f 24 2, above := v > f 12 2, seq := 0, sampled := s.time / metricPeriod (f 9 1) }
          doneRec ((s.setSub fn b).notify fn b v)

/-- SUBSCRIBE. -/
def execSubscribe (fn : Fin 65) (r : Rec256) (s : State) : Out := mgmtExec fn s (subscribeOp fn r)

/-- Bytes 175:0 of an attestation report. -/
def State.reportHead (s : State) (fn : Fin 65) (nonce : Nat) : List Byte :=
  leBytes 4 0x5441_574B ++ leBytes 4 ((viOfFn fn).getD 0xFFFF_FFFF) ++ leBytes 32 nonce
    ++ leBytes 32 (Config.sm3 s.mgmt.image).toNat ++ leBytes 32 (Config.sm3 s.mgmt.record).toNat
    ++ leBytes 64 Config.identityKey.toNat ++ leBytes 8 s.time

/-- The effect of ATTEST. -/
def attestOp (fn : Fin 65) (r : Rec256) (s : State) : MgmtResult :=
  mgmtRec fn r 0x1D false [(8, 8), (16, 55)] s fun s =>
    let f := recField r
    if f 8 1 > 1 then refuseRec s msBADRECORD
    else
      let head := s.reportHead fn (f 24 32)
      let report := head ++ leBytes 64 (Config.sm2Sign s.freeIndex (Config.sm3 head)).toNat ++ List.replicate 16 0
      let s1 := s.nextFree.hostWrite (f 16 8) report
      doneRec (if f 8 1 == 1 then s1.hostWrite (f 16 8 + 256) s.mgmt.record else s1)

/-- ATTEST. -/
def execAttest (fn : Fin 65) (r : Rec256) (s : State) : Out := mgmtExec fn s (attestOp fn r)

/-- The effect of CKPTWIN: the window's MAGIC is zero. -/
def ckptwinOp (fn : Fin 65) (r : Rec256) (s : State) : MgmtResult :=
  mgmtRec fn r 0x1F true [(8, 23)] s fun s =>
    let base := recField r 8 8
    if base % 4096 != 0 then refuseRec s msBADRECORD
    else
      let s1 : State := { s with mgmt := { s.mgmt with ckptBase := base, ckptSize := recField r 16 8 } }
      doneRec (s1.hostWrite base (leBytes 4 0))

/-- CKPTWIN. -/
def execCkptwin (fn : Fin 65) (r : Rec256) (s : State) : Out := mgmtExec fn s (ckptwinOp fn r)

/-- The effect of FABRIC. -/
def fabricOp (fn : Fin 65) (r : Rec256) (s : State) : MgmtResult :=
  mgmtRec fn r 0x20 true [(8, 27)] s fun s =>
    let f := recField r
    if f 8 2 ≥ 4096 || f 10 2 ≥ 4096 then refuseRec s msBADRECORD
    else
      let route := (f 10 2, w64 (f 12 8), w64 (f 20 8))
      let routes := route :: s.mgmt.routes.filter fun x => x.1 != f 10 2
      doneRec { s with mgmt := { s.mgmt with fabId := BitVec.ofNat 12 (f 8 2), routes := routes } }

/-- FABRIC. -/
def execFabric (fn : Fin 65) (r : Rec256) (s : State) : Out := mgmtExec fn s (fabricOp fn r)

/-- The effect of UPDATE: the flash changes only where the check of R452 passes. -/
def updateOp (fn : Fin 65) (r : Rec256) (s : State) : MgmtResult :=
  mgmtRec fn r 0x21 true [(8, 24)] s fun s =>
    let f := recField r
    let bs := s.hostRead (f 8 8) (f 16 8)
    if f 24 1 > 1 then refuseRec s msBADRECORD
    else if f 24 1 == 0 then
      if Config.imageVerifies bs then doneRec { s with mgmt := { s.mgmt with flashImage := bs } } else refuseRec s msBADRECORD
    else if configBad s.mgmt.flashImage bs then refuseRec s msBADRECORD
    else doneRec { s with mgmt := { s.mgmt with flashRecord := bs } }

/-- UPDATE. -/
def execUpdate (fn : Fin 65) (r : Rec256) (s : State) : Out := mgmtExec fn s (updateOp fn r)

/-! ### The management queue (R450) -/

/-- The effect of a record by its KIND. -/
def mgmtOp (fn : Fin 65) (r : Rec256) (s : State) : MgmtResult :=
  match recField r 0 1 with
  | 0x10 => viconfigOp fn r s
  | 0x11 => partitionOp fn r s
  | 0x12 => ascreateOp fn r s
  | 0x13 => asdestroyOp fn r s
  | 0x14 => qregOp fn r s
  | 0x15 => qunregOp fn r s
  | 0x16 => setregOp fn r s
  | 0x17 => fifograntOp fn r s
  | 0x18 => saveOp fn r s
  | 0x19 => killOp fn r s
  | 0x1A => dieresetOp fn r s
  | 0x1B => gateOp fn r s
  | 0x1C => subscribeOp fn r s
  | 0x1D => attestOp fn r s
  | 0x1E => debugOp fn r s
  | 0x1F => ckptwinOp fn r s
  | 0x20 => fabricOp fn r s
  | 0x21 => updateOp fn r s
  | _ => refuseRec s msBADRECORD

/-- The record in the slot at the head of a function's management queue. -/
def State.mqRecord (s : State) (fn : Fin 65) : Rec256 :=
  let f := s.funcs[fn]
  let cb := f.root + 64
  recOfBytes (s.hostRead (s.hostNum cb 8 + 256 * (f.mqHead % 2 ^ (s.hostNum (cb + 8) 1 % 32))) 256)

/-- Records of a management queue, in ring order. -/
def State.takeRecords (fn : Fin 65) : Nat → State → State
  | 0, s => s
  | n + 1, s =>
    if s.mgmtUp then State.takeRecords fn n (State.finishRecord fn (mgmtOp fn (s.mqRecord fn) s)) else s

/-- MQTAIL: the device takes every record up to the new TAIL. A TAIL that R362 forbids takes none. -/
def execMqtail (fn : Fin 65) (v : W64) (s : State) : Out :=
  let f := s.funcs[fn]
  let s1 := s.setFunc fn { f with mqTail := v }
  let n := 2 ^ (s.hostNum (f.root + 72) 1 % 32)
  if f.root == 0 || v.toNat < f.mqHead || v.toNat > f.mqHead + n then .next s1
  else .next (State.takeRecords fn (v.toNat - f.mqHead) s1)

end Sys2Proof.Machine
end

