-- ==== Sys2Proof/Machine/Scalar.lean ====
section
/-!
DEFINITION. Scalar-unit instructions (R127-R129); SLD stands with the memory instructions.
-/

namespace Sys2Proof.Machine

open Sys2Proof

/-- s[D] := v, present at once. -/
def scalarInstr (i : Instr) (d : Fin 32) (v : Warp → W64) (s : State) : Out :=
  meetInstr i s fun x => meetDone s x (x.w.writeS d (v x.w))

/-- A shift amount: B AND 63. -/
def shiftAmount (b : W64) : Nat := b.toNat % 64

/-- SADD. -/
def execSadd (o : LsOp) (s : State) : Out := scalarInstr (.sadd o) o.d (fun w => w.s[o.a] + sOperand w o.o) s
/-- SADD, extended. -/
def execSaddExt (o : LsOpX) (s : State) : Out :=
  scalarInstr (.saddExt o) o.d (fun w => w.s[o.a] + o.imm.signExtend 64) s
/-- SSUB. -/
def execSsub (o : LsOp) (s : State) : Out := scalarInstr (.ssub o) o.d (fun w => w.s[o.a] - sOperand w o.o) s
/-- SSUB, extended. -/
def execSsubExt (o : LsOpX) (s : State) : Out :=
  scalarInstr (.ssubExt o) o.d (fun w => w.s[o.a] - o.imm.signExtend 64) s
/-- SMUL. -/
def execSmul (o : LsOp) (s : State) : Out := scalarInstr (.smul o) o.d (fun w => w.s[o.a] * sOperand w o.o) s
/-- SMUL, extended. -/
def execSmulExt (o : LsOpX) (s : State) : Out :=
  scalarInstr (.smulExt o) o.d (fun w => w.s[o.a] * o.imm.signExtend 64) s
/-- SAND. -/
def execSand (o : LsOp) (s : State) : Out := scalarInstr (.sand o) o.d (fun w => w.s[o.a] &&& sOperand w o.o) s
/-- SAND, extended. -/
def execSandExt (o : LsOpX) (s : State) : Out :=
  scalarInstr (.sandExt o) o.d (fun w => w.s[o.a] &&& o.imm.signExtend 64) s
/-- SOR. -/
def execSor (o : LsOp) (s : State) : Out := scalarInstr (.sor o) o.d (fun w => w.s[o.a] ||| sOperand w o.o) s
/-- SOR, extended. -/
def execSorExt (o : LsOpX) (s : State) : Out :=
  scalarInstr (.sorExt o) o.d (fun w => w.s[o.a] ||| o.imm.signExtend 64) s
/-- SSHL. -/
def execSshl (o : LsOp) (s : State) : Out :=
  scalarInstr (.sshl o) o.d (fun w => w.s[o.a] <<< shiftAmount (sOperand w o.o)) s
/-- SSHL, extended. -/
def execSshlExt (o : LsOpX) (s : State) : Out :=
  scalarInstr (.sshlExt o) o.d (fun w => w.s[o.a] <<< shiftAmount (o.imm.signExtend 64)) s
/-- SSHR. -/
def execSshr (o : LsOp) (s : State) : Out :=
  scalarInstr (.sshr o) o.d (fun w => w.s[o.a] >>> shiftAmount (sOperand w o.o)) s
/-- SSHR, extended. -/
def execSshrExt (o : LsOpX) (s : State) : Out :=
  scalarInstr (.sshrExt o) o.d (fun w => w.s[o.a] >>> shiftAmount (o.imm.signExtend 64)) s
/-- SMOV. -/
def execSmov (b : Bool) (d : Fin 32) (o : SOperand) (s : State) : Out :=
  scalarInstr (.smov b d o) d (fun w => sOperand w o) s
/-- SMOV, extended. -/
def execSmovExt (b : Bool) (d : Fin 32) (imm : BitVec 30) (s : State) : Out :=
  scalarInstr (.smovExt b d imm) d (fun _ => imm.signExtend 64) s

/-- A comparison of SCMP. -/
def scmpHolds : ScmpCond → W64 → W64 → Bool
  | .eq, a, b => a == b
  | .ne, a, b => a != b
  | .lt, a, b => a.slt b
  | .le, a, b => a.sle b
  | .gt, a, b => b.slt a
  | .ge, a, b => b.sle a
  | .ltu, a, b => a.ult b
  | .geu, a, b => b.ule a

/-- A predicate written whole, in every lane of the warp, and present there. -/
def Warp.writeWholeP (w : Warp) (p : Fin 8) (c : Bool) : Warp :=
  let v : Mask := if c then BitVec.allOnes 32 else 0
  { w with p := w.p.set p v, pPresent := w.pPresent.set p (BitVec.allOnes 32) }

/-- SCMP. -/
def execScmp (b : Bool) (p : Fin 8) (c : ScmpCond) (a : Fin 32) (o : ZOperand) (s : State) : Out :=
  meetInstr (.scmp b p c a o) s fun x =>
    meetDone s x (x.w.writeWholeP p (scmpHolds c x.w.s[a] (zOperand x.w o)))

/-! ### Hint words and short no-ops (R113, R123) -/

/-- A position without effect: the front-end has passed it. -/
def silent (s : State) : Out := onFocus s fun x => put s x.w { x.f with fetchPC := x.c.next }

/-- NOP. -/
def execNop (_b : Bool) (_p : BitVec 22) (s : State) : Out := silent s
/-- HINT. -/
def execHint (_b : Bool) (_h : Fin 8) (_p : BitVec 22) (s : State) : Out := silent s
/-- HINT, extended. -/
def execHintExt (_b : Bool) (_h : Fin 8) (_p : BitVec 22) (_q : BitVec 30) (s : State) : Out := silent s

end Sys2Proof.Machine
end

