-- ==== Sys2Proof/Machine/WarpWide.lean ====
section
/-!
DEFINITION. Warp-wide instructions (R227-R232): VOTE, SHFL, REDUCE, SCAN.
-/

namespace Sys2Proof.Machine

open Sys2Proof

/-- The frame of a warp-wide instruction: ILLEGAL, ACCMODE of its accumulator, then R215. -/
def warpWide (i : Instr) (a : Option (Fin 8)) (s : State) (eff : State → Focus → State) : Out :=
  meetInstr i s fun x =>
    if a.any fun k => x.w.acc[k].tile.isSome then raisePlain s x .meeting cACCMODE else convergentThen s x true eff

/-- The low w bits of an accumulator in a lane. -/
def accLow (w : Warp) (t : Ty) (a : Fin 8) (l : Fin 32) : Nat := lowBits t (w.acc[a].val)[l]

/-- Complete with flags: FPSTAT takes them; where FPEN enables one, FPEXC in every active lane and nothing is written
(R227). -/
def flagsDone (s : State) (x : Focus) (flags : Nat) (upd : Warp → Warp) : State :=
  let en := flags &&& x.w.fpen.toNat
  let w1 := { x.w with fpstat := x.w.fpstat ||| w32 flags, fptrig := x.w.fptrig ||| w32 en }
  if en != 0 then raisePlain s { x with w := w1 } .meeting cFPEXC else meetDone s x (upd w1)

/-- A predicate bit in every active lane, present there. -/
def Warp.setP (w : Warp) (d : Fin 8) (m : Mask) (c : Bool) : Warp :=
  (w.writeP d m (if c then BitVec.allOnes 32 else 0)).setPresent m (.p d)

/-! ### VOTE (R228) -/

/-- VOTE.ALL. -/
def execVoteAll (b : Bool) (d sr : Fin 8) (s : State) : Out :=
  warpWide (.voteAll b d sr) none s fun s1 x =>
    meetDone s1 x (x.w.setP d x.f.lanes ((x.w.p[sr] &&& x.f.lanes) == x.f.lanes))
/-- VOTE.ANY. -/
def execVoteAny (b : Bool) (d sr : Fin 8) (s : State) : Out :=
  warpWide (.voteAny b d sr) none s fun s1 x =>
    meetDone s1 x (x.w.setP d x.f.lanes ((x.w.p[sr] &&& x.f.lanes) != 0))
/-- VOTE.BALLOT. -/
def execVoteBallot (b : Bool) (d : Fin 32) (sr : Fin 8) (s : State) : Out :=
  warpWide (.voteBallot b d sr) none s fun s1 x =>
    meetDone s1 x (x.w.writeS d ((x.w.p[sr] &&& x.f.lanes).setWidth 64))

/-- All values of a list are equal. -/
def allSame : List Nat → Bool
  | [] => true
  | x :: xs => xs.all (· == x)

/-- VOTE.EQ. -/
def execVoteEq (b : Bool) (a : Fin 8) (t : Ty) (d : Fin 8) (s : State) : Out :=
  warpWide (.voteEq b a t d) (some a) s fun s1 x =>
    meetDone s1 x (x.w.setP d x.f.lanes (allSame ((lanesOf x.f.lanes).map (accLow x.w t a))))

/-! ### SHFL (R229) -/

/-- The source lane of a SHFL, where there is one. -/
def shflSource (m : ShflMode) (l : Fin 32) (n : Nat) : Option Nat :=
  match m with
  | .idx => some (n % 32)
  | .up => if n ≤ l.val then some (l.val - n) else none
  | .down => if l.val + n ≤ 31 then some (l.val + n) else none
  | .xor => some (l.val ^^^ (n % 32))

/-- The value a lane receives: its source's where the source is active, else its own. -/
def shflValue (w : Warp) (m : Mask) (a : Fin 8) (src : Src) (t : Ty) (mode : ShflMode) (l : Fin 32) : Nat :=
  match shflSource mode l (srcValue w .n32 l src % 64) with
  | some k => if m.getLsbD k then accLow w t a (Fin.ofNat 32 k) else accLow w t a l
  | none => accLow w t a l

/-- SHFL. -/
def execShfl (b : Bool) (a : Fin 8) (src : Src) (t : Ty) (m : ShflMode) (s : State) : Out :=
  warpWide (.shfl b a src t m) (some a) s fun s1 x =>
    meetDone s1 x (x.w.writeAcc a x.f.lanes fun l => accImage t (shflValue x.w x.f.lanes a src t m l))

/-! ### REDUCE and SCAN (R230-R232) -/

/-- The lanes that contribute. -/
def contributors (x : Focus) (mask : Option (Fin 8)) : Mask :=
  match mask with
  | some p => x.f.lanes &&& x.w.p[p]
  | none => x.f.lanes

/-- The values of contributing lanes. -/
def laneValues (w : Warp) (t : Ty) (a : Fin 8) (m : Mask) : List (Fin 32 × Nat) :=
  (lanesOf m).map fun l => (l, accLow w t a l)

/-- What REDUCE writes: the result r with index i. -/
def reduceWrite (o : ReduceOp) (m : Mask) (r i : Nat) (w : Warp) : Warp :=
  let idx := !o.op.plain
  match o.dest with
  | some d =>
    if idx && o.t.is64 then (w.writeS d (w64 r)).writeS (Fin.ofNat 32 (d.val + 1)) (w64 i)
    else if idx then w.writeS d (w64 (i * 2 ^ 32 + (accImage o.t r).toNat % 2 ^ 32))
    else w.writeS d (accImage o.t r)
  | none =>
    let v := accImage o.t r
    w.writeAcc o.a m fun _ => if idx then w64 (i * 2 ^ 32 + v.toNat % 2 ^ 32) else v

/-- REDUCE. -/
def execReduce (o : ReduceOp) (s : State) : Out :=
  warpWide (.reduce o) (some o.a) s fun s1 x =>
    let lv := laneValues x.w o.t o.a (contributors x o.mask)
    let r := reduceVals o.op o.t (lv.map Prod.snd)
    flagsDone s1 x r.flags (reduceWrite o x.f.lanes r.bits (reduceIndex o.t r.bits lv))

/-- The prefix of a lane. -/
def scanRes (x : Focus) (o : ScanOp) (l : Fin 32) : FRes :=
  reduceVals o.op o.t (((laneValues x.w o.t o.a (contributors x o.mask)).filter fun v =>
    if o.exclusive then v.1.val < l.val else v.1.val ≤ l.val).map Prod.snd)

/-- SCAN. -/
def execScan (o : ScanOp) (s : State) : Out :=
  warpWide (.scan o) (some o.a) s fun s1 x =>
    let flags := (lanesOf x.f.lanes).foldl (fun n l => n ||| (scanRes x o l).flags) 0
    flagsDone s1 x flags fun w => w.writeAcc o.a x.f.lanes fun l => accImage o.t (scanRes x o l).bits

end Sys2Proof.Machine
end

