-- ==== Sys2Proof/Machine/Dispatch.lean ====
section
/-!
DEFINITION. The dispatch of every instruction to its meaning, one arm per constructor.
-/

namespace Sys2Proof.Machine

open Sys2Proof

/-- The effect of one instruction, or of one step of an engine (R18). -/
def exec (i : Instr) (s : State) : Host.Outcome State Fault Refusal :=
  match i with
  | .add o => Sys2Proof.Machine.execAdd o s
  | .addLi o => Sys2Proof.Machine.execAddLi o s
  | .addExt o => Sys2Proof.Machine.execAddExt o s
  | .sub o => Sys2Proof.Machine.execSub o s
  | .subExt o => Sys2Proof.Machine.execSubExt o s
  | .mul o => Sys2Proof.Machine.execMul o s
  | .mulExt o => Sys2Proof.Machine.execMulExt o s
  | .min o => Sys2Proof.Machine.execMin o s
  | .minExt o => Sys2Proof.Machine.execMinExt o s
  | .max o => Sys2Proof.Machine.execMax o s
  | .maxExt o => Sys2Proof.Machine.execMaxExt o s
  | .mac o => Sys2Proof.Machine.execMac o s
  | .macExt o => Sys2Proof.Machine.execMacExt o s
  | .madd o => Sys2Proof.Machine.execMadd o s
  | .maddExt o => Sys2Proof.Machine.execMaddExt o s
  | .mov o => Sys2Proof.Machine.execMov o s
  | .movLi o => Sys2Proof.Machine.execMovLi o s
  | .movExt o => Sys2Proof.Machine.execMovExt o s
  | .neg o => Sys2Proof.Machine.execNeg o s
  | .negExt o => Sys2Proof.Machine.execNegExt o s
  | .abs o => Sys2Proof.Machine.execAbs o s
  | .absExt o => Sys2Proof.Machine.execAbsExt o s
  | .not o => Sys2Proof.Machine.execNot o s
  | .notExt o => Sys2Proof.Machine.execNotExt o s
  | .popc o => Sys2Proof.Machine.execPopc o s
  | .popcExt o => Sys2Proof.Machine.execPopcExt o s
  | .clz o => Sys2Proof.Machine.execClz o s
  | .clzExt o => Sys2Proof.Machine.execClzExt o s
  | .brev o => Sys2Proof.Machine.execBrev o s
  | .brevExt o => Sys2Proof.Machine.execBrevExt o s
  | .div o => Sys2Proof.Machine.execDiv o s
  | .divExt o => Sys2Proof.Machine.execDivExt o s
  | .rem o => Sys2Proof.Machine.execRem o s
  | .remExt o => Sys2Proof.Machine.execRemExt o s
  | .fdiv o => Sys2Proof.Machine.execFdiv o s
  | .fdivExt o => Sys2Proof.Machine.execFdivExt o s
  | .cmp o => Sys2Proof.Machine.execCmp o s
  | .cmpExt o => Sys2Proof.Machine.execCmpExt o s
  | .sel o => Sys2Proof.Machine.execSel o s
  | .selExt o => Sys2Proof.Machine.execSelExt o s
  | .cvt o => Sys2Proof.Machine.execCvt o s
  | .cvtExt o => Sys2Proof.Machine.execCvtExt o s
  | .and o => Sys2Proof.Machine.execAnd o s
  | .andLi o => Sys2Proof.Machine.execAndLi o s
  | .andExt o => Sys2Proof.Machine.execAndExt o s
  | .or o => Sys2Proof.Machine.execOr o s
  | .orLi o => Sys2Proof.Machine.execOrLi o s
  | .orExt o => Sys2Proof.Machine.execOrExt o s
  | .xor o => Sys2Proof.Machine.execXor o s
  | .xorLi o => Sys2Proof.Machine.execXorLi o s
  | .xorExt o => Sys2Proof.Machine.execXorExt o s
  | .andn o => Sys2Proof.Machine.execAndn o s
  | .andnExt o => Sys2Proof.Machine.execAndnExt o s
  | .shl o => Sys2Proof.Machine.execShl o s
  | .shlLi o => Sys2Proof.Machine.execShlLi o s
  | .shlExt o => Sys2Proof.Machine.execShlExt o s
  | .shr o => Sys2Proof.Machine.execShr o s
  | .shrLi o => Sys2Proof.Machine.execShrLi o s
  | .shrExt o => Sys2Proof.Machine.execShrExt o s
  | .sar o => Sys2Proof.Machine.execSar o s
  | .sarLi o => Sys2Proof.Machine.execSarLi o s
  | .sarExt o => Sys2Proof.Machine.execSarExt o s
  | .bfe o => Sys2Proof.Machine.execBfe o s
  | .bfeExt o => Sys2Proof.Machine.execBfeExt o s
  | .bfi o => Sys2Proof.Machine.execBfi o s
  | .bfiExt o => Sys2Proof.Machine.execBfiExt o s
  | .xfn o => Sys2Proof.Machine.execXfn o s
  | .xfnExt o => Sys2Proof.Machine.execXfnExt o s
  | .emit o => Sys2Proof.Machine.execEmit o s
  | .emitExt o => Sys2Proof.Machine.execEmitExt o s
  | .emitp o => Sys2Proof.Machine.execEmitp o s
  | .emitpExt o => Sys2Proof.Machine.execEmitpExt o s
  | .emits o => Sys2Proof.Machine.execEmits o s
  | .emitsExt o => Sys2Proof.Machine.execEmitsExt o s
  | .snop o => Sys2Proof.Machine.execSnop o s
  | .shortAddF32 o => Sys2Proof.Machine.execShortAddF32 o s
  | .shortSubF32 o => Sys2Proof.Machine.execShortSubF32 o s
  | .shortMulF32 o => Sys2Proof.Machine.execShortMulF32 o s
  | .shortMinF32 o => Sys2Proof.Machine.execShortMinF32 o s
  | .shortMaxF32 o => Sys2Proof.Machine.execShortMaxF32 o s
  | .shortMovF32 o => Sys2Proof.Machine.execShortMovF32 o s
  | .shortNegF32 o => Sys2Proof.Machine.execShortNegF32 o s
  | .shortAddI32 o => Sys2Proof.Machine.execShortAddI32 o s
  | .shortSubI32 o => Sys2Proof.Machine.execShortSubI32 o s
  | .shortMulI32 o => Sys2Proof.Machine.execShortMulI32 o s
  | .shortMinI32 o => Sys2Proof.Machine.execShortMinI32 o s
  | .shortMaxI32 o => Sys2Proof.Machine.execShortMaxI32 o s
  | .shortMinN32 o => Sys2Proof.Machine.execShortMinN32 o s
  | .shortMaxN32 o => Sys2Proof.Machine.execShortMaxN32 o s
  | .shortAndN32 o => Sys2Proof.Machine.execShortAndN32 o s
  | .shortOrN32 o => Sys2Proof.Machine.execShortOrN32 o s
  | .shortXorN32 o => Sys2Proof.Machine.execShortXorN32 o s
  | .shortAndnN32 o => Sys2Proof.Machine.execShortAndnN32 o s
  | .shortShlN32 o => Sys2Proof.Machine.execShortShlN32 o s
  | .shortShrN32 o => Sys2Proof.Machine.execShortShrN32 o s
  | .shortSarI32 o => Sys2Proof.Machine.execShortSarI32 o s
  | .shortPopcN32 o => Sys2Proof.Machine.execShortPopcN32 o s
  | .shortClzN32 o => Sys2Proof.Machine.execShortClzN32 o s
  | .shortAddF64 o => Sys2Proof.Machine.execShortAddF64 o s
  | .shortMulF64 o => Sys2Proof.Machine.execShortMulF64 o s
  | .shortAddI64 o => Sys2Proof.Machine.execShortAddI64 o s
  | .shortEmit o => Sys2Proof.Machine.execShortEmit o s
  | .shortEmitN64 o => Sys2Proof.Machine.execShortEmitN64 o s
  | .sysr o => Sys2Proof.Machine.execSysr o s
  | .sysw o => Sys2Proof.Machine.execSysw o s
  | .lratioWrite v => Sys2Proof.Machine.execLratioWrite v s
  | .trapVecWrite v => Sys2Proof.Machine.execTrapVecWrite v s
  | .phint g m => Sys2Proof.Machine.execPhint g m s
  | .phintAll => Sys2Proof.Machine.execPhintAll s
  | .boexp b a c na => Sys2Proof.Machine.execBoexp b a c na s
  | .bowait b d a n => Sys2Proof.Machine.execBowait b d a n s
  | .tlwait b d h v => Sys2Proof.Machine.execTlwait b d h v s
  | .tlread b d h => Sys2Proof.Machine.execTlread b d h s
  | .cgrp b c n => Sys2Proof.Machine.execCgrp b c n s
  | .ld o => Sys2Proof.Machine.execLd o s
  | .ldExt o => Sys2Proof.Machine.execLdExt o s
  | .st o => Sys2Proof.Machine.execSt o s
  | .stExt o => Sys2Proof.Machine.execStExt o s
  | .ldnt o => Sys2Proof.Machine.execLdnt o s
  | .ldntExt o => Sys2Proof.Machine.execLdntExt o s
  | .stnt o => Sys2Proof.Machine.execStnt o s
  | .stntExt o => Sys2Proof.Machine.execStntExt o s
  | .atom o => Sys2Proof.Machine.execAtom o s
  | .waita o => Sys2Proof.Machine.execWaita o s
  | .drain b sc => Sys2Proof.Machine.execDrain b sc s
  | .fence b sc => Sys2Proof.Machine.execFence b sc s
  | .bar b => Sys2Proof.Machine.execBar b s
  | .barArrive b => Sys2Proof.Machine.execBarArrive b s
  | .barWait b => Sys2Proof.Machine.execBarWait b s
  | .barGang b => Sys2Proof.Machine.execBarGang b s
  | .barArriveGang b => Sys2Proof.Machine.execBarArriveGang b s
  | .barWaitGang b => Sys2Proof.Machine.execBarWaitGang b s
  | .barLvl b sr => Sys2Proof.Machine.execBarLvl b sr s
  | .barArriveLvl b sr => Sys2Proof.Machine.execBarArriveLvl b sr s
  | .barWaitLvl b sr => Sys2Proof.Machine.execBarWaitLvl b sr s
  | .barNamed b index count => Sys2Proof.Machine.execBarNamed b index count s
  | .barArriveNamed b index count => Sys2Proof.Machine.execBarArriveNamed b index count s
  | .barWaitNamed b index count => Sys2Proof.Machine.execBarWaitNamed b index count s
  | .bankmodeCache b n => Sys2Proof.Machine.execBankmodeCache b n s
  | .bankmodeScratch b n => Sys2Proof.Machine.execBankmodeScratch b n s
  | .bankmodeFifo b n => Sys2Proof.Machine.execBankmodeFifo b n s
  | .spmap b sr w => Sys2Proof.Machine.execSpmap b sr w s
  | .voteAll b d sr => Sys2Proof.Machine.execVoteAll b d sr s
  | .voteAny b d sr => Sys2Proof.Machine.execVoteAny b d sr s
  | .voteBallot b d sr => Sys2Proof.Machine.execVoteBallot b d sr s
  | .voteEq b a t d => Sys2Proof.Machine.execVoteEq b a t d s
  | .shfl b a src t m => Sys2Proof.Machine.execShfl b a src t m s
  | .reduce o => Sys2Proof.Machine.execReduce o s
  | .scan o => Sys2Proof.Machine.execScan o s
  | .bra b c off => Sys2Proof.Machine.execBra b c off s
  | .braExt b c off => Sys2Proof.Machine.execBraExt b c off s
  | .brx b r => Sys2Proof.Machine.execBrx b r s
  | .brd b p n off => Sys2Proof.Machine.execBrd b p n off s
  | .brdExt b p n off => Sys2Proof.Machine.execBrdExt b p n off s
  | .join b j => Sys2Proof.Machine.execJoin b j s
  | .call b off => Sys2Proof.Machine.execCall b off s
  | .callExt b off => Sys2Proof.Machine.execCallExt b off s
  | .ret b => Sys2Proof.Machine.execRet b s
  | .exit b => Sys2Proof.Machine.execExit b s
  | .pblk b p pat cntM1 => Sys2Proof.Machine.execPblk b p pat cntM1 s
  | .brk b code => Sys2Proof.Machine.execBrk b code s
  | .trap b code => Sys2Proof.Machine.execTrap b code s
  | .reth b => Sys2Proof.Machine.execReth b s
  | .rethSkip b => Sys2Proof.Machine.execRethSkip b s
  | .fresume b r => Sys2Proof.Machine.execFresume b r s
  | .fkill b r => Sys2Proof.Machine.execFkill b r s
  | .icinv b a l => Sys2Proof.Machine.execIcinv b a l s
  | .vinv b a l => Sys2Proof.Machine.execVinv b a l s
  | .vinvAs b a l n => Sys2Proof.Machine.execVinvAs b a l n s
  | .cflush b a l => Sys2Proof.Machine.execCflush b a l s
  | .cflushInv b a l => Sys2Proof.Machine.execCflushInv b a l s
  | .rangeAckComplete id => Sys2Proof.Machine.execRangeAckComplete id s
  | .sadd o => Sys2Proof.Machine.execSadd o s
  | .saddExt o => Sys2Proof.Machine.execSaddExt o s
  | .ssub o => Sys2Proof.Machine.execSsub o s
  | .ssubExt o => Sys2Proof.Machine.execSsubExt o s
  | .smul o => Sys2Proof.Machine.execSmul o s
  | .smulExt o => Sys2Proof.Machine.execSmulExt o s
  | .sand o => Sys2Proof.Machine.execSand o s
  | .sandExt o => Sys2Proof.Machine.execSandExt o s
  | .sor o => Sys2Proof.Machine.execSor o s
  | .sorExt o => Sys2Proof.Machine.execSorExt o s
  | .sshl o => Sys2Proof.Machine.execSshl o s
  | .sshlExt o => Sys2Proof.Machine.execSshlExt o s
  | .sshr o => Sys2Proof.Machine.execSshr o s
  | .sshrExt o => Sys2Proof.Machine.execSshrExt o s
  | .smov b d o => Sys2Proof.Machine.execSmov b d o s
  | .smovExt b d imm => Sys2Proof.Machine.execSmovExt b d imm s
  | .scmp b p c a o => Sys2Proof.Machine.execScmp b p c a o s
  | .sld b d a off => Sys2Proof.Machine.execSld b d a off s
  | .sldExt b d a off => Sys2Proof.Machine.execSldExt b d a off s
  | .launch b d q r => Sys2Proof.Machine.execLaunch b d q r s
  | .succ b => Sys2Proof.Machine.execSucc b s
  | .pwait b d n => Sys2Proof.Machine.execPwait b d n s
  | .pwaitAll b d => Sys2Proof.Machine.execPwaitAll b d s
  | .redt b a n t d op => Sys2Proof.Machine.execRedt b a n t d op s
  | .dbar b => Sys2Proof.Machine.execDbar b s
  | .dbarValue b d v ty op => Sys2Proof.Machine.execDbarValue b d v ty op s
  | .xbar b => Sys2Proof.Machine.execXbar b s
  | .xbarValue b d v ty op => Sys2Proof.Machine.execXbarValue b d v ty op s
  | .coll b r => Sys2Proof.Machine.execColl b r s
  | .tcfg b n sr => Sys2Proof.Machine.execTcfg b n sr s
  | .tld b n sr pitched => Sys2Proof.Machine.execTld b n sr pitched s
  | .tst b n sr pitched => Sys2Proof.Machine.execTst b n sr pitched s
  | .tzero b n => Sys2Proof.Machine.execTzero b n s
  | .acctTile b a => Sys2Proof.Machine.execAcctTile b a s
  | .acctVec b a => Sys2Proof.Machine.execAcctVec b a s
  | .acctLoad b a n => Sys2Proof.Machine.execAcctLoad b a n s
  | .acctStore b a n => Sys2Proof.Machine.execAcctStore b a n s
  | .acctRmax b a => Sys2Proof.Machine.execAcctRmax b a s
  | .acctRmin b a => Sys2Proof.Machine.execAcctRmin b a s
  | .acctRsum b a => Sys2Proof.Machine.execAcctRsum b a s
  | .acctRcol b a c => Sys2Proof.Machine.execAcctRcol b a c s
  | .acctWcol b a c => Sys2Proof.Machine.execAcctWcol b a c s
  | .mma b a ta tb z => Sys2Proof.Machine.execMma b a ta tb z s
  | .mloop b a ta tb d z => Sys2Proof.Machine.execMloop b a ta tb d z s
  | .mpair b a ta tb d z => Sys2Proof.Machine.execMpair b a ta tb d z s
  | .tmask b a d n => Sys2Proof.Machine.execTmask b a d n s
  | .maudit b d => Sys2Proof.Machine.execMaudit b d s
  | .mstat b d clr => Sys2Proof.Machine.execMstat b d clr s
  | .vpush b a t => Sys2Proof.Machine.execVpush b a t s
  | .vpushn b a d t => Sys2Proof.Machine.execVpushn b a d t s
  | .vpop b g t => Sys2Proof.Machine.execVpop b g t s
  | .vfree b d => Sys2Proof.Machine.execVfree b d s
  | .pgreqNow b d => Sys2Proof.Machine.execPgreqNow b d s
  | .pgreqDrain b d => Sys2Proof.Machine.execPgreqDrain b d s
  | .pgreqUngate b d => Sys2Proof.Machine.execPgreqUngate b d s
  | .pgreqCancel b d => Sys2Proof.Machine.execPgreqCancel b d s
  | .copy o => Sys2Proof.Machine.execCopy o s
  | .copym o => Sys2Proof.Machine.execCopym o s
  | .gath o => Sys2Proof.Machine.execGath o s
  | .scat o => Sys2Proof.Machine.execScat o s
  | .tagwait b d k => Sys2Proof.Machine.execTagwait b d k s
  | .tagfirst b d m => Sys2Proof.Machine.execTagfirst b d m s
  | .tagclr b k => Sys2Proof.Machine.execTagclr b k s
  | .boinit b a c => Sys2Proof.Machine.execBoinit b a c s
  | .nop b p => Sys2Proof.Machine.execNop b p s
  | .hint b h p => Sys2Proof.Machine.execHint b h p s
  | .hintExt b h p q => Sys2Proof.Machine.execHintExt b h p q s
  | .loadResponse id => Sys2Proof.Machine.execLoadResponse id s
  | .storeAcceptance id => Sys2Proof.Machine.execStoreAcceptance id s
  | .globalAcknowledgement id => Sys2Proof.Machine.execGlobalAcknowledgement id s
  | .acklostTimeout id => Sys2Proof.Machine.execAcklostTimeout id s
  | .globalAckLoss id => Sys2Proof.Machine.execGlobalAckLoss id s
  | .homeAccess id => Sys2Proof.Machine.execHomeAccess id s
  | .faultRingRecord asid => Sys2Proof.Machine.execFaultRingRecord asid s
  | .handlerEntry f => Sys2Proof.Machine.execHandlerEntry f s
  | .deferredPop w => Sys2Proof.Machine.execDeferredPop w s
  | .codeStoreFill f => Sys2Proof.Machine.execCodeStoreFill f s
  | .lratioSwitch cg => Sys2Proof.Machine.execLratioSwitch cg s
  | .lratioResume cg => Sys2Proof.Machine.execLratioResume cg s
  | .fifoBankServe core bank => Sys2Proof.Machine.execFifoBankServe core bank s
  | .bankSwitchComplete core bank => Sys2Proof.Machine.execBankSwitchComplete core bank s
  | .barrierSwathRelease cg => Sys2Proof.Machine.execBarrierSwathRelease cg s
  | .copyOpPerform op => Sys2Proof.Machine.execCopyOpPerform op s
  | .boLanding op obj bytes => Sys2Proof.Machine.execBoLanding op obj bytes s
  | .copyOpComplete op => Sys2Proof.Machine.execCopyOpComplete op s
  | .vxPushAdmit pair => Sys2Proof.Machine.execVxPushAdmit pair s
  | .crownGateEffect pair => Sys2Proof.Machine.execCrownGateEffect pair s
  | .crownWake pair => Sys2Proof.Machine.execCrownWake pair s
  | .matrixStep core => Sys2Proof.Machine.execMatrixStep core s
  | .mpairBond pair => Sys2Proof.Machine.execMpairBond pair s
  | .mpairBondTimeout w => Sys2Proof.Machine.execMpairBondTimeout w s
  | .collEpisodeLost launch slot die => Sys2Proof.Machine.execCollEpisodeLost launch slot die s
  | .collOpComplete op => Sys2Proof.Machine.execCollOpComplete op s
  | .collSilenceTimeout op => Sys2Proof.Machine.execCollSilenceTimeout op s
  | .nopRecord q => Sys2Proof.Machine.execNopRecord q s
  | .kernelRecord q => Sys2Proof.Machine.execKernelRecord q s
  | .admitRecord q => Sys2Proof.Machine.execAdmitRecord q s
  | .withdrawRecord q => Sys2Proof.Machine.execWithdrawRecord q s
  | .withdrawalComplete op => Sys2Proof.Machine.execWithdrawalComplete op s
  | .unknownRecord q => Sys2Proof.Machine.execUnknownRecord q s
  | .placementPass die => Sys2Proof.Machine.execPlacementPass die s
  | .linkWindowEnd => Sys2Proof.Machine.execLinkWindowEnd s
  | .runShareWindowEnd core => Sys2Proof.Machine.execRunShareWindowEnd core s
  | .refreshCharge die => Sys2Proof.Machine.execRefreshCharge die s
  | .governorSample die => Sys2Proof.Machine.execGovernorSample die s
  | .forcedSave unit => Sys2Proof.Machine.execForcedSave unit s
  | .contextSave unit => Sys2Proof.Machine.execContextSave unit s
  | .vaultScrubError die vault => Sys2Proof.Machine.execVaultScrubError die vault s
  | .dieReady die => Sys2Proof.Machine.execDieReady die s
  | .linkDown k => Sys2Proof.Machine.execLinkDown k s
  | .linkUp k => Sys2Proof.Machine.execLinkUp k s
  | .scaleupPortDown die port => Sys2Proof.Machine.execScaleupPortDown die port s
  | .scaleupPortUp die port peerPkg peerPort rev => Sys2Proof.Machine.execScaleupPortUp die port peerPkg peerPort rev s
  | .barRead vi off n => Sys2Proof.Machine.execBarRead vi off n s
  | .barWrite vi off bytes => Sys2Proof.Machine.execBarWrite vi off bytes s
  | .mqtail fn v => Sys2Proof.Machine.execMqtail fn v s
  | .recover fn => Sys2Proof.Machine.execRecover fn s
  | .capabilityWrite fn f v => Sys2Proof.Machine.execCapabilityWrite fn f v s
  | .packageReset => Sys2Proof.Machine.execPackageReset s
  | .viconfig fn r => Sys2Proof.Machine.execViconfig fn r s
  | .partition fn r => Sys2Proof.Machine.execPartition fn r s
  | .ascreate fn r => Sys2Proof.Machine.execAscreate fn r s
  | .asdestroy fn r => Sys2Proof.Machine.execAsdestroy fn r s
  | .qreg fn r => Sys2Proof.Machine.execQreg fn r s
  | .qunreg fn r => Sys2Proof.Machine.execQunreg fn r s
  | .setreg fn r => Sys2Proof.Machine.execSetreg fn r s
  | .fifogrant fn r => Sys2Proof.Machine.execFifogrant fn r s
  | .save fn r => Sys2Proof.Machine.execSave fn r s
  | .kill fn r => Sys2Proof.Machine.execKill fn r s
  | .diereset fn r => Sys2Proof.Machine.execDiereset fn r s
  | .gate fn r => Sys2Proof.Machine.execGate fn r s
  | .subscribe fn r => Sys2Proof.Machine.execSubscribe fn r s
  | .attest fn r => Sys2Proof.Machine.execAttest fn r s
  | .debug fn r => Sys2Proof.Machine.execDebug fn r s
  | .ckptwin fn r => Sys2Proof.Machine.execCkptwin fn r s
  | .fabric fn r => Sys2Proof.Machine.execFabric fn r s
  | .update fn r => Sys2Proof.Machine.execUpdate fn r s
  | .notifySample slot vi => Sys2Proof.Machine.execNotifySample slot vi s
  | .supplyLossWarning => Sys2Proof.Machine.execSupplyLossWarning s
  | .illegalEncoding => Sys2Proof.Machine.execIllegalEncoding s
  | .pciExpressLinkUp => Sys2Proof.Machine.execPciExpressLinkUp s
  | .pciExpressLinkDown => Sys2Proof.Machine.execPciExpressLinkDown s

end Sys2Proof.Machine
end

