-- ==== Sys2Proof/Machine/Issue.lean ====
section
/-!
DEFINITION. What moves in one step: the fragments that issue and the arbitration among them (R44-R46, R383, R384), the
automatic events of the engines (R18), and the moves of the agenda (log 2).
-/

namespace Sys2Proof.Machine

open Sys2Proof

/-! ### What a fragment does next (R33-R36, R155) -/

/-- One piece of work of a fragment: an instruction that executes in a state, or a change of the front-end alone. -/
inductive Job where
  | run (i : Instr) (s : State)
  | done (s : State)
  deriving DecidableEq, Repr

/-- The outcome of a piece of work. -/
def Job.out : Job → Out
  | .run i s => exec i s
  | .done s => .next s

/-- A dispatched instruction executes. -/
def State.runPend (s : State) (w : Warp) (f : Fragment) (e : Pend) : Job :=
  .run e.instr (s.at (cursorOf w f e.pos e.next e.lanes e.covered))

/-- The strand instruction at the fetch PC is dispatched, and executes at once where nothing holds it back. -/
def State.dispatchRun (s : State) (w : Warp) (f : Fragment) (i : Instr) (k : Fin 8) (next : Pos) : Job :=
  let r := s.dispatch w f i k next
  match (r.1.warp? w.core w.slot).bind fun w1 => (w1.frag? f.uid).map fun f1 => (w1, f1) with
  | none => .done r.1
  | some (w1, f1) =>
    if r.1.startable w1 f1 r.2 && !r.1.relocking w.core then r.1.runPend w1 f1 r.2 else .done r.1

/-- The meeting instruction at the fetch PC executes. -/
def State.meetRun (s : State) (w : Warp) (f : Fragment) (i : Instr) (next : Pos) : Job :=
  .run i ((s.countRun w f i f.fetchPC).at (cursorOf w f f.fetchPC next f.lanes f.covered))

/-- A position without an effect of its own is passed (R113). -/
def State.silentRun (s : State) (w : Warp) (f : Fragment) (i : Instr) (next : Pos) : Job :=
  .run i ((s.countRun w (f.pass next) i f.fetchPC).at (cursorOf w f f.fetchPC next f.lanes f.covered))

/-- The fragment differs after a dispatched instruction has executed, or an engine has taken the instruction over. -/
def progressed (s t : State) (w : Warp) (f : Fragment) : Bool :=
  match (t.warp? w.core w.slot).bind fun w1 => w1.frag? f.uid with
  | none => true
  | some g => g.pend != f.pend || g.status != f.status || g.lanes != f.lanes
      || t.matrix.length != s.matrix.length
      || (t.pairs[pairOf w.core]).waits.length != (s.pairs[pairOf w.core]).waits.length

/-- The work of an act; none where it would leave everything as it is. -/
def State.job? (s : State) (w : Warp) (f : Fragment) : Act → Option Job
  | .pend e =>
    let j := s.runPend w f e
    match j.out with
    | .next t => if progressed s t w f then some j else none
    | _ => some j
  | .settle e =>
    let t := s.resettle w f e
    if progressed s t w f then some (.done t) else none
  | .strand i k next => some (if f.skips k then .done (s.countRun w (f.pass next) i f.fetchPC) else s.dispatchRun w f i k next)
  | .meet i next => some (s.meetRun w f i next)
  | .silent i next => some (s.silentRun w f i next)
  | .bad => some (.run .illegalEncoding (s.at (cursorOf w f f.fetchPC f.fetchPC f.lanes f.covered)))
  | .fill => (s.fill ⟨w.core, w.slot, f.uid⟩).map .done

/-! ### A wait whose condition is examined again (R37) -/

/-- A waiting fragment whose instruction examines its condition again. -/
def Status.polls : Status → Bool
  | .waiting (.retry _ _) | .waiting (.switch _ _ _) | .waiting (.vertical _) | .waiting (.timeline _ _ _ _) | .waiting (.waita _ _ _ _) => true
  | _ => false

/-- The instruction at which a polling fragment waits. -/
def State.pollAct (s : State) (w : Warp) (f : Fragment) : Option Act :=
  match f.pend.head? with
  | some e => some (.pend e)
  | none =>
    match s.fetchOf w f with
    | .instr i next => some (.meet i next)
    | _ => none

/-- A fragment that leaves a wait has ended its run, and its age counts from then (R44). -/
def State.endRun (s : State) (w : Warp) (f : Fragment) : State :=
  let c := coreFin w.core
  let s1 := put s w { f with runLen := 0, age := s.clock }
  if s.cores[c].running == some (w.slot, f.uid) then
    { s1 with cores := s1.cores.set c { s1.cores[c] with running := none } }
  else s1

/-- It is carried out again; none where the fragment still waits as before. -/
def State.poll (s : State) (w : Warp) (f : Fragment) : Option Job :=
  (s.pollAct w f).bind fun a =>
    let s0 := s.endRun w f
    let j : Option Job := match a with
      | .meet i next => some (.run i (s0.at (cursorOf w f f.fetchPC next f.lanes f.covered)))
      | .pend e => some (s0.runPend w f e)
      | _ => none
    j.bind fun j =>
      match j.out with
      | .next t =>
        match (t.warp? w.core w.slot).bind fun w1 => w1.frag? f.uid with
        | some g => if g.status == f.status && g.lanes == f.lanes && g.pend == f.pend && g.fetchPC == f.fetchPC
            then none else some j
        | none => some j
      | _ => some j

/-- A fragment that is stopped for a save or held at its handler does nothing (R162, R398). -/
def idleFrag (w : Warp) (f : Fragment) : Bool := f.trapPending || w.preTaken

/-- What the clusters do for a fragment: the first of its dispatched instructions that gets on, with the time of its dispatch. A half of
an MPAIR that waits for its bond lets the other strands run on (R296). -/
def State.clusterWork (s : State) (w : Warp) (f : Fragment) : Option (Job × Nat) :=
  if idleFrag w f || !(f.status == .ready || f.status == .waiting .bond) then none
  else (s.clusterActs w f).findSome? fun a => (s.job? w f a).map fun j => (j, match a with
    | .pend e | .settle e => e.seq
    | _ => 0)

/-- What the front-end does for a fragment: what stands at its fetch PC, or a wait examined again. -/
def State.issueWork (s : State) (w : Warp) (f : Fragment) : Option Job :=
  if idleFrag w f then none
  else match f.status with
    | .ready => (s.fetchAct w f).bind (s.job? w f)
    | st => if st.polls then s.poll w f else none

/-! ### Arbitration (R44-R46, R383, R384) -/

/-- A fragment for which something can be done; `seq` is the time of dispatch of an instruction in a cluster, none for the
front-end. -/
structure Cand where
  w : Warp
  f : Fragment
  job : Job
  seq : Option Nat

/-- The launch priority of a warp. -/
def State.prioOf (s : State) (w : Warp) : Nat :=
  match s.owner? w with
  | some o => o.launch.prio
  | none => 0

/-- The interface and the partition of a warp. -/
def State.partKey (s : State) (w : Warp) : Option (Nat × Nat) :=
  (s.owner? w).map fun o => (o.launch.queue.vi, o.launch.part)

/-- Runs issued on a core in the window under way, of one partition or of all (R384). -/
def State.runsOf (s : State) (core : Nat) (p : Option (Nat × Nat)) : Nat :=
  sumBy (fun r => if r.window == s.window && r.core == core && (p.isNone || p == some (r.vi, r.part)) then r.runs else 0)
    s.runCounts

/-- The warp's partition has issued more than its share of the core's runs, and a fragment of another partition is ready
there (R384). -/
def State.overRuns (s : State) (w : Warp) : Bool :=
  match s.partOf w with
  | none => false
  | some p =>
    p.share != 0 && s.runsOf w.core (s.partKey w) * 256 > p.share * s.runsOf w.core none
      && s.warps.any fun v => v.core == w.core && !v.preTaken && s.partKey v != s.partKey w
          && v.frags.any fun f => s.isReady v f

/-- The rank of a fragment on its core: a run under way goes on; then the effective priority. -/
def State.rank (s : State) (w : Warp) (f : Fragment) : Nat :=
  if s.cores[coreFin w.core].running == some (w.slot, f.uid) then 0
  else if s.overRuns w then 9
  else 8 - min (s.prioOf w) 7

/-- The fragment whose run holds a core's front-end: arbitration is at run boundaries only (R44, R149). A fragment that is not ready, or
whose next word is not in the code store, holds nothing. (DEDUCED, log 7.) -/
def State.runHolder (s : State) (core : Nat) : Option (Nat × Nat) :=
  match s.cores[coreFin core].running with
  | none => none
  | some (slot, uid) =>
    match (s.warp? core slot).bind fun w => (w.frag? uid).map fun f => (w, f) with
    | none => none
    | some (w, f) =>
      if f.runLen == 0 || idleFrag w f || !s.isReady w f then none
      else match s.fetchOf w f with
        | .missing _ => none
        | _ => some (slot, uid)

/-- The front-end may take a ready fragment's next position. -/
def State.mayIssue (s : State) (w : Warp) (f : Fragment) : Bool :=
  f.status != .ready || (s.runHolder w.core).all fun h => h == (w.slot, f.uid)

/-- The fragment of a name with what can be done for it: in the clusters first. -/
def State.candOf (s : State) (w : Warp) (uid : Nat) : Option Cand :=
  (w.frag? uid).bind fun f =>
    match s.clusterWork w f with
    | some (j, n) => some ⟨w, f, j, some n⟩
    | none => if s.mayIssue w f then (s.issueWork w f).map fun j => ⟨w, f, j, none⟩ else none

/-- The fragments of a set of cores that can issue, with their work. -/
def State.cands (s : State) (p : Nat → Bool) : List Cand :=
  (s.warps.filter fun w => p w.core).flatMap fun v =>
    match s.warp? v.core v.slot with
    | some w => w.frags.filterMap fun f => s.candOf w f.uid
    | none => []

/-- A candidate stands behind another of its core (R44). -/
def State.beaten (s : State) (cs : List Cand) (c : Cand) : Bool :=
  cs.any fun d => d.w.core == c.w.core && s.rank d.w d.f < s.rank c.w c.f

/-- What happens next: the clusters take the instructions that can start in the order of their dispatch (R150); else the front-end of
a core takes the first fragment by R44, and the oldest of those. (DESIGN CHOICE, log 7.) -/
def State.pick (s : State) (p : Nat → Bool) : Option Cand :=
  let cs := s.cands p
  match minBy (fun c => c.seq.getD 0) (cs.filter fun c => c.seq.isSome) with
  | some c => some c
  | none =>
    minBy (fun c => c.f.age) (match cs with
      | [_] => cs
      | _ => cs.filter fun c => !s.beaten cs c)

/-! ### Automatic events (R18) -/

/-- Where the requests in flight are answered, or give up (R85, R97, R100, R415). -/
def State.memEvent (s : State) : Option State :=
  s.reqs.findSome? fun r =>
    s.homeAccess r.id <|> s.loadResponse r.id <|> s.storeAcceptance r.id <|> s.globalAck r.id
      <|> s.acklost r.id <|> s.globalAckLoss r.id

/-- Records, handler entries, the fold and the barriers (R165, R170, R171, R261). -/
def State.frontEvent (s : State) : Option State :=
  (s.spaces.findSome? fun a => s.faultRecord a.asid)
    <|> (s.warps.findSome? fun w => w.frags.findSome? fun f => s.handlerEntry ⟨w.core, w.slot, f.uid⟩)
    <|> ((List.finRange 64).findSome? fun g => s.swathRelease g)
    <|> ((List.finRange 64).findSome? fun g => s.lratioSwitch g <|> s.lratioResume g)

/-- FIFO_BANK_SERVE where it serves something (R247). -/
def State.fifoServe (s : State) (core : Nat) (n : Fin 12) : Option State :=
  let b := s.bank core n
  if b.servePush.isSome || b.servePop.isSome then some (s.serveBank core n 64) else none

/-- The banks, the vertical pairs and the matrix engines of the cores that hold warps (R246, R247, R283, R295, R334, R340). -/
def State.coreEvent (s : State) : Option State :=
  let cores := (s.warps.map fun w => w.core).eraseDups
  (cores.findSome? fun c => (List.finRange 12).findSome? fun n => s.switchComplete c n <|> s.fifoServe c n)
    <|> (cores.findSome? fun c => s.pushAdmit c)
    <|> ((List.range 128).findSome? fun p =>
          (if s.gateReady (2 * p) then some (s.gateEffect (2 * p)) else none) <|> s.crownWake (2 * p))
    <|> (s.matrix.findSome? fun m => s.mpairBond (m.frag.core / 2) <|> s.bondTimeout m.frag.core m.frag.slot)
    <|> ((s.matrix.map fun m => m.frag.core).eraseDups.findSome? fun c => s.matrixStepOf c)

/-- Put an operation in its place in a list by a key. -/
def placeOp (key : CopyOpn → Nat) (o : CopyOpn) : List CopyOpn → List CopyOpn
  | [] => [o]
  | p :: ps => if key o ≤ key p then o :: p :: ps else p :: placeOp key o ps

/-- The copy operations in the order in which the engines turn to them: by launch priority, then by age (R317). -/
def State.copyOrder (s : State) : List CopyOpn :=
  s.copyOps.foldr (placeOp fun o => (8 - min 8 (((s.launchOfGang o.gang).map fun l => l.prio).getD 0)) * 2 ^ 64 + o.id) []

/-- The copy and the collective engines and the range instructions (R317-R322, R348-R356, R428). -/
def State.engineEvent (s : State) : Option State :=
  (s.copyOrder.findSome? fun o =>
    s.copyPerform o.id <|> ((List.range o.land.length).findSome? fun n =>
      s.boLanding o.id n (((o.land[n]?).map fun x => x.2).getD 0)) <|> s.copyComplete o.id)
    <|> (s.collOps.findSome? fun o => s.collComplete o.id <|> s.collSilence o.id)
    <|> (s.episodes.findSome? fun e => s.collEpisodeLost e.launch e.slot (e.span.getD 0))
    <|> (s.ranges.findSome? fun r => s.rangeAck r.id)

/-- The record at the head of a queue, or a pending operation of it (R361-R364). -/
def State.queueEvent (s : State) (q : Queue) : Option State :=
  let r : QueueRef := ⟨q.vi, q.q⟩
  s.recordEvent r (· == 1) State.takeKernel (fun _ => none)
    <|> s.recordEvent r (· == 0) (fun s q r => s.takeOp q .nop r) (fun k => s.nextOp k .nop)
    <|> s.recordEvent r (· == 2) (fun s q r => s.takeOp q .admission r) (fun k => s.nextOp k .admission)
    <|> s.recordEvent r (· == 3) (fun s q r => s.takeOp q .withdraw r) (fun k => s.nextOp k .withdraw)
    <|> s.recordEvent r (· ≥ 4) (fun s q _ => (s.advanceHead q).completeOp ⟨q.vi, q.q⟩ (q.head + 1) stBADRECORD false)
          (fun _ => none)

/-- A pass is due on a die (R376). (DESIGN CHOICE, log 29.) -/
def State.passEvent (s : State) (die : Fin 4) : Option State :=
  let d := s.dies[die]
  if d.passDue || d.passed ≤ s.time / 1000 then some (s.placementPass die) else none

/-- A subscription whose period has ended (R457). -/
def State.notifyEvent (s : State) (fn : Fin 65) : Option State :=
  (s.funcs[fn].subs.find? fun b => b.sampled < s.time / metricPeriod b.metric).map (s.sampleSub fn)

/-- The dispatch and the save engine, the governor, the windows and the subscriptions (R361-R386, R396-R408, R434, R457). -/
def State.packageEvent (s : State) : Option State :=
  (s.queues.findSome? s.queueEvent)
    <|> (s.pendingOps.findSome? fun o => s.withdrawn o.id)
    <|> (s.units.findSome? fun u => s.forcedSave u.id <|> s.contextSave u.id)
    <|> s.linkWindowEnd
    <|> ((List.finRange 4).findSome? fun d => s.refreshCharge d <|> s.governorSample d <|> s.passEvent d)
    <|> ((s.runCounts.map fun r => r.core).eraseDups.findSome? fun c => s.runWindowEnd c)
    <|> ((List.finRange 65).findSome? fun n => s.notifyEvent n)

/-- The first event that is enabled. -/
def State.autoEvent (s : State) : Option State :=
  s.memEvent <|> s.frontEvent <|> s.coreEvent <|> s.engineEvent <|> s.packageEvent

/-! ### The agenda (log 2) -/

/-- A reading of a sensor by R457's metric: 0 the logic temperature of a die, 2 the power of the package, any other the DRAM
temperature of a vault, which the governor samples too (R434). (DESIGN CHOICE, log 34.) -/
def State.senseValue (s : State) (metric object value : Nat) : State :=
  let n : Fin 4 := Fin.ofNat 4 (if metric = 0 then object else object / 16)
  let d := s.dies[n]
  if metric = 0 then { s with dies := s.dies.set n { d with temp := value } }
  else if metric = 2 then { s with mgmt := { s.mgmt with power := value } }
  else
    let v : Fin 16 := Fin.ofNat 16 object
    { s with dies := s.dies.set n { d with vaults := d.vaults.set v { d.vaults[v] with now := value } } }

/-- What every step leaves settled: launches told to end have ended, launches whose dependences are met are eligible (R367, R386), free
entries are claimed, and no deferred record is left that may pop (R165). -/
def State.settled (s : State) : State := (((s.settleEndings (s.launches.length + 1)).noteEligible).claimEntries).popDeferreds

/-- An outcome settled. -/
def settleOut : Out → Out
  | .next s => .next s.settled
  | o => o

/-- What the agenda may still do after the halt (R460). (DESIGN CHOICE, log 8.) -/
def Move.afterHalt : Move → Bool
  | .event .packageReset | .tick _ | .hostStore _ _ | .sense _ _ _ => true
  | _ => false

/-- One move of the agenda. (DESIGN CHOICE, log 42.) -/
def State.move (s : State) : Move → Out
  | .core c ch =>
    match ({ s with choice := ch }).pick (· == c.val) with
    | some k => k.job.out
    | none => .next s
  | .event i =>
    match exec i { s with cursor := none } with
    | .fault _ => .next s
    | o => o
  | .tick ns => .next { s with time := s.time + ns }
  | .hostStore a bs => .next (s.hostWrite a bs)
  | .sense m o v => .next (s.senseValue m o v)
  | .poison u => .next { s with mem := { s.mem with poison := u :: s.mem.poison.filter (· != u) } }

/-! ### One step -/

/-- The agenda is empty: fragments issue and events happen by turns; a nanosecond passes with every eighth step, and with
every step in which nothing can happen (log 2). -/
def State.turn (s : State) : Out :=
  let s1 := { s with choice := ⟨false, false⟩ }
  let issue := fun (other : Out) => match s1.pick fun _ => true with
    | some c => c.job.out
    | none => other
  let auto := fun (other : Out) => match s1.autoEvent with
    | some t => .next t
    | none => other
  let idle : Out := .next { s1 with time := s1.time + 1 }
  if s.clock % 8 == 0 then idle
  else if s.clock % 2 == 1 then issue (auto idle) else auto (issue idle)

/-- One step of the device. After the checkpoint nothing happens until a package reset (R460). -/
def State.stepOnce (s : State) : Out :=
  let s1 := { s with clock := s.clock + 1 }
  settleOut (match s1.agenda with
    | m :: rest =>
      let s2 := { s1 with agenda := rest }
      if s1.mgmt.boot == .halted && !m.afterHalt then .next s2 else s2.move m
    | [] => if s1.mgmt.boot == .halted then .next s1 else s1.turn)

/-! ### A program put in place from outside (log 5) -/

/-- The word address at which withFetchWord puts its instruction, and the address space that it uses. -/
def placedAt : Nat := 0x4000
def placedAsid : Nat := 1

/-- The lowest-numbered core that holds no warp. -/
def State.emptyCore (s : State) : Fin 256 :=
  ((List.finRange 256).find? fun c => !s.warps.any fun w => w.core == c.val).getD 0

/-- A launch of one gang of one block of one warp, already eligible and placed. -/
def placedLaunch (id time : Nat) : Launch :=
  { id := id, queue := ⟨0, 0⟩, op := 1, asid := placedAsid, part := 0, record := 0, obj := 0, kernel := 0, depth := 0
    poolMiB := 0, prio := 0, deps := [], nGangs := 1, dies := 1, placed := 1, doneDies := [0], retired := 0
    eligibleAt := some time, refusals := 0, held := 0, heldBack := false, tFirst := some time, refNum := 0, refDen := 1
    reserved := [], claim := 0, ending := none }

/-- The words of an instruction, numbered as the table numbers them, in a core group's code store. -/
def placeCode (g : CoreGroup) (w : Nat) : CoreGroup :=
  let t := tableWords w
  let ws := (t.1 :: t.2).zipIdx.map fun x => ({ asid := placedAsid, wa := placedAt + x.2, word := x.1 } : CodeWord)
  { g with store := ws ++ g.store }

/-- An instruction in the code store of the lowest-numbered empty core's group, with a warp of a launch of its own whose next
instruction it is; that core moves next. -/
def State.placeWords (s : State) (nbits w : Nat) : State :=
  let core := s.emptyCore
  let cg := cgOfCore core.val
  let id := s.nextId
  let pd := dieOfCore core.val
  let level : DieLevel :=
    { id := id + 1, launch := id, die := pd, placedGangs := 1, liveGangs := 1, pool := [], groups := Vector.replicate 16 0 }
  let gang : Gang :=
    { id := id + 2, level := id + 1, cg := cg.val, index := 0, order := 0, nBlocks := 1, retiredBlocks := 0, succ := false }
  let block : Block :=
    { id := id + 3, gang := id + 2, core := core.val, inGang := 0, nWarps := 1, windows := Vector.replicate 16 0
      named := 16, tiles := List.finRange 16, tags := 64, retiredWarps := 0 }
  let copy : CopyCtx :=
    { gang := id + 2, cg := cg.val, index := (s.freeCopyCtx cg.val).getD 0, submitted := 0, counter := 0, done := [], err := 0 }
  let coll : CollCtx :=
    { launch := id, die := pd, index := (s.freeCollCtx pd.val).getD 0, submitted := 0, counter := 0, done := [], keys := [] }
  let warp := newWarp core.val 0 (id + 3) 0 (posOfWord placedAt) 0 0 0 (id + 4) s.clock
  { s with
    nextId := id + 5
    agenda := .core core ⟨false, false⟩ :: s.agenda
    launches := s.launches ++ [placedLaunch id s.time]
    copyCtxs := s.copyCtxs ++ [copy], collCtxs := s.collCtxs ++ [coll]
    levels := s.levels ++ [level], gangs := s.gangs ++ [gang], blocks := s.blocks ++ [block], warps := warp :: s.warps
    cgs := s.cgs.set cg (placeCode s.cgs[cg] (w % 2 ^ nbits)) }

end Sys2Proof.Machine
end

