-- ==== Sys2Proof/Machine/Step.lean ====
section
/-!
DEFINITION. One step of the machine.
-/

namespace Sys2Proof.Machine

open Sys2Proof

/-- One step. -/
def step (s : State) : Host.Outcome State Fault Refusal := s.stepOnce

/-- The same state with an instruction stored where the next step fetches (R102). (DESIGN CHOICE, log 5.) -/
def State.withFetchWord (s : State) (nbits w : Nat) : State := s.placeWords nbits w

end Sys2Proof.Machine
end

