-- ==== Sys2Proof/Laws/State.lean ====
section
/-!
SUPPORT. What the updates of State, Warp and Fragment leave as it was: one lemma per field per update, all by rfl, so that no
proof unfolds a record update.
-/

namespace Sys2Proof.Machine

open Sys2Proof

/-! ### Replacing a warp -/

@[simp] theorem setWarp_time (s : State) (w : Warp) : (s.setWarp w).time = s.time := rfl
@[simp] theorem setWarp_cursor (s : State) (w : Warp) : (s.setWarp w).cursor = s.cursor := rfl
@[simp] theorem setWarp_choice (s : State) (w : Warp) : (s.setWarp w).choice = s.choice := rfl
@[simp] theorem setWarp_agenda (s : State) (w : Warp) : (s.setWarp w).agenda = s.agenda := rfl
@[simp] theorem setWarp_freeIndex (s : State) (w : Warp) : (s.setWarp w).freeIndex = s.freeIndex := rfl
@[simp] theorem setWarp_clock (s : State) (w : Warp) : (s.setWarp w).clock = s.clock := rfl
@[simp] theorem setWarp_nextId (s : State) (w : Warp) : (s.setWarp w).nextId = s.nextId := rfl
@[simp] theorem setWarp_blocks (s : State) (w : Warp) : (s.setWarp w).blocks = s.blocks := rfl
@[simp] theorem setWarp_gangs (s : State) (w : Warp) : (s.setWarp w).gangs = s.gangs := rfl
@[simp] theorem setWarp_levels (s : State) (w : Warp) : (s.setWarp w).levels = s.levels := rfl
@[simp] theorem setWarp_barriers (s : State) (w : Warp) : (s.setWarp w).barriers = s.barriers := rfl
@[simp] theorem setWarp_barValues (s : State) (w : Warp) : (s.setWarp w).barValues = s.barValues := rfl
@[simp] theorem setWarp_episodes (s : State) (w : Warp) : (s.setWarp w).episodes = s.episodes := rfl
@[simp] theorem setWarp_cores (s : State) (w : Warp) : (s.setWarp w).cores = s.cores := rfl
@[simp] theorem setWarp_cgs (s : State) (w : Warp) : (s.setWarp w).cgs = s.cgs := rfl
@[simp] theorem setWarp_pairs (s : State) (w : Warp) : (s.setWarp w).pairs = s.pairs := rfl
@[simp] theorem setWarp_dies (s : State) (w : Warp) : (s.setWarp w).dies = s.dies := rfl
@[simp] theorem setWarp_links (s : State) (w : Warp) : (s.setWarp w).links = s.links := rfl
@[simp] theorem setWarp_linkBytes (s : State) (w : Warp) : (s.setWarp w).linkBytes = s.linkBytes := rfl
@[simp] theorem setWarp_linkCounts (s : State) (w : Warp) : (s.setWarp w).linkCounts = s.linkCounts := rfl
@[simp] theorem setWarp_linkWindow (s : State) (w : Warp) : (s.setWarp w).linkWindow = s.linkWindow := rfl
@[simp] theorem setWarp_linkActive (s : State) (w : Warp) : (s.setWarp w).linkActive = s.linkActive := rfl
@[simp] theorem setWarp_linkLast (s : State) (w : Warp) : (s.setWarp w).linkLast = s.linkLast := rfl
@[simp] theorem setWarp_mem (s : State) (w : Warp) : (s.setWarp w).mem = s.mem := rfl
@[simp] theorem setWarp_hostMem (s : State) (w : Warp) : (s.setWarp w).hostMem = s.hostMem := rfl
@[simp] theorem setWarp_reqs (s : State) (w : Warp) : (s.setWarp w).reqs = s.reqs := rfl
@[simp] theorem setWarp_forwards (s : State) (w : Warp) : (s.setWarp w).forwards = s.forwards := rfl
@[simp] theorem setWarp_tcache (s : State) (w : Warp) : (s.setWarp w).tcache = s.tcache := rfl
@[simp] theorem setWarp_regions (s : State) (w : Warp) : (s.setWarp w).regions = s.regions := rfl
@[simp] theorem setWarp_spaces (s : State) (w : Warp) : (s.setWarp w).spaces = s.spaces := rfl
@[simp] theorem setWarp_objects (s : State) (w : Warp) : (s.setWarp w).objects = s.objects := rfl
@[simp] theorem setWarp_ifaces (s : State) (w : Warp) : (s.setWarp w).ifaces = s.ifaces := rfl
@[simp] theorem setWarp_funcs (s : State) (w : Warp) : (s.setWarp w).funcs = s.funcs := rfl
@[simp] theorem setWarp_queues (s : State) (w : Warp) : (s.setWarp w).queues = s.queues := rfl
@[simp] theorem setWarp_pendingOps (s : State) (w : Warp) : (s.setWarp w).pendingOps = s.pendingOps := rfl
@[simp] theorem setWarp_launches (s : State) (w : Warp) : (s.setWarp w).launches = s.launches := rfl
@[simp] theorem setWarp_units (s : State) (w : Warp) : (s.setWarp w).units = s.units := rfl
@[simp] theorem setWarp_saved (s : State) (w : Warp) : (s.setWarp w).saved = s.saved := rfl
@[simp] theorem setWarp_runCounts (s : State) (w : Warp) : (s.setWarp w).runCounts = s.runCounts := rfl
@[simp] theorem setWarp_copyCtxs (s : State) (w : Warp) : (s.setWarp w).copyCtxs = s.copyCtxs := rfl
@[simp] theorem setWarp_copyOps (s : State) (w : Warp) : (s.setWarp w).copyOps = s.copyOps := rfl
@[simp] theorem setWarp_tags (s : State) (w : Warp) : (s.setWarp w).tags = s.tags := rfl
@[simp] theorem setWarp_collCtxs (s : State) (w : Warp) : (s.setWarp w).collCtxs = s.collCtxs := rfl
@[simp] theorem setWarp_collOps (s : State) (w : Warp) : (s.setWarp w).collOps = s.collOps := rfl
@[simp] theorem setWarp_matrix (s : State) (w : Warp) : (s.setWarp w).matrix = s.matrix := rfl
@[simp] theorem setWarp_ranges (s : State) (w : Warp) : (s.setWarp w).ranges = s.ranges := rfl
@[simp] theorem setWarp_debugSignals (s : State) (w : Warp) : (s.setWarp w).debugSignals = s.debugSignals := rfl
@[simp] theorem setWarp_barAnswer (s : State) (w : Warp) : (s.setWarp w).barAnswer = s.barAnswer := rfl
@[simp] theorem setWarp_mgmt (s : State) (w : Warp) : (s.setWarp w).mgmt = s.mgmt := rfl

/-! ### Putting the executing warp and fragment back -/

@[simp] theorem put_time (s : State) (w : Warp) (f : Fragment) : (put s w f).time = s.time := rfl
@[simp] theorem put_cursor (s : State) (w : Warp) (f : Fragment) : (put s w f).cursor = s.cursor := rfl
@[simp] theorem put_choice (s : State) (w : Warp) (f : Fragment) : (put s w f).choice = s.choice := rfl
@[simp] theorem put_agenda (s : State) (w : Warp) (f : Fragment) : (put s w f).agenda = s.agenda := rfl
@[simp] theorem put_freeIndex (s : State) (w : Warp) (f : Fragment) : (put s w f).freeIndex = s.freeIndex := rfl
@[simp] theorem put_clock (s : State) (w : Warp) (f : Fragment) : (put s w f).clock = s.clock := rfl
@[simp] theorem put_nextId (s : State) (w : Warp) (f : Fragment) : (put s w f).nextId = s.nextId := rfl
@[simp] theorem put_blocks (s : State) (w : Warp) (f : Fragment) : (put s w f).blocks = s.blocks := rfl
@[simp] theorem put_gangs (s : State) (w : Warp) (f : Fragment) : (put s w f).gangs = s.gangs := rfl
@[simp] theorem put_levels (s : State) (w : Warp) (f : Fragment) : (put s w f).levels = s.levels := rfl
@[simp] theorem put_barriers (s : State) (w : Warp) (f : Fragment) : (put s w f).barriers = s.barriers := rfl
@[simp] theorem put_barValues (s : State) (w : Warp) (f : Fragment) : (put s w f).barValues = s.barValues := rfl
@[simp] theorem put_episodes (s : State) (w : Warp) (f : Fragment) : (put s w f).episodes = s.episodes := rfl
@[simp] theorem put_cores (s : State) (w : Warp) (f : Fragment) : (put s w f).cores = s.cores := rfl
@[simp] theorem put_cgs (s : State) (w : Warp) (f : Fragment) : (put s w f).cgs = s.cgs := rfl
@[simp] theorem put_pairs (s : State) (w : Warp) (f : Fragment) : (put s w f).pairs = s.pairs := rfl
@[simp] theorem put_dies (s : State) (w : Warp) (f : Fragment) : (put s w f).dies = s.dies := rfl
@[simp] theorem put_links (s : State) (w : Warp) (f : Fragment) : (put s w f).links = s.links := rfl
@[simp] theorem put_linkBytes (s : State) (w : Warp) (f : Fragment) : (put s w f).linkBytes = s.linkBytes := rfl
@[simp] theorem put_linkCounts (s : State) (w : Warp) (f : Fragment) : (put s w f).linkCounts = s.linkCounts := rfl
@[simp] theorem put_linkWindow (s : State) (w : Warp) (f : Fragment) : (put s w f).linkWindow = s.linkWindow := rfl
@[simp] theorem put_linkActive (s : State) (w : Warp) (f : Fragment) : (put s w f).linkActive = s.linkActive := rfl
@[simp] theorem put_linkLast (s : State) (w : Warp) (f : Fragment) : (put s w f).linkLast = s.linkLast := rfl
@[simp] theorem put_mem (s : State) (w : Warp) (f : Fragment) : (put s w f).mem = s.mem := rfl
@[simp] theorem put_hostMem (s : State) (w : Warp) (f : Fragment) : (put s w f).hostMem = s.hostMem := rfl
@[simp] theorem put_reqs (s : State) (w : Warp) (f : Fragment) : (put s w f).reqs = s.reqs := rfl
@[simp] theorem put_forwards (s : State) (w : Warp) (f : Fragment) : (put s w f).forwards = s.forwards := rfl
@[simp] theorem put_tcache (s : State) (w : Warp) (f : Fragment) : (put s w f).tcache = s.tcache := rfl
@[simp] theorem put_regions (s : State) (w : Warp) (f : Fragment) : (put s w f).regions = s.regions := rfl
@[simp] theorem put_spaces (s : State) (w : Warp) (f : Fragment) : (put s w f).spaces = s.spaces := rfl
@[simp] theorem put_objects (s : State) (w : Warp) (f : Fragment) : (put s w f).objects = s.objects := rfl
@[simp] theorem put_ifaces (s : State) (w : Warp) (f : Fragment) : (put s w f).ifaces = s.ifaces := rfl
@[simp] theorem put_funcs (s : State) (w : Warp) (f : Fragment) : (put s w f).funcs = s.funcs := rfl
@[simp] theorem put_queues (s : State) (w : Warp) (f : Fragment) : (put s w f).queues = s.queues := rfl
@[simp] theorem put_pendingOps (s : State) (w : Warp) (f : Fragment) : (put s w f).pendingOps = s.pendingOps := rfl
@[simp] theorem put_launches (s : State) (w : Warp) (f : Fragment) : (put s w f).launches = s.launches := rfl
@[simp] theorem put_units (s : State) (w : Warp) (f : Fragment) : (put s w f).units = s.units := rfl
@[simp] theorem put_saved (s : State) (w : Warp) (f : Fragment) : (put s w f).saved = s.saved := rfl
@[simp] theorem put_runCounts (s : State) (w : Warp) (f : Fragment) : (put s w f).runCounts = s.runCounts := rfl
@[simp] theorem put_copyCtxs (s : State) (w : Warp) (f : Fragment) : (put s w f).copyCtxs = s.copyCtxs := rfl
@[simp] theorem put_copyOps (s : State) (w : Warp) (f : Fragment) : (put s w f).copyOps = s.copyOps := rfl
@[simp] theorem put_tags (s : State) (w : Warp) (f : Fragment) : (put s w f).tags = s.tags := rfl
@[simp] theorem put_collCtxs (s : State) (w : Warp) (f : Fragment) : (put s w f).collCtxs = s.collCtxs := rfl
@[simp] theorem put_collOps (s : State) (w : Warp) (f : Fragment) : (put s w f).collOps = s.collOps := rfl
@[simp] theorem put_matrix (s : State) (w : Warp) (f : Fragment) : (put s w f).matrix = s.matrix := rfl
@[simp] theorem put_ranges (s : State) (w : Warp) (f : Fragment) : (put s w f).ranges = s.ranges := rfl
@[simp] theorem put_debugSignals (s : State) (w : Warp) (f : Fragment) : (put s w f).debugSignals = s.debugSignals := rfl
@[simp] theorem put_barAnswer (s : State) (w : Warp) (f : Fragment) : (put s w f).barAnswer = s.barAnswer := rfl
@[simp] theorem put_mgmt (s : State) (w : Warp) (f : Fragment) : (put s w f).mgmt = s.mgmt := rfl

/-! ### Setting the cursor -/

@[simp] theorem at_time (s : State) (c : Cursor) : (s.at c).time = s.time := rfl
@[simp] theorem at_choice (s : State) (c : Cursor) : (s.at c).choice = s.choice := rfl
@[simp] theorem at_agenda (s : State) (c : Cursor) : (s.at c).agenda = s.agenda := rfl
@[simp] theorem at_freeIndex (s : State) (c : Cursor) : (s.at c).freeIndex = s.freeIndex := rfl
@[simp] theorem at_clock (s : State) (c : Cursor) : (s.at c).clock = s.clock := rfl
@[simp] theorem at_nextId (s : State) (c : Cursor) : (s.at c).nextId = s.nextId := rfl
@[simp] theorem at_warps (s : State) (c : Cursor) : (s.at c).warps = s.warps := rfl
@[simp] theorem at_blocks (s : State) (c : Cursor) : (s.at c).blocks = s.blocks := rfl
@[simp] theorem at_gangs (s : State) (c : Cursor) : (s.at c).gangs = s.gangs := rfl
@[simp] theorem at_levels (s : State) (c : Cursor) : (s.at c).levels = s.levels := rfl
@[simp] theorem at_barriers (s : State) (c : Cursor) : (s.at c).barriers = s.barriers := rfl
@[simp] theorem at_barValues (s : State) (c : Cursor) : (s.at c).barValues = s.barValues := rfl
@[simp] theorem at_episodes (s : State) (c : Cursor) : (s.at c).episodes = s.episodes := rfl
@[simp] theorem at_cores (s : State) (c : Cursor) : (s.at c).cores = s.cores := rfl
@[simp] theorem at_cgs (s : State) (c : Cursor) : (s.at c).cgs = s.cgs := rfl
@[simp] theorem at_pairs (s : State) (c : Cursor) : (s.at c).pairs = s.pairs := rfl
@[simp] theorem at_dies (s : State) (c : Cursor) : (s.at c).dies = s.dies := rfl
@[simp] theorem at_links (s : State) (c : Cursor) : (s.at c).links = s.links := rfl
@[simp] theorem at_linkBytes (s : State) (c : Cursor) : (s.at c).linkBytes = s.linkBytes := rfl
@[simp] theorem at_linkCounts (s : State) (c : Cursor) : (s.at c).linkCounts = s.linkCounts := rfl
@[simp] theorem at_linkWindow (s : State) (c : Cursor) : (s.at c).linkWindow = s.linkWindow := rfl
@[simp] theorem at_linkActive (s : State) (c : Cursor) : (s.at c).linkActive = s.linkActive := rfl
@[simp] theorem at_linkLast (s : State) (c : Cursor) : (s.at c).linkLast = s.linkLast := rfl
@[simp] theorem at_mem (s : State) (c : Cursor) : (s.at c).mem = s.mem := rfl
@[simp] theorem at_hostMem (s : State) (c : Cursor) : (s.at c).hostMem = s.hostMem := rfl
@[simp] theorem at_reqs (s : State) (c : Cursor) : (s.at c).reqs = s.reqs := rfl
@[simp] theorem at_forwards (s : State) (c : Cursor) : (s.at c).forwards = s.forwards := rfl
@[simp] theorem at_tcache (s : State) (c : Cursor) : (s.at c).tcache = s.tcache := rfl
@[simp] theorem at_regions (s : State) (c : Cursor) : (s.at c).regions = s.regions := rfl
@[simp] theorem at_spaces (s : State) (c : Cursor) : (s.at c).spaces = s.spaces := rfl
@[simp] theorem at_objects (s : State) (c : Cursor) : (s.at c).objects = s.objects := rfl
@[simp] theorem at_ifaces (s : State) (c : Cursor) : (s.at c).ifaces = s.ifaces := rfl
@[simp] theorem at_funcs (s : State) (c : Cursor) : (s.at c).funcs = s.funcs := rfl
@[simp] theorem at_queues (s : State) (c : Cursor) : (s.at c).queues = s.queues := rfl
@[simp] theorem at_pendingOps (s : State) (c : Cursor) : (s.at c).pendingOps = s.pendingOps := rfl
@[simp] theorem at_launches (s : State) (c : Cursor) : (s.at c).launches = s.launches := rfl
@[simp] theorem at_units (s : State) (c : Cursor) : (s.at c).units = s.units := rfl
@[simp] theorem at_saved (s : State) (c : Cursor) : (s.at c).saved = s.saved := rfl
@[simp] theorem at_runCounts (s : State) (c : Cursor) : (s.at c).runCounts = s.runCounts := rfl
@[simp] theorem at_copyCtxs (s : State) (c : Cursor) : (s.at c).copyCtxs = s.copyCtxs := rfl
@[simp] theorem at_copyOps (s : State) (c : Cursor) : (s.at c).copyOps = s.copyOps := rfl
@[simp] theorem at_tags (s : State) (c : Cursor) : (s.at c).tags = s.tags := rfl
@[simp] theorem at_collCtxs (s : State) (c : Cursor) : (s.at c).collCtxs = s.collCtxs := rfl
@[simp] theorem at_collOps (s : State) (c : Cursor) : (s.at c).collOps = s.collOps := rfl
@[simp] theorem at_matrix (s : State) (c : Cursor) : (s.at c).matrix = s.matrix := rfl
@[simp] theorem at_ranges (s : State) (c : Cursor) : (s.at c).ranges = s.ranges := rfl
@[simp] theorem at_debugSignals (s : State) (c : Cursor) : (s.at c).debugSignals = s.debugSignals := rfl
@[simp] theorem at_barAnswer (s : State) (c : Cursor) : (s.at c).barAnswer = s.barAnswer := rfl
@[simp] theorem at_mgmt (s : State) (c : Cursor) : (s.at c).mgmt = s.mgmt := rfl

@[simp] theorem at_cursor (s : State) (c : Cursor) : (s.at c).cursor = some c := rfl

/-! ### Completing a strand or a meeting instruction -/

@[simp] theorem finishStrand_time (s : State) (c : Cursor) (w : Warp) (f : Fragment) (k : Fin 8) : (finishStrand s c w f k).time = s.time := rfl
@[simp] theorem finishStrand_cursor (s : State) (c : Cursor) (w : Warp) (f : Fragment) (k : Fin 8) : (finishStrand s c w f k).cursor = s.cursor := rfl
@[simp] theorem finishStrand_choice (s : State) (c : Cursor) (w : Warp) (f : Fragment) (k : Fin 8) : (finishStrand s c w f k).choice = s.choice := rfl
@[simp] theorem finishStrand_agenda (s : State) (c : Cursor) (w : Warp) (f : Fragment) (k : Fin 8) : (finishStrand s c w f k).agenda = s.agenda := rfl
@[simp] theorem finishStrand_freeIndex (s : State) (c : Cursor) (w : Warp) (f : Fragment) (k : Fin 8) : (finishStrand s c w f k).freeIndex = s.freeIndex := rfl
@[simp] theorem finishStrand_clock (s : State) (c : Cursor) (w : Warp) (f : Fragment) (k : Fin 8) : (finishStrand s c w f k).clock = s.clock := rfl
@[simp] theorem finishStrand_nextId (s : State) (c : Cursor) (w : Warp) (f : Fragment) (k : Fin 8) : (finishStrand s c w f k).nextId = s.nextId := rfl
@[simp] theorem finishStrand_blocks (s : State) (c : Cursor) (w : Warp) (f : Fragment) (k : Fin 8) : (finishStrand s c w f k).blocks = s.blocks := rfl
@[simp] theorem finishStrand_gangs (s : State) (c : Cursor) (w : Warp) (f : Fragment) (k : Fin 8) : (finishStrand s c w f k).gangs = s.gangs := rfl
@[simp] theorem finishStrand_levels (s : State) (c : Cursor) (w : Warp) (f : Fragment) (k : Fin 8) : (finishStrand s c w f k).levels = s.levels := rfl
@[simp] theorem finishStrand_barriers (s : State) (c : Cursor) (w : Warp) (f : Fragment) (k : Fin 8) : (finishStrand s c w f k).barriers = s.barriers := rfl
@[simp] theorem finishStrand_barValues (s : State) (c : Cursor) (w : Warp) (f : Fragment) (k : Fin 8) : (finishStrand s c w f k).barValues = s.barValues := rfl
@[simp] theorem finishStrand_episodes (s : State) (c : Cursor) (w : Warp) (f : Fragment) (k : Fin 8) : (finishStrand s c w f k).episodes = s.episodes := rfl
@[simp] theorem finishStrand_cores (s : State) (c : Cursor) (w : Warp) (f : Fragment) (k : Fin 8) : (finishStrand s c w f k).cores = s.cores := rfl
@[simp] theorem finishStrand_cgs (s : State) (c : Cursor) (w : Warp) (f : Fragment) (k : Fin 8) : (finishStrand s c w f k).cgs = s.cgs := rfl
@[simp] theorem finishStrand_pairs (s : State) (c : Cursor) (w : Warp) (f : Fragment) (k : Fin 8) : (finishStrand s c w f k).pairs = s.pairs := rfl
@[simp] theorem finishStrand_dies (s : State) (c : Cursor) (w : Warp) (f : Fragment) (k : Fin 8) : (finishStrand s c w f k).dies = s.dies := rfl
@[simp] theorem finishStrand_links (s : State) (c : Cursor) (w : Warp) (f : Fragment) (k : Fin 8) : (finishStrand s c w f k).links = s.links := rfl
@[simp] theorem finishStrand_linkBytes (s : State) (c : Cursor) (w : Warp) (f : Fragment) (k : Fin 8) : (finishStrand s c w f k).linkBytes = s.linkBytes := rfl
@[simp] theorem finishStrand_linkCounts (s : State) (c : Cursor) (w : Warp) (f : Fragment) (k : Fin 8) : (finishStrand s c w f k).linkCounts = s.linkCounts := rfl
@[simp] theorem finishStrand_linkWindow (s : State) (c : Cursor) (w : Warp) (f : Fragment) (k : Fin 8) : (finishStrand s c w f k).linkWindow = s.linkWindow := rfl
@[simp] theorem finishStrand_linkActive (s : State) (c : Cursor) (w : Warp) (f : Fragment) (k : Fin 8) : (finishStrand s c w f k).linkActive = s.linkActive := rfl
@[simp] theorem finishStrand_linkLast (s : State) (c : Cursor) (w : Warp) (f : Fragment) (k : Fin 8) : (finishStrand s c w f k).linkLast = s.linkLast := rfl
@[simp] theorem finishStrand_mem (s : State) (c : Cursor) (w : Warp) (f : Fragment) (k : Fin 8) : (finishStrand s c w f k).mem = s.mem := rfl
@[simp] theorem finishStrand_hostMem (s : State) (c : Cursor) (w : Warp) (f : Fragment) (k : Fin 8) : (finishStrand s c w f k).hostMem = s.hostMem := rfl
@[simp] theorem finishStrand_reqs (s : State) (c : Cursor) (w : Warp) (f : Fragment) (k : Fin 8) : (finishStrand s c w f k).reqs = s.reqs := rfl
@[simp] theorem finishStrand_forwards (s : State) (c : Cursor) (w : Warp) (f : Fragment) (k : Fin 8) : (finishStrand s c w f k).forwards = s.forwards := rfl
@[simp] theorem finishStrand_tcache (s : State) (c : Cursor) (w : Warp) (f : Fragment) (k : Fin 8) : (finishStrand s c w f k).tcache = s.tcache := rfl
@[simp] theorem finishStrand_regions (s : State) (c : Cursor) (w : Warp) (f : Fragment) (k : Fin 8) : (finishStrand s c w f k).regions = s.regions := rfl
@[simp] theorem finishStrand_spaces (s : State) (c : Cursor) (w : Warp) (f : Fragment) (k : Fin 8) : (finishStrand s c w f k).spaces = s.spaces := rfl
@[simp] theorem finishStrand_objects (s : State) (c : Cursor) (w : Warp) (f : Fragment) (k : Fin 8) : (finishStrand s c w f k).objects = s.objects := rfl
@[simp] theorem finishStrand_ifaces (s : State) (c : Cursor) (w : Warp) (f : Fragment) (k : Fin 8) : (finishStrand s c w f k).ifaces = s.ifaces := rfl
@[simp] theorem finishStrand_funcs (s : State) (c : Cursor) (w : Warp) (f : Fragment) (k : Fin 8) : (finishStrand s c w f k).funcs = s.funcs := rfl
@[simp] theorem finishStrand_queues (s : State) (c : Cursor) (w : Warp) (f : Fragment) (k : Fin 8) : (finishStrand s c w f k).queues = s.queues := rfl
@[simp] theorem finishStrand_pendingOps (s : State) (c : Cursor) (w : Warp) (f : Fragment) (k : Fin 8) : (finishStrand s c w f k).pendingOps = s.pendingOps := rfl
@[simp] theorem finishStrand_launches (s : State) (c : Cursor) (w : Warp) (f : Fragment) (k : Fin 8) : (finishStrand s c w f k).launches = s.launches := rfl
@[simp] theorem finishStrand_units (s : State) (c : Cursor) (w : Warp) (f : Fragment) (k : Fin 8) : (finishStrand s c w f k).units = s.units := rfl
@[simp] theorem finishStrand_saved (s : State) (c : Cursor) (w : Warp) (f : Fragment) (k : Fin 8) : (finishStrand s c w f k).saved = s.saved := rfl
@[simp] theorem finishStrand_runCounts (s : State) (c : Cursor) (w : Warp) (f : Fragment) (k : Fin 8) : (finishStrand s c w f k).runCounts = s.runCounts := rfl
@[simp] theorem finishStrand_copyCtxs (s : State) (c : Cursor) (w : Warp) (f : Fragment) (k : Fin 8) : (finishStrand s c w f k).copyCtxs = s.copyCtxs := rfl
@[simp] theorem finishStrand_copyOps (s : State) (c : Cursor) (w : Warp) (f : Fragment) (k : Fin 8) : (finishStrand s c w f k).copyOps = s.copyOps := rfl
@[simp] theorem finishStrand_tags (s : State) (c : Cursor) (w : Warp) (f : Fragment) (k : Fin 8) : (finishStrand s c w f k).tags = s.tags := rfl
@[simp] theorem finishStrand_collCtxs (s : State) (c : Cursor) (w : Warp) (f : Fragment) (k : Fin 8) : (finishStrand s c w f k).collCtxs = s.collCtxs := rfl
@[simp] theorem finishStrand_collOps (s : State) (c : Cursor) (w : Warp) (f : Fragment) (k : Fin 8) : (finishStrand s c w f k).collOps = s.collOps := rfl
@[simp] theorem finishStrand_matrix (s : State) (c : Cursor) (w : Warp) (f : Fragment) (k : Fin 8) : (finishStrand s c w f k).matrix = s.matrix := rfl
@[simp] theorem finishStrand_ranges (s : State) (c : Cursor) (w : Warp) (f : Fragment) (k : Fin 8) : (finishStrand s c w f k).ranges = s.ranges := rfl
@[simp] theorem finishStrand_debugSignals (s : State) (c : Cursor) (w : Warp) (f : Fragment) (k : Fin 8) : (finishStrand s c w f k).debugSignals = s.debugSignals := rfl
@[simp] theorem finishStrand_barAnswer (s : State) (c : Cursor) (w : Warp) (f : Fragment) (k : Fin 8) : (finishStrand s c w f k).barAnswer = s.barAnswer := rfl
@[simp] theorem finishStrand_mgmt (s : State) (c : Cursor) (w : Warp) (f : Fragment) (k : Fin 8) : (finishStrand s c w f k).mgmt = s.mgmt := rfl

@[simp] theorem finishMeeting_time (s : State) (w : Warp) (f : Fragment) (p : Pos) : (finishMeeting s w f p).time = s.time := rfl
@[simp] theorem finishMeeting_cursor (s : State) (w : Warp) (f : Fragment) (p : Pos) : (finishMeeting s w f p).cursor = s.cursor := rfl
@[simp] theorem finishMeeting_choice (s : State) (w : Warp) (f : Fragment) (p : Pos) : (finishMeeting s w f p).choice = s.choice := rfl
@[simp] theorem finishMeeting_agenda (s : State) (w : Warp) (f : Fragment) (p : Pos) : (finishMeeting s w f p).agenda = s.agenda := rfl
@[simp] theorem finishMeeting_freeIndex (s : State) (w : Warp) (f : Fragment) (p : Pos) : (finishMeeting s w f p).freeIndex = s.freeIndex := rfl
@[simp] theorem finishMeeting_clock (s : State) (w : Warp) (f : Fragment) (p : Pos) : (finishMeeting s w f p).clock = s.clock := rfl
@[simp] theorem finishMeeting_nextId (s : State) (w : Warp) (f : Fragment) (p : Pos) : (finishMeeting s w f p).nextId = s.nextId := rfl
@[simp] theorem finishMeeting_blocks (s : State) (w : Warp) (f : Fragment) (p : Pos) : (finishMeeting s w f p).blocks = s.blocks := rfl
@[simp] theorem finishMeeting_gangs (s : State) (w : Warp) (f : Fragment) (p : Pos) : (finishMeeting s w f p).gangs = s.gangs := rfl
@[simp] theorem finishMeeting_levels (s : State) (w : Warp) (f : Fragment) (p : Pos) : (finishMeeting s w f p).levels = s.levels := rfl
@[simp] theorem finishMeeting_barriers (s : State) (w : Warp) (f : Fragment) (p : Pos) : (finishMeeting s w f p).barriers = s.barriers := rfl
@[simp] theorem finishMeeting_barValues (s : State) (w : Warp) (f : Fragment) (p : Pos) : (finishMeeting s w f p).barValues = s.barValues := rfl
@[simp] theorem finishMeeting_episodes (s : State) (w : Warp) (f : Fragment) (p : Pos) : (finishMeeting s w f p).episodes = s.episodes := rfl
@[simp] theorem finishMeeting_cores (s : State) (w : Warp) (f : Fragment) (p : Pos) : (finishMeeting s w f p).cores = s.cores := rfl
@[simp] theorem finishMeeting_cgs (s : State) (w : Warp) (f : Fragment) (p : Pos) : (finishMeeting s w f p).cgs = s.cgs := rfl
@[simp] theorem finishMeeting_pairs (s : State) (w : Warp) (f : Fragment) (p : Pos) : (finishMeeting s w f p).pairs = s.pairs := rfl
@[simp] theorem finishMeeting_dies (s : State) (w : Warp) (f : Fragment) (p : Pos) : (finishMeeting s w f p).dies = s.dies := rfl
@[simp] theorem finishMeeting_links (s : State) (w : Warp) (f : Fragment) (p : Pos) : (finishMeeting s w f p).links = s.links := rfl
@[simp] theorem finishMeeting_linkBytes (s : State) (w : Warp) (f : Fragment) (p : Pos) : (finishMeeting s w f p).linkBytes = s.linkBytes := rfl
@[simp] theorem finishMeeting_linkCounts (s : State) (w : Warp) (f : Fragment) (p : Pos) : (finishMeeting s w f p).linkCounts = s.linkCounts := rfl
@[simp] theorem finishMeeting_linkWindow (s : State) (w : Warp) (f : Fragment) (p : Pos) : (finishMeeting s w f p).linkWindow = s.linkWindow := rfl
@[simp] theorem finishMeeting_linkActive (s : State) (w : Warp) (f : Fragment) (p : Pos) : (finishMeeting s w f p).linkActive = s.linkActive := rfl
@[simp] theorem finishMeeting_linkLast (s : State) (w : Warp) (f : Fragment) (p : Pos) : (finishMeeting s w f p).linkLast = s.linkLast := rfl
@[simp] theorem finishMeeting_mem (s : State) (w : Warp) (f : Fragment) (p : Pos) : (finishMeeting s w f p).mem = s.mem := rfl
@[simp] theorem finishMeeting_hostMem (s : State) (w : Warp) (f : Fragment) (p : Pos) : (finishMeeting s w f p).hostMem = s.hostMem := rfl
@[simp] theorem finishMeeting_reqs (s : State) (w : Warp) (f : Fragment) (p : Pos) : (finishMeeting s w f p).reqs = s.reqs := rfl
@[simp] theorem finishMeeting_forwards (s : State) (w : Warp) (f : Fragment) (p : Pos) : (finishMeeting s w f p).forwards = s.forwards := rfl
@[simp] theorem finishMeeting_tcache (s : State) (w : Warp) (f : Fragment) (p : Pos) : (finishMeeting s w f p).tcache = s.tcache := rfl
@[simp] theorem finishMeeting_regions (s : State) (w : Warp) (f : Fragment) (p : Pos) : (finishMeeting s w f p).regions = s.regions := rfl
@[simp] theorem finishMeeting_spaces (s : State) (w : Warp) (f : Fragment) (p : Pos) : (finishMeeting s w f p).spaces = s.spaces := rfl
@[simp] theorem finishMeeting_objects (s : State) (w : Warp) (f : Fragment) (p : Pos) : (finishMeeting s w f p).objects = s.objects := rfl
@[simp] theorem finishMeeting_ifaces (s : State) (w : Warp) (f : Fragment) (p : Pos) : (finishMeeting s w f p).ifaces = s.ifaces := rfl
@[simp] theorem finishMeeting_funcs (s : State) (w : Warp) (f : Fragment) (p : Pos) : (finishMeeting s w f p).funcs = s.funcs := rfl
@[simp] theorem finishMeeting_queues (s : State) (w : Warp) (f : Fragment) (p : Pos) : (finishMeeting s w f p).queues = s.queues := rfl
@[simp] theorem finishMeeting_pendingOps (s : State) (w : Warp) (f : Fragment) (p : Pos) : (finishMeeting s w f p).pendingOps = s.pendingOps := rfl
@[simp] theorem finishMeeting_launches (s : State) (w : Warp) (f : Fragment) (p : Pos) : (finishMeeting s w f p).launches = s.launches := rfl
@[simp] theorem finishMeeting_units (s : State) (w : Warp) (f : Fragment) (p : Pos) : (finishMeeting s w f p).units = s.units := rfl
@[simp] theorem finishMeeting_saved (s : State) (w : Warp) (f : Fragment) (p : Pos) : (finishMeeting s w f p).saved = s.saved := rfl
@[simp] theorem finishMeeting_runCounts (s : State) (w : Warp) (f : Fragment) (p : Pos) : (finishMeeting s w f p).runCounts = s.runCounts := rfl
@[simp] theorem finishMeeting_copyCtxs (s : State) (w : Warp) (f : Fragment) (p : Pos) : (finishMeeting s w f p).copyCtxs = s.copyCtxs := rfl
@[simp] theorem finishMeeting_copyOps (s : State) (w : Warp) (f : Fragment) (p : Pos) : (finishMeeting s w f p).copyOps = s.copyOps := rfl
@[simp] theorem finishMeeting_tags (s : State) (w : Warp) (f : Fragment) (p : Pos) : (finishMeeting s w f p).tags = s.tags := rfl
@[simp] theorem finishMeeting_collCtxs (s : State) (w : Warp) (f : Fragment) (p : Pos) : (finishMeeting s w f p).collCtxs = s.collCtxs := rfl
@[simp] theorem finishMeeting_collOps (s : State) (w : Warp) (f : Fragment) (p : Pos) : (finishMeeting s w f p).collOps = s.collOps := rfl
@[simp] theorem finishMeeting_matrix (s : State) (w : Warp) (f : Fragment) (p : Pos) : (finishMeeting s w f p).matrix = s.matrix := rfl
@[simp] theorem finishMeeting_ranges (s : State) (w : Warp) (f : Fragment) (p : Pos) : (finishMeeting s w f p).ranges = s.ranges := rfl
@[simp] theorem finishMeeting_debugSignals (s : State) (w : Warp) (f : Fragment) (p : Pos) : (finishMeeting s w f p).debugSignals = s.debugSignals := rfl
@[simp] theorem finishMeeting_barAnswer (s : State) (w : Warp) (f : Fragment) (p : Pos) : (finishMeeting s w f p).barAnswer = s.barAnswer := rfl
@[simp] theorem finishMeeting_mgmt (s : State) (w : Warp) (f : Fragment) (p : Pos) : (finishMeeting s w f p).mgmt = s.mgmt := rfl

/-! ### Writing the registers of a warp -/

@[simp] theorem setFrag_core (w : Warp) (f : Fragment) : (w.setFrag f).core = w.core := rfl
@[simp] theorem setFrag_slot (w : Warp) (f : Fragment) : (w.setFrag f).slot = w.slot := rfl
@[simp] theorem setFrag_block (w : Warp) (f : Fragment) : (w.setFrag f).block = w.block := rfl
@[simp] theorem setFrag_inBlock (w : Warp) (f : Fragment) : (w.setFrag f).inBlock = w.inBlock := rfl
@[simp] theorem setFrag_g (w : Warp) (f : Fragment) : (w.setFrag f).g = w.g := rfl
@[simp] theorem setFrag_s (w : Warp) (f : Fragment) : (w.setFrag f).s = w.s := rfl
@[simp] theorem setFrag_p (w : Warp) (f : Fragment) : (w.setFrag f).p = w.p := rfl
@[simp] theorem setFrag_gPresent (w : Warp) (f : Fragment) : (w.setFrag f).gPresent = w.gPresent := rfl
@[simp] theorem setFrag_sPresent (w : Warp) (f : Fragment) : (w.setFrag f).sPresent = w.sPresent := rfl
@[simp] theorem setFrag_pPresent (w : Warp) (f : Fragment) : (w.setFrag f).pPresent = w.pPresent := rfl
@[simp] theorem setFrag_j (w : Warp) (f : Fragment) : (w.setFrag f).j = w.j := rfl
@[simp] theorem setFrag_acc (w : Warp) (f : Fragment) : (w.setFrag f).acc = w.acc := rfl
@[simp] theorem setFrag_retired (w : Warp) (f : Fragment) : (w.setFrag f).retired = w.retired := rfl
@[simp] theorem setFrag_returns (w : Warp) (f : Fragment) : (w.setFrag f).returns = w.returns := rfl
@[simp] theorem setFrag_deferred (w : Warp) (f : Fragment) : (w.setFrag f).deferred = w.deferred := rfl
@[simp] theorem setFrag_fpstat (w : Warp) (f : Fragment) : (w.setFrag f).fpstat = w.fpstat := rfl
@[simp] theorem setFrag_fpen (w : Warp) (f : Fragment) : (w.setFrag f).fpen = w.fpen := rfl
@[simp] theorem setFrag_fptrig (w : Warp) (f : Fragment) : (w.setFrag f).fptrig = w.fptrig := rfl
@[simp] theorem setFrag_trapVec (w : Warp) (f : Fragment) : (w.setFrag f).trapVec = w.trapVec := rfl
@[simp] theorem setFrag_foldCtl (w : Warp) (f : Fragment) : (w.setFrag f).foldCtl = w.foldCtl := rfl
@[simp] theorem setFrag_exh (w : Warp) (f : Fragment) : (w.setFrag f).exh = w.exh := rfl
@[simp] theorem setFrag_loop (w : Warp) (f : Fragment) : (w.setFrag f).loop = w.loop := rfl
@[simp] theorem setFrag_mxStat (w : Warp) (f : Fragment) : (w.setFrag f).mxStat = w.mxStat := rfl
@[simp] theorem setFrag_mxSteps (w : Warp) (f : Fragment) : (w.setFrag f).mxSteps = w.mxSteps := rfl
@[simp] theorem setFrag_mxAudCfg (w : Warp) (f : Fragment) : (w.setFrag f).mxAudCfg = w.mxAudCfg := rfl
@[simp] theorem setFrag_mxAudRing (w : Warp) (f : Fragment) : (w.setFrag f).mxAudRing = w.mxAudRing := rfl
@[simp] theorem setFrag_mxAudSeq (w : Warp) (f : Fragment) : (w.setFrag f).mxAudSeq = w.mxAudSeq := rfl
@[simp] theorem setFrag_copyLast (w : Warp) (f : Fragment) : (w.setFrag f).copyLast = w.copyLast := rfl
@[simp] theorem setFrag_collLast (w : Warp) (f : Fragment) : (w.setFrag f).collLast = w.collLast := rfl
@[simp] theorem setFrag_preTaken (w : Warp) (f : Fragment) : (w.setFrag f).preTaken = w.preTaken := rfl
@[simp] theorem setFrag_preMaps (w : Warp) (f : Fragment) : (w.setFrag f).preMaps = w.preMaps := rfl
@[simp] theorem setFrag_preFull (w : Warp) (f : Fragment) : (w.setFrag f).preFull = w.preFull := rfl
@[simp] theorem setFrag_nextUid (w : Warp) (f : Fragment) : (w.setFrag f).nextUid = w.nextUid := rfl

@[simp] theorem writeS_core (w : Warp) (r : Fin 32) (v : W64) : (w.writeS r v).core = w.core := rfl
@[simp] theorem writeS_slot (w : Warp) (r : Fin 32) (v : W64) : (w.writeS r v).slot = w.slot := rfl
@[simp] theorem writeS_block (w : Warp) (r : Fin 32) (v : W64) : (w.writeS r v).block = w.block := rfl
@[simp] theorem writeS_inBlock (w : Warp) (r : Fin 32) (v : W64) : (w.writeS r v).inBlock = w.inBlock := rfl
@[simp] theorem writeS_g (w : Warp) (r : Fin 32) (v : W64) : (w.writeS r v).g = w.g := rfl
@[simp] theorem writeS_p (w : Warp) (r : Fin 32) (v : W64) : (w.writeS r v).p = w.p := rfl
@[simp] theorem writeS_gPresent (w : Warp) (r : Fin 32) (v : W64) : (w.writeS r v).gPresent = w.gPresent := rfl
@[simp] theorem writeS_pPresent (w : Warp) (r : Fin 32) (v : W64) : (w.writeS r v).pPresent = w.pPresent := rfl
@[simp] theorem writeS_j (w : Warp) (r : Fin 32) (v : W64) : (w.writeS r v).j = w.j := rfl
@[simp] theorem writeS_acc (w : Warp) (r : Fin 32) (v : W64) : (w.writeS r v).acc = w.acc := rfl
@[simp] theorem writeS_retired (w : Warp) (r : Fin 32) (v : W64) : (w.writeS r v).retired = w.retired := rfl
@[simp] theorem writeS_returns (w : Warp) (r : Fin 32) (v : W64) : (w.writeS r v).returns = w.returns := rfl
@[simp] theorem writeS_deferred (w : Warp) (r : Fin 32) (v : W64) : (w.writeS r v).deferred = w.deferred := rfl
@[simp] theorem writeS_frags (w : Warp) (r : Fin 32) (v : W64) : (w.writeS r v).frags = w.frags := rfl
@[simp] theorem writeS_fpstat (w : Warp) (r : Fin 32) (v : W64) : (w.writeS r v).fpstat = w.fpstat := rfl
@[simp] theorem writeS_fpen (w : Warp) (r : Fin 32) (v : W64) : (w.writeS r v).fpen = w.fpen := rfl
@[simp] theorem writeS_fptrig (w : Warp) (r : Fin 32) (v : W64) : (w.writeS r v).fptrig = w.fptrig := rfl
@[simp] theorem writeS_trapVec (w : Warp) (r : Fin 32) (v : W64) : (w.writeS r v).trapVec = w.trapVec := rfl
@[simp] theorem writeS_foldCtl (w : Warp) (r : Fin 32) (v : W64) : (w.writeS r v).foldCtl = w.foldCtl := rfl
@[simp] theorem writeS_exh (w : Warp) (r : Fin 32) (v : W64) : (w.writeS r v).exh = w.exh := rfl
@[simp] theorem writeS_loop (w : Warp) (r : Fin 32) (v : W64) : (w.writeS r v).loop = w.loop := rfl
@[simp] theorem writeS_mxStat (w : Warp) (r : Fin 32) (v : W64) : (w.writeS r v).mxStat = w.mxStat := rfl
@[simp] theorem writeS_mxSteps (w : Warp) (r : Fin 32) (v : W64) : (w.writeS r v).mxSteps = w.mxSteps := rfl
@[simp] theorem writeS_mxAudCfg (w : Warp) (r : Fin 32) (v : W64) : (w.writeS r v).mxAudCfg = w.mxAudCfg := rfl
@[simp] theorem writeS_mxAudRing (w : Warp) (r : Fin 32) (v : W64) : (w.writeS r v).mxAudRing = w.mxAudRing := rfl
@[simp] theorem writeS_mxAudSeq (w : Warp) (r : Fin 32) (v : W64) : (w.writeS r v).mxAudSeq = w.mxAudSeq := rfl
@[simp] theorem writeS_copyLast (w : Warp) (r : Fin 32) (v : W64) : (w.writeS r v).copyLast = w.copyLast := rfl
@[simp] theorem writeS_collLast (w : Warp) (r : Fin 32) (v : W64) : (w.writeS r v).collLast = w.collLast := rfl
@[simp] theorem writeS_preTaken (w : Warp) (r : Fin 32) (v : W64) : (w.writeS r v).preTaken = w.preTaken := rfl
@[simp] theorem writeS_preMaps (w : Warp) (r : Fin 32) (v : W64) : (w.writeS r v).preMaps = w.preMaps := rfl
@[simp] theorem writeS_preFull (w : Warp) (r : Fin 32) (v : W64) : (w.writeS r v).preFull = w.preFull := rfl
@[simp] theorem writeS_nextUid (w : Warp) (r : Fin 32) (v : W64) : (w.writeS r v).nextUid = w.nextUid := rfl

@[simp] theorem writeP_core (w : Warp) (r : Fin 8) (m v : Mask) : (w.writeP r m v).core = w.core := rfl
@[simp] theorem writeP_slot (w : Warp) (r : Fin 8) (m v : Mask) : (w.writeP r m v).slot = w.slot := rfl
@[simp] theorem writeP_block (w : Warp) (r : Fin 8) (m v : Mask) : (w.writeP r m v).block = w.block := rfl
@[simp] theorem writeP_inBlock (w : Warp) (r : Fin 8) (m v : Mask) : (w.writeP r m v).inBlock = w.inBlock := rfl
@[simp] theorem writeP_g (w : Warp) (r : Fin 8) (m v : Mask) : (w.writeP r m v).g = w.g := rfl
@[simp] theorem writeP_s (w : Warp) (r : Fin 8) (m v : Mask) : (w.writeP r m v).s = w.s := rfl
@[simp] theorem writeP_gPresent (w : Warp) (r : Fin 8) (m v : Mask) : (w.writeP r m v).gPresent = w.gPresent := rfl
@[simp] theorem writeP_sPresent (w : Warp) (r : Fin 8) (m v : Mask) : (w.writeP r m v).sPresent = w.sPresent := rfl
@[simp] theorem writeP_pPresent (w : Warp) (r : Fin 8) (m v : Mask) : (w.writeP r m v).pPresent = w.pPresent := rfl
@[simp] theorem writeP_j (w : Warp) (r : Fin 8) (m v : Mask) : (w.writeP r m v).j = w.j := rfl
@[simp] theorem writeP_acc (w : Warp) (r : Fin 8) (m v : Mask) : (w.writeP r m v).acc = w.acc := rfl
@[simp] theorem writeP_retired (w : Warp) (r : Fin 8) (m v : Mask) : (w.writeP r m v).retired = w.retired := rfl
@[simp] theorem writeP_returns (w : Warp) (r : Fin 8) (m v : Mask) : (w.writeP r m v).returns = w.returns := rfl
@[simp] theorem writeP_deferred (w : Warp) (r : Fin 8) (m v : Mask) : (w.writeP r m v).deferred = w.deferred := rfl
@[simp] theorem writeP_frags (w : Warp) (r : Fin 8) (m v : Mask) : (w.writeP r m v).frags = w.frags := rfl
@[simp] theorem writeP_fpstat (w : Warp) (r : Fin 8) (m v : Mask) : (w.writeP r m v).fpstat = w.fpstat := rfl
@[simp] theorem writeP_fpen (w : Warp) (r : Fin 8) (m v : Mask) : (w.writeP r m v).fpen = w.fpen := rfl
@[simp] theorem writeP_fptrig (w : Warp) (r : Fin 8) (m v : Mask) : (w.writeP r m v).fptrig = w.fptrig := rfl
@[simp] theorem writeP_trapVec (w : Warp) (r : Fin 8) (m v : Mask) : (w.writeP r m v).trapVec = w.trapVec := rfl
@[simp] theorem writeP_foldCtl (w : Warp) (r : Fin 8) (m v : Mask) : (w.writeP r m v).foldCtl = w.foldCtl := rfl
@[simp] theorem writeP_exh (w : Warp) (r : Fin 8) (m v : Mask) : (w.writeP r m v).exh = w.exh := rfl
@[simp] theorem writeP_loop (w : Warp) (r : Fin 8) (m v : Mask) : (w.writeP r m v).loop = w.loop := rfl
@[simp] theorem writeP_mxStat (w : Warp) (r : Fin 8) (m v : Mask) : (w.writeP r m v).mxStat = w.mxStat := rfl
@[simp] theorem writeP_mxSteps (w : Warp) (r : Fin 8) (m v : Mask) : (w.writeP r m v).mxSteps = w.mxSteps := rfl
@[simp] theorem writeP_mxAudCfg (w : Warp) (r : Fin 8) (m v : Mask) : (w.writeP r m v).mxAudCfg = w.mxAudCfg := rfl
@[simp] theorem writeP_mxAudRing (w : Warp) (r : Fin 8) (m v : Mask) : (w.writeP r m v).mxAudRing = w.mxAudRing := rfl
@[simp] theorem writeP_mxAudSeq (w : Warp) (r : Fin 8) (m v : Mask) : (w.writeP r m v).mxAudSeq = w.mxAudSeq := rfl
@[simp] theorem writeP_copyLast (w : Warp) (r : Fin 8) (m v : Mask) : (w.writeP r m v).copyLast = w.copyLast := rfl
@[simp] theorem writeP_collLast (w : Warp) (r : Fin 8) (m v : Mask) : (w.writeP r m v).collLast = w.collLast := rfl
@[simp] theorem writeP_preTaken (w : Warp) (r : Fin 8) (m v : Mask) : (w.writeP r m v).preTaken = w.preTaken := rfl
@[simp] theorem writeP_preMaps (w : Warp) (r : Fin 8) (m v : Mask) : (w.writeP r m v).preMaps = w.preMaps := rfl
@[simp] theorem writeP_preFull (w : Warp) (r : Fin 8) (m v : Mask) : (w.writeP r m v).preFull = w.preFull := rfl
@[simp] theorem writeP_nextUid (w : Warp) (r : Fin 8) (m v : Mask) : (w.writeP r m v).nextUid = w.nextUid := rfl

@[simp] theorem writeAcc_core (w : Warp) (a : Fin 8) (m : Mask) (v : Fin 32 → W64) : (w.writeAcc a m v).core = w.core := rfl
@[simp] theorem writeAcc_slot (w : Warp) (a : Fin 8) (m : Mask) (v : Fin 32 → W64) : (w.writeAcc a m v).slot = w.slot := rfl
@[simp] theorem writeAcc_block (w : Warp) (a : Fin 8) (m : Mask) (v : Fin 32 → W64) : (w.writeAcc a m v).block = w.block := rfl
@[simp] theorem writeAcc_inBlock (w : Warp) (a : Fin 8) (m : Mask) (v : Fin 32 → W64) : (w.writeAcc a m v).inBlock = w.inBlock := rfl
@[simp] theorem writeAcc_g (w : Warp) (a : Fin 8) (m : Mask) (v : Fin 32 → W64) : (w.writeAcc a m v).g = w.g := rfl
@[simp] theorem writeAcc_s (w : Warp) (a : Fin 8) (m : Mask) (v : Fin 32 → W64) : (w.writeAcc a m v).s = w.s := rfl
@[simp] theorem writeAcc_p (w : Warp) (a : Fin 8) (m : Mask) (v : Fin 32 → W64) : (w.writeAcc a m v).p = w.p := rfl
@[simp] theorem writeAcc_gPresent (w : Warp) (a : Fin 8) (m : Mask) (v : Fin 32 → W64) : (w.writeAcc a m v).gPresent = w.gPresent := rfl
@[simp] theorem writeAcc_sPresent (w : Warp) (a : Fin 8) (m : Mask) (v : Fin 32 → W64) : (w.writeAcc a m v).sPresent = w.sPresent := rfl
@[simp] theorem writeAcc_pPresent (w : Warp) (a : Fin 8) (m : Mask) (v : Fin 32 → W64) : (w.writeAcc a m v).pPresent = w.pPresent := rfl
@[simp] theorem writeAcc_j (w : Warp) (a : Fin 8) (m : Mask) (v : Fin 32 → W64) : (w.writeAcc a m v).j = w.j := rfl
@[simp] theorem writeAcc_retired (w : Warp) (a : Fin 8) (m : Mask) (v : Fin 32 → W64) : (w.writeAcc a m v).retired = w.retired := rfl
@[simp] theorem writeAcc_returns (w : Warp) (a : Fin 8) (m : Mask) (v : Fin 32 → W64) : (w.writeAcc a m v).returns = w.returns := rfl
@[simp] theorem writeAcc_deferred (w : Warp) (a : Fin 8) (m : Mask) (v : Fin 32 → W64) : (w.writeAcc a m v).deferred = w.deferred := rfl
@[simp] theorem writeAcc_frags (w : Warp) (a : Fin 8) (m : Mask) (v : Fin 32 → W64) : (w.writeAcc a m v).frags = w.frags := rfl
@[simp] theorem writeAcc_fpstat (w : Warp) (a : Fin 8) (m : Mask) (v : Fin 32 → W64) : (w.writeAcc a m v).fpstat = w.fpstat := rfl
@[simp] theorem writeAcc_fpen (w : Warp) (a : Fin 8) (m : Mask) (v : Fin 32 → W64) : (w.writeAcc a m v).fpen = w.fpen := rfl
@[simp] theorem writeAcc_fptrig (w : Warp) (a : Fin 8) (m : Mask) (v : Fin 32 → W64) : (w.writeAcc a m v).fptrig = w.fptrig := rfl
@[simp] theorem writeAcc_trapVec (w : Warp) (a : Fin 8) (m : Mask) (v : Fin 32 → W64) : (w.writeAcc a m v).trapVec = w.trapVec := rfl
@[simp] theorem writeAcc_foldCtl (w : Warp) (a : Fin 8) (m : Mask) (v : Fin 32 → W64) : (w.writeAcc a m v).foldCtl = w.foldCtl := rfl
@[simp] theorem writeAcc_exh (w : Warp) (a : Fin 8) (m : Mask) (v : Fin 32 → W64) : (w.writeAcc a m v).exh = w.exh := rfl
@[simp] theorem writeAcc_loop (w : Warp) (a : Fin 8) (m : Mask) (v : Fin 32 → W64) : (w.writeAcc a m v).loop = w.loop := rfl
@[simp] theorem writeAcc_mxStat (w : Warp) (a : Fin 8) (m : Mask) (v : Fin 32 → W64) : (w.writeAcc a m v).mxStat = w.mxStat := rfl
@[simp] theorem writeAcc_mxSteps (w : Warp) (a : Fin 8) (m : Mask) (v : Fin 32 → W64) : (w.writeAcc a m v).mxSteps = w.mxSteps := rfl
@[simp] theorem writeAcc_mxAudCfg (w : Warp) (a : Fin 8) (m : Mask) (v : Fin 32 → W64) : (w.writeAcc a m v).mxAudCfg = w.mxAudCfg := rfl
@[simp] theorem writeAcc_mxAudRing (w : Warp) (a : Fin 8) (m : Mask) (v : Fin 32 → W64) : (w.writeAcc a m v).mxAudRing = w.mxAudRing := rfl
@[simp] theorem writeAcc_mxAudSeq (w : Warp) (a : Fin 8) (m : Mask) (v : Fin 32 → W64) : (w.writeAcc a m v).mxAudSeq = w.mxAudSeq := rfl
@[simp] theorem writeAcc_copyLast (w : Warp) (a : Fin 8) (m : Mask) (v : Fin 32 → W64) : (w.writeAcc a m v).copyLast = w.copyLast := rfl
@[simp] theorem writeAcc_collLast (w : Warp) (a : Fin 8) (m : Mask) (v : Fin 32 → W64) : (w.writeAcc a m v).collLast = w.collLast := rfl
@[simp] theorem writeAcc_preTaken (w : Warp) (a : Fin 8) (m : Mask) (v : Fin 32 → W64) : (w.writeAcc a m v).preTaken = w.preTaken := rfl
@[simp] theorem writeAcc_preMaps (w : Warp) (a : Fin 8) (m : Mask) (v : Fin 32 → W64) : (w.writeAcc a m v).preMaps = w.preMaps := rfl
@[simp] theorem writeAcc_preFull (w : Warp) (a : Fin 8) (m : Mask) (v : Fin 32 → W64) : (w.writeAcc a m v).preFull = w.preFull := rfl
@[simp] theorem writeAcc_nextUid (w : Warp) (a : Fin 8) (m : Mask) (v : Fin 32 → W64) : (w.writeAcc a m v).nextUid = w.nextUid := rfl

/-! ### The fragment when a strand instruction completes -/

@[simp] theorem strandDone_uid (f : Fragment) (k : Fin 8) (p n : Pos) : (f.strandDone k p n).uid = f.uid := rfl
@[simp] theorem strandDone_entry (f : Fragment) (k : Fin 8) (p n : Pos) : (f.strandDone k p n).entry = f.entry := rfl
@[simp] theorem strandDone_lanes (f : Fragment) (k : Fin 8) (p n : Pos) : (f.strandDone k p n).lanes = f.lanes := rfl
@[simp] theorem strandDone_status (f : Fragment) (k : Fin 8) (p n : Pos) : (f.strandDone k p n).status = f.status := rfl
@[simp] theorem strandDone_fetchPC (f : Fragment) (k : Fin 8) (p n : Pos) : (f.strandDone k p n).fetchPC = f.fetchPC := rfl
@[simp] theorem strandDone_fencePC (f : Fragment) (k : Fin 8) (p n : Pos) : (f.strandDone k p n).fencePC = f.fencePC := rfl
@[simp] theorem strandDone_pblk (f : Fragment) (k : Fin 8) (p n : Pos) : (f.strandDone k p n).pblk = f.pblk := rfl
@[simp] theorem strandDone_covIdx (f : Fragment) (k : Fin 8) (p n : Pos) : (f.strandDone k p n).covIdx = f.covIdx := rfl
@[simp] theorem strandDone_causes (f : Fragment) (k : Fin 8) (p n : Pos) : (f.strandDone k p n).causes = f.causes := rfl
@[simp] theorem strandDone_origin (f : Fragment) (k : Fin 8) (p n : Pos) : (f.strandDone k p n).origin = f.origin := rfl
@[simp] theorem strandDone_links (f : Fragment) (k : Fin 8) (p n : Pos) : (f.strandDone k p n).links = f.links := rfl
@[simp] theorem strandDone_handler (f : Fragment) (k : Fin 8) (p n : Pos) : (f.strandDone k p n).handler = f.handler := rfl
@[simp] theorem strandDone_frame (f : Fragment) (k : Fin 8) (p n : Pos) : (f.strandDone k p n).frame = f.frame := rfl
@[simp] theorem strandDone_info (f : Fragment) (k : Fin 8) (p n : Pos) : (f.strandDone k p n).info = f.info := rfl
@[simp] theorem strandDone_trapPending (f : Fragment) (k : Fin 8) (p n : Pos) : (f.strandDone k p n).trapPending = f.trapPending := rfl
@[simp] theorem strandDone_arrivedAt (f : Fragment) (k : Fin 8) (p n : Pos) : (f.strandDone k p n).arrivedAt = f.arrivedAt := rfl
@[simp] theorem strandDone_runLen (f : Fragment) (k : Fin 8) (p n : Pos) : (f.strandDone k p n).runLen = f.runLen := rfl
@[simp] theorem strandDone_age (f : Fragment) (k : Fin 8) (p n : Pos) : (f.strandDone k p n).age = f.age := rfl
@[simp] theorem strandDone_due (f : Fragment) (k : Fin 8) (p n : Pos) : (f.strandDone k p n).due = f.due := rfl
@[simp] theorem strandDone_ringSeq (f : Fragment) (k : Fin 8) (p n : Pos) : (f.strandDone k p n).ringSeq = f.ringSeq := rfl
@[simp] theorem strandDone_lostAcks (f : Fragment) (k : Fin 8) (p n : Pos) : (f.strandDone k p n).lostAcks = f.lostAcks := rfl
@[simp] theorem strandDone_stntFaults (f : Fragment) (k : Fin 8) (p n : Pos) : (f.strandDone k p n).stntFaults = f.stntFaults := rfl
@[simp] theorem strandDone_noEntrySince (f : Fragment) (k : Fin 8) (p n : Pos) : (f.strandDone k p n).noEntrySince = f.noEntrySince := rfl

end Sys2Proof.Machine
end

