-- ==== Sys2Proof/Laws/Focus.lean ====
section
/-!
SUPPORT. Finding a warp and a fragment: what focus? answers once a warp and a fragment have been put back, and what
onFocus answers where the cursor names a fragment.
-/

namespace Sys2Proof.Machine

open Sys2Proof

/-- Replacing every element that satisfies a test by one that satisfies it leaves that one to be found. -/
theorem find_replaceAll {α : Type} {p : α → Bool} {y : α} (hy : p y = true) {xs : List α} {x : α}
    (h : xs.find? p = some x) : (replaceAll p (fun _ => y) xs).find? p = some y := by
  induction xs with
  | nil => simp at h
  | cons a as ih =>
    by_cases ha : p a = true
    · simp [replaceAll, ha, hy]
    · have hn : p a = false := by simpa using ha
      rw [List.find?_cons_of_neg (by simp [hn])] at h
      have := ih h
      simpa [replaceAll, hn] using this

theorem sameWarp_self (w : Warp) : sameWarp w.core w.slot w = true := by simp [sameWarp]

theorem sameWarp_iff {c n : Nat} {w : Warp} : sameWarp c n w = true ↔ w.core = c ∧ w.slot = n := by
  simp [sameWarp]

/-- The warp that a lookup finds stands where it was looked for. -/
theorem warp_found {s : State} {c n : Nat} {w : Warp} (h : s.warp? c n = some w) : w.core = c ∧ w.slot = n :=
  sameWarp_iff.1 (List.find?_some h)

/-- The fragment that a lookup finds has the identity that was looked for. -/
theorem frag_found {w : Warp} {u : Nat} {f : Fragment} (h : w.frag? u = some f) : f.uid = u := by
  simpa using List.find?_some h

/-- A resident warp put back is found in its slot. -/
theorem setWarp_warp {s : State} {v w : Warp} {c n : Nat} (h : s.warp? c n = some v) (hc : w.core = c)
    (hn : w.slot = n) : (s.setWarp w).warp? c n = some w := by
  subst hc hn
  exact find_replaceAll (sameWarp_self w) h

/-- A fragment of a warp put back is found. -/
theorem setFrag_frag {w : Warp} {f g : Fragment} {u : Nat} (h : w.frag? u = some g) (hu : f.uid = u) :
    (w.setFrag f).frag? u = some f := by
  subst hu
  exact find_replaceAll (p := fun x : Fragment => x.uid == f.uid) (by simp) h

/-- A warp and one of its fragments put back are found. -/
theorem put_warp {s : State} {v w : Warp} {f : Fragment} {c n : Nat} (h : s.warp? c n = some v) (hc : w.core = c)
    (hn : w.slot = n) : (put s w f).warp? c n = some (w.setFrag f) :=
  setWarp_warp h hc hn

/-- What focus? answers, taken apart. -/
theorem focus_eq {s : State} {x : Focus} (h : s.focus? = some x) :
    s.cursor = some x.c ∧ s.warp? x.c.core x.c.slot = some x.w ∧ x.w.frag? x.c.uid = some x.f := by
  unfold State.focus? at h
  split at h
  · cases h
  · rename_i c hc
    split at h
    · cases h
    · rename_i w hw
      split at h
      · cases h
      · rename_i f hf
        cases h
        exact ⟨hc, hw, hf⟩

/-- focus? from its parts. -/
theorem focus_of {s : State} {c : Cursor} {w : Warp} {f : Fragment} (hc : s.cursor = some c)
    (hw : s.warp? c.core c.slot = some w) (hf : w.frag? c.uid = some f) : s.focus? = some ⟨c, w, f⟩ := by
  simp [State.focus?, hc, hw, hf]

/-- The executing warp and fragment put back are the executing ones, whatever registers were written. -/
theorem put_focus {s : State} {x : Focus} (h : s.focus? = some x) {w : Warp} {f : Fragment}
    (hc : w.core = x.w.core) (hn : w.slot = x.w.slot) (hf : w.frags = x.w.frags) (hu : f.uid = x.f.uid) :
    (put s w f).focus? = some ⟨x.c, w.setFrag f, f⟩ := by
  obtain ⟨h1, h2, h3⟩ := focus_eq h
  obtain ⟨h4, h5⟩ := warp_found h2
  refine focus_of (by simpa using h1) (put_warp h2 (hc.trans h4) (hn.trans h5)) ?_
  refine setFrag_frag (g := x.f) ?_ (hu.trans (frag_found h3))
  simpa [Warp.frag?, hf] using h3

/-- The meaning of an instruction of a fragment goes on where the cursor names one. -/
theorem onFocus_next {s : State} {x : Focus} (h : s.focus? = some x) (k : Focus → State) :
    onFocus s k = .next (k x) := by
  simp [onFocus, h]

/-- A strand instruction that is well-formed, and whose guard does not meet a cover, takes its effect. -/
theorem strandInstr_next {s : State} {x : Focus} (h : s.focus? = some x) {i : Instr} (hi : i.wf = true)
    {grd : Option Guard} (hg : x.c.covered = false ∨ grd = none) (k : Fin 8) (eff : Focus → Mask → State) :
    strandInstr i k grd s eff = .next (eff x (activeLanes x grd)) := by
  rw [strandInstr, onFocus_next h]
  rcases hg with hg | hg <;> simp [hi, hg]

/-- A meeting instruction that is well-formed and not covered takes its effect. -/
theorem meetInstr_next {s : State} {x : Focus} (h : s.focus? = some x) {i : Instr} (hi : i.wf = true)
    (hc : x.c.covered = false) (eff : Focus → State) : meetInstr i s eff = .next (eff x) := by
  rw [meetInstr, onFocus_next h]
  simp [hi, hc]

end Sys2Proof.Machine
end

