-- ==== Sys2Proof/Laws/Memory.lean ====
section
/-!
SUPPORT. The canonical form of byte lists: every write keeps it, a read after a write gives what was written there, and every
other address reads as before.
-/

namespace Sys2Proof.Machine

open Sys2Proof

theorem cellsFrom_mono {lo lo' : Nat} (hl : lo' ≤ lo) {cs : List Host.Cell} (h : cellsFrom lo cs = true) :
    cellsFrom lo' cs = true := by
  cases cs with
  | nil => rfl
  | cons c cs =>
    obtain ⟨k, v⟩ := c
    simp only [cellsFrom, Bool.and_eq_true, decide_eq_true_eq] at h ⊢
    exact ⟨⟨by omega, h.1.2⟩, h.2⟩

theorem cellWrite_from {lo a : Nat} {b : Byte} (ha : lo ≤ a) {cs : List Host.Cell} (h : cellsFrom lo cs = true) :
    cellsFrom lo (cellWrite cs a b) = true := by
  induction cs generalizing lo with
  | nil => by_cases hb : b = 0#8 <;> simp [cellWrite, cellsFrom, hb, ha]
  | cons c cs ih =>
    obtain ⟨k, v⟩ := c
    have h' := h
    simp only [cellsFrom, Bool.and_eq_true, decide_eq_true_eq] at h
    obtain ⟨⟨h1, h2⟩, h3⟩ := h
    simp only [cellWrite]
    split
    · by_cases hb : b = 0#8
      · simp [hb, h']
      · rename_i hlt; simpa [hb, cellsFrom, ha, h3, Nat.succ_le_of_lt hlt] using h2
    · split
      · rename_i hk
        have hk : k = a := by simpa using hk
        by_cases hb : b = 0#8
        · simp only [hb]; exact cellsFrom_mono (by omega) h3
        · subst hk; simp [hb, cellsFrom, h1, h3]
      · simp only [cellsFrom, Bool.and_eq_true, decide_eq_true_eq]
        refine ⟨⟨h1, h2⟩, ih ?_ h3⟩
        rename_i hlt hk
        have hk : ¬ k = a := by simpa using hk
        omega

/-- A byte written keeps the canonical form. -/
theorem cellWrite_wf {cs : List Host.Cell} (h : cellsWf cs = true) (a : Nat) (b : Byte) :
    cellsWf (cellWrite cs a b) = true := cellWrite_from (Nat.zero_le a) h

/-- Bytes written keep the canonical form. -/
theorem cellWrites_wf {cs : List Host.Cell} (h : cellsWf cs = true) (a : Nat) (bs : List Byte) :
    cellsWf (cellWrites cs a bs) = true := by
  induction bs generalizing cs a with
  | nil => exact h
  | cons b bs ih => exact ih (cellWrite_wf h a b) (a + 1)

theorem cellRead_below {lo a : Nat} (ha : a < lo) {cs : List Host.Cell} (h : cellsFrom lo cs = true) :
    cellRead cs a = 0 := by
  induction cs generalizing lo with
  | nil => rfl
  | cons c cs ih =>
    obtain ⟨k, v⟩ := c
    simp only [cellsFrom, Bool.and_eq_true, decide_eq_true_eq] at h
    have hk : ¬ k = a := by omega
    simp only [cellRead, beq_iff_eq, hk, if_false]
    exact ih (lo := k + 1) (by omega) h.2

theorem cellRead_write_from {lo : Nat} {cs : List Host.Cell} (h : cellsFrom lo cs = true) (a c : Nat) (b : Byte) :
    cellRead (cellWrite cs a b) c = if c = a then b else cellRead cs c := by
  induction cs generalizing lo with
  | nil =>
    by_cases hb : b = 0#8
    · simp [cellWrite, cellRead, hb]
    · by_cases hc : c = a
      · simp [cellWrite, cellRead, hb, hc]
      · simp [cellWrite, cellRead, hb, hc, Ne.symm hc]
  | cons x cs ih =>
    obtain ⟨k, v⟩ := x
    have h' := h
    simp only [cellsFrom, Bool.and_eq_true, decide_eq_true_eq] at h
    obtain ⟨⟨h1, h2⟩, h3⟩ := h
    simp only [cellWrite]
    split
    · rename_i hlt
      by_cases hb : b = 0#8
      · by_cases hc : c = a
        · subst hc
          simp only [hb]
          exact cellRead_below (lo := k) hlt (by simpa [cellsFrom, h3] using h2)
        · simp [hb, hc]
      · by_cases hc : c = a
        · simp [hb, hc, cellRead]
        · simp [hb, hc, cellRead, Ne.symm hc]
    · split
      · rename_i hk
        have hk : k = a := by simpa using hk
        subst hk
        by_cases hb : b = 0#8
        · by_cases hc : c = k
          · subst hc
            simp only [hb]
            exact cellRead_below (lo := c + 1) (by omega) h3
          · simp [hb, hc, cellRead, Ne.symm hc]
        · by_cases hc : c = k
          · simp [hb, hc, cellRead]
          · simp [hb, hc, cellRead, Ne.symm hc]
      · rename_i hk
        have hk : ¬ k = a := by simpa using hk
        by_cases hc : c = k
        · subst hc
          simp [cellRead, hk]
        · simp only [cellRead, beq_iff_eq, Ne.symm hc, if_false]
          exact ih h3

/-- A read after a write of one byte. -/
theorem cellRead_write {cs : List Host.Cell} (h : cellsWf cs = true) (a c : Nat) (b : Byte) :
    cellRead (cellWrite cs a b) c = if c = a then b else cellRead cs c := cellRead_write_from h a c b

/-- A read outside the bytes written. -/
theorem cellRead_writes_other {cs : List Host.Cell} (h : cellsWf cs = true) (a c : Nat) (bs : List Byte)
    (hc : c < a ∨ a + bs.length ≤ c) : cellRead (cellWrites cs a bs) c = cellRead cs c := by
  induction bs generalizing cs a with
  | nil => rfl
  | cons b bs ih =>
    simp only [List.length_cons] at hc
    simp only [cellWrites]
    rw [ih (cellWrite_wf h a b) (a + 1) (by omega), cellRead_write h, if_neg (by omega)]

/-- A read of a byte written. -/
theorem cellRead_writes_same {cs : List Host.Cell} (h : cellsWf cs = true) (a n : Nat) (bs : List Byte)
    (hn : n < bs.length) : cellRead (cellWrites cs a bs) (a + n) = bs[n] := by
  induction bs generalizing cs a n with
  | nil => simp at hn
  | cons b bs ih =>
    cases n with
    | zero =>
      simp only [cellWrites, Nat.add_zero, List.getElem_cons_zero]
      rw [cellRead_writes_other (cellWrite_wf h a b) (a + 1) a bs (by omega), cellRead_write h, if_pos rfl]
    | succ n =>
      simp only [cellWrites, List.getElem_cons_succ]
      have := ih (cellWrite_wf h a b) (a + 1) n (by simpa using hn)
      rw [← this]; congr 1; omega

theorem foldl_write_wf {α : Type} (a : α → Nat) (b : α → Byte) (ds : List α) {cs : List Host.Cell}
    (h : cellsWf cs = true) : cellsWf (ds.foldl (fun c d => cellWrite c (a d) (b d)) cs) = true := by
  induction ds generalizing cs with
  | nil => exact h
  | cons d ds ih => exact ih (cellWrite_wf h _ _)

/-- Memory.put keeps the canonical form. -/
theorem Memory.put_wf {m : Memory} (h : m.wf = true) (asid pa : Nat) (b : Byte) : (m.put asid pa b).wf = true :=
  cellWrite_wf h pa b

/-- Memory.puts keeps the canonical form. -/
theorem Memory.puts_wf {m : Memory} (h : m.wf = true) (asid pa : Nat) (bs : List Byte) :
    (m.puts asid pa bs).wf = true := by
  induction bs generalizing m pa with
  | nil => exact h
  | cons b bs ih => exact ih (m.put_wf h asid pa b) (pa + 1)

/-- Memory.puts writes the cells as cellWrites does. -/
theorem Memory.puts_cells (m : Memory) (asid pa : Nat) (bs : List Byte) :
    (m.puts asid pa bs).cells = cellWrites m.cells pa bs := by
  induction bs generalizing m pa with
  | nil => rfl
  | cons b bs ih => rw [Memory.puts, ih]; rfl

/-- Writing lines back keeps the canonical form. -/
theorem Memory.writeBack_wf {m : Memory} (h : m.wf = true) (p : Nat → Bool) : (m.writeBack p).1.wf = true :=
  foldl_write_wf _ _ _ h

/-- Losing lines keeps the canonical form. -/
theorem Memory.loseDirty_wf {m : Memory} (h : m.wf = true) (p : Nat → Bool) : (m.loseDirty p).1.wf = true :=
  foldl_write_wf _ _ _ h

/-- A write at the home keeps the canonical form. -/
theorem memWrite_wf {s : State} (h : s.mem.wf = true) (asid pa : Nat) (bs : List Byte) :
    (s.memWrite asid pa bs).mem.wf = true := Memory.puts_wf h asid pa bs

/-- A byte outside a write at the home reads as before. -/
theorem memWrite_other {s : State} (h : s.mem.wf = true) (asid pa c : Nat) (bs : List Byte)
    (hc : c < pa ∨ pa + bs.length ≤ c) : (s.memWrite asid pa bs).mem.byte c = s.mem.byte c := by
  simp only [State.memWrite, Memory.byte, Memory.puts_cells]
  exact cellRead_writes_other h pa c bs hc

/-- A byte of a write at the home reads as written. -/
theorem memWrite_same {s : State} (h : s.mem.wf = true) (asid pa n : Nat) (bs : List Byte) (hn : n < bs.length) :
    (s.memWrite asid pa bs).mem.byte (pa + n) = bs[n] := by
  simp only [State.memWrite, Memory.byte, Memory.puts_cells]
  exact cellRead_writes_same h pa n bs hn

/-- A write to host memory keeps the canonical form. -/
theorem hostWrite_wf {s : State} (h : cellsWf s.hostMem = true) (a : Nat) (bs : List Byte) :
    cellsWf (s.hostWrite a bs).hostMem = true := cellWrites_wf h a bs

/-- Reset memory has the canonical form. -/
theorem reset_mem_wf : State.reset.mem.wf = true ∧ cellsWf State.reset.hostMem = true := ⟨rfl, rfl⟩

end Sys2Proof.Machine
end

