-- ==== Sys2Proof/Certificates/Slice0/Obligations.lean ====
section
/-!
DEFINITION. The statements about the model, for the provers. The helper definitions restate the spec's rules in their own
terms; each statement's docstring names the rules it formalises.
-/

/-! ### Operands and results, restated from the spec -/

namespace Sys2Proof.Claims

open Sys2Proof Sys2Proof.Machine

/-- The image of a w-bit value in a vector-mode accumulator (R55, R151): an I type sign-extends to 64 bits, every other
type zero-extends. -/
def image (t : Ty) (v : BitVec t.width) : W64 := if t.isSigned then v.signExtend 64 else v.setWidth 64

/-- The low w bits of an accumulator in a lane (R181). -/
def accOf (t : Ty) (w : Warp) (k : Fin 8) (l : Fin 32) : BitVec t.width := ((w.acc[k].val)[l]).setWidth t.width

/-- A general register in a lane: the pair holds a 64-bit value, low half in the even register (R55). -/
def ofG (t : Ty) (w : Warp) (r : Fin 64) (l : Fin 32) : BitVec t.width :=
  if t.is64 then ((w.g[gPartner r])[l] ++ (w.g[r])[l]).setWidth t.width else ((w.g[r])[l]).setWidth t.width

/-- The low w bits of a scalar register (R55). -/
def ofS (t : Ty) (w : Warp) (r : Fin 32) : BitVec t.width := (w.s[r]).setWidth t.width

/-- IMM32 as an operand that is no F64 (R117): sign-extended for I64, the low w bits otherwise. -/
def ofImm (t : Ty) (v : W32) : BitVec t.width := if t.isSigned then v.signExtend t.width else v.setWidth t.width

/-- IMM15 as an integer operand (R110): sign-extended for an I type, zero-extended for an N type. -/
def ofImm15 (t : Ty) (v : BitVec 15) : BitVec t.width := if t.isSigned then v.signExtend t.width else v.setWidth t.width

/-- An operand that SX selects (R108). -/
def ofSrc (t : Ty) (w : Warp) (l : Fin 32) : Src → BitVec t.width
  | .g r => ofG t w r l
  | .s r => ofS t w r

/-- The operand of an extended form (R117). -/
def ofXSrc (t : Ty) (w : Warp) (l : Fin 32) : XSrc → BitVec t.width
  | .g r => ofG t w r l
  | .s r => ofS t w r
  | .imm v => ofImm t v

/-- The operand where G stands (R117). -/
def ofGSrc (t : Ty) (w : Warp) (l : Fin 32) : GSrc → BitVec t.width
  | .g r => ofG t w r l
  | .imm v => ofImm t v

/-- A lane in which the executing instruction takes effect: the cover and the done mask leave it, and so does the guard
(R33, R118). -/
def active (x : Focus) (grd : Option Guard) (l : Fin 32) : Bool :=
  x.c.lanes.getLsbD l.val && (match grd with
    | none => true
    | some g => (x.w.p[g.p]).getLsbD l.val != g.n)

/-- The warp with the image of a result in accumulator k of some lanes, and nothing else changed. -/
def wroteAcc (w : Warp) (k : Fin 8) (t : Ty) (on : Fin 32 → Bool) (v : Fin 32 → BitVec t.width) : Warp :=
  let a := w.acc[k]
  let val := Vector.ofFn fun l => if on l then image t (v l) else a.val[l]
  { w with acc := w.acc.set k { a with val := val } }

/-- A strand instruction as it stands at the cursor of a state: well-formed, and guarded only outside a cover (R121,
R125). -/
def strandReady (s : State) (x : Focus) (i : Instr) (grd : Option Guard) : Prop :=
  s.focus? = some x ∧ i.wf = true ∧ (x.c.covered = false ∨ grd = none)

/-- A meeting instruction as it stands at the cursor of a state. -/
def meetReady (s : State) (x : Focus) (i : Instr) : Prop :=
  s.focus? = some x ∧ i.wf = true ∧ x.c.covered = false

/-! ### Strand arithmetic -/

/-- The operation of a strand instruction: its strand, guard and type, and the result in a lane from the accumulator's low
w bits. -/
structure Row where
  k : Fin 8
  grd : Option Guard
  t : Ty
  val : Warp → Fin 32 → BitVec t.width → BitVec t.width

/-- The smaller of two integers of a type (R184): a where neither is smaller. -/
def least (t : Ty) (a b : BitVec t.width) : BitVec t.width :=
  if (if t.isSigned then b.slt a else b.ult a) then b else a

/-- The larger of two integers of a type (R184). -/
def greatest (t : Ty) (a b : BitVec t.width) : BitVec t.width :=
  if (if t.isSigned then a.slt b else a.ult b) then b else a

/-- ADD, SUB, MUL, MIN, MAX, MOV, MAC, MADD, NEG, ABS of integers (R184-R187), in every form that has them. -/
def intRow : Instr → Option Row
  | .add o => some ⟨o.a, none, o.t, fun w l a => a + ofSrc o.t w l o.src⟩
  | .addExt o => some ⟨o.a, o.grd, o.t, fun w l a => a + ofXSrc o.t w l o.src⟩
  | .addLi o => some ⟨o.a, none, o.t, fun _ _ a => a + ofImm15 o.t o.imm⟩
  | .sub o => some ⟨o.a, none, o.t, fun w l a => a - ofSrc o.t w l o.src⟩
  | .subExt o => some ⟨o.a, o.grd, o.t, fun w l a => a - ofXSrc o.t w l o.src⟩
  | .mul o => some ⟨o.a, none, o.t, fun w l a => a * ofSrc o.t w l o.src⟩
  | .mulExt o => some ⟨o.a, o.grd, o.t, fun w l a => a * ofXSrc o.t w l o.src⟩
  | .min o => some ⟨o.a, none, o.t, fun w l a => least o.t a (ofSrc o.t w l o.src)⟩
  | .minExt o => some ⟨o.a, o.grd, o.t, fun w l a => least o.t a (ofXSrc o.t w l o.src)⟩
  | .max o => some ⟨o.a, none, o.t, fun w l a => greatest o.t a (ofSrc o.t w l o.src)⟩
  | .maxExt o => some ⟨o.a, o.grd, o.t, fun w l a => greatest o.t a (ofXSrc o.t w l o.src)⟩
  | .mov o => some ⟨o.a, none, o.t, fun w l _ => ofSrc o.t w l o.src⟩
  | .movExt o => some ⟨o.a, o.grd, o.t, fun w l _ => ofXSrc o.t w l o.src⟩
  | .movLi o => some ⟨o.a, none, o.t, fun _ _ _ => ofImm15 o.t o.imm⟩
  | .mac o => some ⟨o.a, none, o.t, fun w l a => a + ofG o.t w o.g l * ofS o.t w o.s⟩
  | .macExt o => some ⟨o.a, o.grd, o.t, fun w l a => a + ofGSrc o.t w l o.src * ofS o.t w o.s⟩
  | .madd o => some ⟨o.a, none, o.t, fun w l a => a * ofG o.t w o.g l + ofS o.t w o.s⟩
  | .maddExt o => some ⟨o.a, o.grd, o.t, fun w l a => a * ofGSrc o.t w l o.src + ofS o.t w o.s⟩
  | .neg o => some ⟨o.a, none, o.t, fun w l _ => -ofG o.t w o.g l⟩
  | .negExt o => some ⟨o.a, o.grd, o.t, fun w l _ => -ofGSrc o.t w l o.src⟩
  | .abs o => some ⟨o.a, none, o.t, fun w l _ => let b := ofG o.t w o.g l; if b.msb then -b else b⟩
  | .absExt o => some ⟨o.a, o.grd, o.t, fun w l _ => let b := ofGSrc o.t w l o.src; if b.msb then -b else b⟩
  | .shortAddI32 o => some ⟨o.a, none, .i32, fun w l a => a + ofG .i32 w o.g l⟩
  | .shortSubI32 o => some ⟨o.a, none, .i32, fun w l a => a - ofG .i32 w o.g l⟩
  | .shortMulI32 o => some ⟨o.a, none, .i32, fun w l a => a * ofG .i32 w o.g l⟩
  | .shortMinI32 o => some ⟨o.a, none, .i32, fun w l a => least .i32 a (ofG .i32 w o.g l)⟩
  | .shortMaxI32 o => some ⟨o.a, none, .i32, fun w l a => greatest .i32 a (ofG .i32 w o.g l)⟩
  | .shortMinN32 o => some ⟨o.a, none, .n32, fun w l a => least .n32 a (ofG .n32 w o.g l)⟩
  | .shortMaxN32 o => some ⟨o.a, none, .n32, fun w l a => greatest .n32 a (ofG .n32 w o.g l)⟩
  | .shortAddI64 o => some ⟨o.a, none, .i64, fun w l a => a + ofG .i64 w o.g l⟩
  | _ => none

/-- AND, OR, XOR, ANDN, NOT, POPC, CLZ, BREV (R187, R190). -/
def bitRow : Instr → Option Row
  | .and o => some ⟨o.a, none, o.t, fun w l a => a &&& ofSrc o.t w l o.src⟩
  | .andExt o => some ⟨o.a, o.grd, o.t, fun w l a => a &&& ofXSrc o.t w l o.src⟩
  | .andLi o => some ⟨o.a, none, o.t, fun _ _ a => a &&& ofImm15 o.t o.imm⟩
  | .or o => some ⟨o.a, none, o.t, fun w l a => a ||| ofSrc o.t w l o.src⟩
  | .orExt o => some ⟨o.a, o.grd, o.t, fun w l a => a ||| ofXSrc o.t w l o.src⟩
  | .orLi o => some ⟨o.a, none, o.t, fun _ _ a => a ||| ofImm15 o.t o.imm⟩
  | .xor o => some ⟨o.a, none, o.t, fun w l a => a ^^^ ofSrc o.t w l o.src⟩
  | .xorExt o => some ⟨o.a, o.grd, o.t, fun w l a => a ^^^ ofXSrc o.t w l o.src⟩
  | .xorLi o => some ⟨o.a, none, o.t, fun _ _ a => a ^^^ ofImm15 o.t o.imm⟩
  | .andn o => some ⟨o.a, none, o.t, fun w l a => a &&& ~~~ofSrc o.t w l o.src⟩
  | .andnExt o => some ⟨o.a, o.grd, o.t, fun w l a => a &&& ~~~ofXSrc o.t w l o.src⟩
  | .not o => some ⟨o.a, none, o.t, fun w l _ => ~~~ofG o.t w o.g l⟩
  | .notExt o => some ⟨o.a, o.grd, o.t, fun w l _ => ~~~ofGSrc o.t w l o.src⟩
  | .popc o => some ⟨o.a, none, o.t, fun w l _ => (ofG o.t w o.g l).cpop⟩
  | .popcExt o => some ⟨o.a, o.grd, o.t, fun w l _ => (ofGSrc o.t w l o.src).cpop⟩
  | .clz o => some ⟨o.a, none, o.t, fun w l _ => (ofG o.t w o.g l).clz⟩
  | .clzExt o => some ⟨o.a, o.grd, o.t, fun w l _ => (ofGSrc o.t w l o.src).clz⟩
  | .brev o => some ⟨o.a, none, o.t, fun w l _ => (ofG o.t w o.g l).reverse⟩
  | .brevExt o => some ⟨o.a, o.grd, o.t, fun w l _ => (ofGSrc o.t w l o.src).reverse⟩
  | .shortAndN32 o => some ⟨o.a, none, .n32, fun w l a => a &&& ofG .n32 w o.g l⟩
  | .shortOrN32 o => some ⟨o.a, none, .n32, fun w l a => a ||| ofG .n32 w o.g l⟩
  | .shortXorN32 o => some ⟨o.a, none, .n32, fun w l a => a ^^^ ofG .n32 w o.g l⟩
  | .shortAndnN32 o => some ⟨o.a, none, .n32, fun w l a => a &&& ~~~ofG .n32 w o.g l⟩
  | .shortPopcN32 o => some ⟨o.a, none, .n32, fun w l _ => (ofG .n32 w o.g l).cpop⟩
  | .shortClzN32 o => some ⟨o.a, none, .n32, fun w l _ => (ofG .n32 w o.g l).clz⟩
  | _ => none

/-- The amount of a shift: bits 7:0 of the operand, 0 to 255 (R191). -/
def amountOf (b : W32) : Nat := (b.setWidth 8).toNat

/-- BFE (R192): LEN bits of the operand's positions from POS up, the rest zeros, or for an I type copies of the field's top
bit; positions at or beyond w read as 0, or as bit w−1 for an I type. -/
def extracted (t : Ty) (a : BitVec t.width) (b : W32) : BitVec t.width :=
  let pos := (b.extractLsb' 0 8).toNat
  let len := (b.extractLsb' 8 8).toNat
  let wide : BitVec 1024 := if t.isSigned then a.signExtend 1024 else a.setWidth 1024
  let field := (wide >>> pos) &&& (BitVec.ofNat 1024 (2 ^ len - 1))
  let top := t.isSigned && len != 0 && field.getLsbD (len - 1)
  (if top then field ||| ~~~(BitVec.ofNat 1024 (2 ^ len - 1)) else field).setWidth t.width

/-- BFI (R193): bits POS to POS + LEN − 1 of a become the low bits of b. -/
def inserted (t : Ty) (a b : BitVec t.width) (c : W32) : BitVec t.width :=
  let pos := (c.extractLsb' 0 8).toNat
  let len := (c.extractLsb' 8 8).toNat
  let m : BitVec 1024 := BitVec.ofNat 1024 (2 ^ len - 1) <<< pos
  (((a.setWidth 1024) &&& ~~~m) ||| (((b.setWidth 1024) <<< pos) &&& m)).setWidth t.width

/-- SHL, SHR, SAR, BFE (R191, R192) in every form; the count or the descriptor is a 32-bit operand whatever the type is. -/
def shiftRow : Instr → Option Row
  | .shl o => some ⟨o.a, none, o.t, fun w l a => a <<< amountOf (ofSrc .n32 w l o.src)⟩
  | .shlExt o => some ⟨o.a, o.grd, o.t, fun w l a => a <<< amountOf (ofXSrc .n32 w l o.src)⟩
  | .shlLi o => some ⟨o.a, none, o.t, fun _ _ a => a <<< o.n.toNat⟩
  | .shr o => some ⟨o.a, none, o.t, fun w l a => a >>> amountOf (ofSrc .n32 w l o.src)⟩
  | .shrExt o => some ⟨o.a, o.grd, o.t, fun w l a => a >>> amountOf (ofXSrc .n32 w l o.src)⟩
  | .shrLi o => some ⟨o.a, none, o.t, fun _ _ a => a >>> o.n.toNat⟩
  | .sar o => some ⟨o.a, none, o.t, fun w l a => a.sshiftRight (amountOf (ofSrc .n32 w l o.src))⟩
  | .sarExt o => some ⟨o.a, o.grd, o.t, fun w l a => a.sshiftRight (amountOf (ofXSrc .n32 w l o.src))⟩
  | .sarLi o => some ⟨o.a, none, o.t, fun _ _ a => a.sshiftRight o.n.toNat⟩
  | .bfe o => some ⟨o.a, none, o.t, fun w l a => extracted o.t a (ofSrc .n32 w l o.src)⟩
  | .bfeExt o => some ⟨o.a, o.grd, o.t, fun w l a => extracted o.t a (ofXSrc .n32 w l o.src)⟩
  | .shortShlN32 o => some ⟨o.a, none, .n32, fun w l a => a <<< amountOf (ofG .n32 w o.g l)⟩
  | .shortShrN32 o => some ⟨o.a, none, .n32, fun w l a => a >>> amountOf (ofG .n32 w o.g l)⟩
  | .shortSarI32 o => some ⟨o.a, none, .i32, fun w l a => a.sshiftRight (amountOf (ofG .n32 w o.g l))⟩
  | _ => none

/-- BFI (R193), with the descriptor in a scalar. -/
def bfiRow : Instr → Option (Row × Fin 32)
  | .bfi o => some (⟨o.a, none, o.t, fun w l a => inserted o.t a (ofG o.t w o.g l) (ofS .n32 w o.s)⟩, o.s)
  | .bfiExt o => some (⟨o.a, o.grd, o.t, fun w l a => inserted o.t a (ofGSrc o.t w l o.src) (ofS .n32 w o.s)⟩, o.s)
  | _ => none

/-- The state in which a strand instruction without flags has completed, its result in its active lanes. -/
def rowDone (s : State) (x : Focus) (r : Row) : State :=
  finishStrand s x.c (wroteAcc x.w r.k r.t (active x r.grd) fun l => r.val x.w l (accOf r.t x.w r.k l)) x.f r.k

end Sys2Proof.Claims

open Sys2Proof Sys2Proof.Machine Sys2Proof.Claims

/-- R184-R187 for the integer types (and MOV for every type but the floats): the result modulo 2^w in the active lanes, no flag
raised, nothing else written. -/
def Obligations.IntegerArithmetic : Prop :=
  ∀ (s : State) (x : Focus) (i : Instr) (r : Row), intRow i = some r → strandReady s x i r.grd →
    r.t.isFloat = false → x.w.acc[r.k].tile = none → exec i s = .next (rowDone s x r)

/-- R187 and R190: bitwise operations, complement and the bit counts.

R191 and R192: shifts, where an amount of w or more gives 0 or, for SAR, every bit the sign; and field extraction. -/
def Obligations.BitsShiftsAndFields : Prop :=
  (∀ (s : State) (x : Focus) (i : Instr) (r : Row), bitRow i = some r → strandReady s x i r.grd →
    x.w.acc[r.k].tile = none → exec i s = .next (rowDone s x r)) ∧
  (∀ (s : State) (x : Focus) (i : Instr) (r : Row), shiftRow i = some r → strandReady s x i r.grd →
    x.w.acc[r.k].tile = none → exec i s = .next (rowDone s x r))

/-- R193: field insertion; a field of length 0 leaves the accumulator as it is, its upper bits too. -/
def Obligations.FieldInsertion : Prop :=
  ∀ (s : State) (x : Focus) (i : Instr) (r : Row) (d : Fin 32), bfiRow i = some (r, d) → strandReady s x i r.grd →
    x.w.acc[r.k].tile = none →
      exec i s = .next (if ((x.w.s[d]).extractLsb' 8 8).toNat = 0 then finishStrand s x.c x.w x.f r.k else rowDone s x r)

/-! ### Floating point -/

namespace Sys2Proof.Claims

/-- The operation of a strand instruction that may raise status flags: the result and its flags in a lane, from the
accumulator's low bits, whose type is `src`. -/
structure FRow where
  k : Fin 8
  grd : Option Guard
  src : Ty
  t : Ty
  val : Warp → Fin 32 → Nat → FRes

/-- IMM32 of an F type (R117): for F64 the F32 of those bits, widened exactly; else the low w bits. -/
def fImm (t : Ty) (v : W32) : Nat :=
  if t = .f64 then (roundV fmtF64 .rne false (fmtF32.decode v.toNat)).bits else v.toNat % 2 ^ t.width

/-- IMM15 of an F type (R110): the BF16 whose upper bits it is, converted. -/
def fImm15 (t : Ty) (v : BitVec 15) : Nat := (roundV (fmtOf t) .rne false (fmtBF16.decode (v.toNat * 2))).bits

/-- The operand of an extended form of an F type (R117). -/
def fXSrc (t : Ty) (w : Warp) (l : Fin 32) : XSrc → Nat
  | .g r => (ofG t w r l).toNat
  | .s r => (ofS t w r).toNat
  | .imm v => fImm t v

/-- The operand where G stands, of an F type (R117). -/
def fGSrc (t : Ty) (w : Warp) (l : Fin 32) : GSrc → Nat
  | .g r => (ofG t w r l).toNat
  | .imm v => fImm t v

/-- Bits written as they are. -/
def asIs (b : Nat) : FRes := ⟨b, 0, false⟩

/-- ADD, SUB, MUL, FDIV, MIN, MAX, MOV, MAC, MADD, NEG, ABS of the floating-point types (R184-R187, R189) and XFN (R199), in
every form. -/
def floatRow : Instr → Option FRow
  | .add o => some ⟨o.a, none, o.t, o.t, fun w l a => fadd (fmtOf o.t) o.rm a (ofSrc o.t w l o.src).toNat⟩
  | .addExt o => some ⟨o.a, o.grd, o.t, o.t, fun w l a => fadd (fmtOf o.t) o.rm a (fXSrc o.t w l o.src)⟩
  | .addLi o => some ⟨o.a, none, o.t, o.t, fun _ _ a => fadd (fmtOf o.t) .rne a (fImm15 o.t o.imm)⟩
  | .sub o => some ⟨o.a, none, o.t, o.t, fun w l a => fsub (fmtOf o.t) o.rm a (ofSrc o.t w l o.src).toNat⟩
  | .subExt o => some ⟨o.a, o.grd, o.t, o.t, fun w l a => fsub (fmtOf o.t) o.rm a (fXSrc o.t w l o.src)⟩
  | .mul o => some ⟨o.a, none, o.t, o.t, fun w l a => fmul (fmtOf o.t) o.rm a (ofSrc o.t w l o.src).toNat⟩
  | .mulExt o => some ⟨o.a, o.grd, o.t, o.t, fun w l a => fmul (fmtOf o.t) o.rm a (fXSrc o.t w l o.src)⟩
  | .fdiv o => some ⟨o.a, none, o.t, o.t, fun w l a => fdivR (fmtOf o.t) o.rm a (ofSrc o.t w l o.src).toNat⟩
  | .fdivExt o => some ⟨o.a, o.grd, o.t, o.t, fun w l a => fdivR (fmtOf o.t) o.rm a (fXSrc o.t w l o.src)⟩
  | .min o => some ⟨o.a, none, o.t, o.t, fun w l a => fminmax (fmtOf o.t) false a (ofSrc o.t w l o.src).toNat⟩
  | .minExt o => some ⟨o.a, o.grd, o.t, o.t, fun w l a => fminmax (fmtOf o.t) false a (fXSrc o.t w l o.src)⟩
  | .max o => some ⟨o.a, none, o.t, o.t, fun w l a => fminmax (fmtOf o.t) true a (ofSrc o.t w l o.src).toNat⟩
  | .maxExt o => some ⟨o.a, o.grd, o.t, o.t, fun w l a => fminmax (fmtOf o.t) true a (fXSrc o.t w l o.src)⟩
  | .mov o => some ⟨o.a, none, o.t, o.t, fun w l _ => asIs (ofSrc o.t w l o.src).toNat⟩
  | .movExt o => some ⟨o.a, o.grd, o.t, o.t, fun w l _ => asIs (fXSrc o.t w l o.src)⟩
  | .movLi o => some ⟨o.a, none, o.t, o.t, fun _ _ _ => asIs (fImm15 o.t o.imm)⟩
  | .mac o => some ⟨o.a, none, o.t, o.t, fun w l a =>
      ffma (fmtOf o.t) o.rm (ofG o.t w o.g l).toNat (ofS o.t w o.s).toNat a⟩
  | .macExt o => some ⟨o.a, o.grd, o.t, o.t, fun w l a =>
      ffma (fmtOf o.t) o.rm (fGSrc o.t w l o.src) (ofS o.t w o.s).toNat a⟩
  | .madd o => some ⟨o.a, none, o.t, o.t, fun w l a =>
      ffma (fmtOf o.t) o.rm a (ofG o.t w o.g l).toNat (ofS o.t w o.s).toNat⟩
  | .maddExt o => some ⟨o.a, o.grd, o.t, o.t, fun w l a =>
      ffma (fmtOf o.t) o.rm a (fGSrc o.t w l o.src) (ofS o.t w o.s).toNat⟩
  | .neg o => some ⟨o.a, none, o.t, o.t, fun w l _ => fsign (fmtOf o.t) false (ofG o.t w o.g l).toNat⟩
  | .negExt o => some ⟨o.a, o.grd, o.t, o.t, fun w l _ => fsign (fmtOf o.t) false (fGSrc o.t w l o.src)⟩
  | .abs o => some ⟨o.a, none, o.t, o.t, fun w l _ => fsign (fmtOf o.t) true (ofG o.t w o.g l).toNat⟩
  | .absExt o => some ⟨o.a, o.grd, o.t, o.t, fun w l _ => fsign (fmtOf o.t) true (fGSrc o.t w l o.src)⟩
  | .xfn o => some ⟨o.a, none, o.t, o.t, fun _ _ a => xfnR o.f o.t o.rm a⟩
  | .xfnExt o => some ⟨o.a, o.grd, o.t, o.t, fun _ _ a => xfnR o.f o.t o.rm a⟩
  | .shortAddF32 o => some ⟨o.a, none, .f32, .f32, fun w l a => fadd fmtF32 .rne a (ofG .f32 w o.g l).toNat⟩
  | .shortSubF32 o => some ⟨o.a, none, .f32, .f32, fun w l a => fsub fmtF32 .rne a (ofG .f32 w o.g l).toNat⟩
  | .shortMulF32 o => some ⟨o.a, none, .f32, .f32, fun w l a => fmul fmtF32 .rne a (ofG .f32 w o.g l).toNat⟩
  | .shortMinF32 o => some ⟨o.a, none, .f32, .f32, fun w l a => fminmax fmtF32 false a (ofG .f32 w o.g l).toNat⟩
  | .shortMaxF32 o => some ⟨o.a, none, .f32, .f32, fun w l a => fminmax fmtF32 true a (ofG .f32 w o.g l).toNat⟩
  | .shortMovF32 o => some ⟨o.a, none, .f32, .f32, fun w l _ => asIs (ofG .f32 w o.g l).toNat⟩
  | .shortNegF32 o => some ⟨o.a, none, .f32, .f32, fun w l _ => fsign fmtF32 false (ofG .f32 w o.g l).toNat⟩
  | .shortAddF64 o => some ⟨o.a, none, .f64, .f64, fun w l a => fadd fmtF64 .rne a (ofG .f64 w o.g l).toNat⟩
  | .shortMulF64 o => some ⟨o.a, none, .f64, .f64, fun w l a => fmul fmtF64 .rne a (ofG .f64 w o.g l).toNat⟩
  | _ => none

/-- The block scale in a lane (R197): bits 31:8 of the 32-bit operand as an S24. -/
def scaleOf (b : W32) : FVal := s24val (b.extractLsb' 8 24).toNat

/-- CVT without capture (R196, R197): the exact source value of type S, converted once. -/
def cvtRow : Instr → Option FRow
  | .cvt o => some ⟨o.a, none, o.from_, o.t, fun w l a =>
      cvtR o.t o.from_ o.rm o.sat a (scaleOf (ofG .n32 w o.g l))⟩
  | .cvtExt o =>
    if o.ol.isNone then some ⟨o.a, o.grd, o.from_, o.t, fun w l a =>
      cvtR o.t o.from_ o.rm o.sat a (scaleOf (ofGSrc .n32 w l o.src))⟩
    else none
  | _ => none

/-- A lane's result. -/
def FRow.at (r : FRow) (w : Warp) (l : Fin 32) : FRes := r.val w l (accOf r.src w r.k l).toNat

/-- The flags raised in some lanes, together. -/
def flagsOf (on : Fin 32 → Bool) (fl : Fin 32 → Nat) : W32 :=
  (List.finRange 32).foldl (fun n l => if on l then n ||| BitVec.ofNat 32 (fl l) else n) 0

/-- No active lane raises a flag that FPEN enables (R73). -/
def untrapped (x : Focus) (grd : Option Guard) (fl : Fin 32 → Nat) : Prop :=
  ∀ l : Fin 32, active x grd l = true → BitVec.ofNat 32 (fl l) &&& x.w.fpen = 0

/-- The state in which a strand instruction with flags has completed without a trap: results in the active lanes, FPSTAT
with every flag raised there (R71). -/
def frowDone (s : State) (x : Focus) (r : FRow) : State :=
  let w := wroteAcc x.w r.k r.t (active x r.grd) fun l => BitVec.ofNat r.t.width (r.at x.w l).bits
  finishStrand s x.c { w with fpstat := w.fpstat ||| flagsOf (active x r.grd) fun l => (r.at x.w l).flags } x.f r.k

/-- The value of a finite number as a rational. -/
def ratOf : FVal → Option ℚ
  | .fin n m e => some ((if n then -1 else 1) * (m : ℚ) * (2 : ℚ) ^ e)
  | _ => none

end Sys2Proof.Claims

/-- R181, R184-R187, R189, R199: the float result of every form in the active lanes; FPSTAT takes the flags (R71). -/
def Obligations.FloatArithmetic : Prop :=
  ∀ (s : State) (x : Focus) (i : Instr) (r : FRow), floatRow i = some r → strandReady s x i r.grd →
    r.t.isFloat = true → x.w.acc[r.k].tile = none → untrapped x r.grd (fun l => (r.at x.w l).flags) →
      exec i s = .next (frowDone s x r)

/-- R197: conversion in place, of a source that is not T2 or holds no reserved code. -/
def Obligations.Conversion : Prop :=
  ∀ (s : State) (x : Focus) (i : Instr) (r : FRow), cvtRow i = some r → strandReady s x i r.grd →
    x.w.acc[r.k].tile = none → untrapped x r.grd (fun l => (r.at x.w l).flags) →
    (∀ l, active x r.grd l = true → r.src = .t2 → accOf r.src x.w r.k l ≠ 2#_) →
      exec i s = .next (frowDone s x r)

/-- R60, R181: sums and products of finite values are formed exactly, and a sum that is exactly zero is +0, or −0 under RDN,
unless both operands are zeros or values of one sign.

R57, R58: a finite value that a layout represents rounds to its own code under every attribute, without a flag. -/
def Obligations.ExactResults : Prop :=
  (∀ (rm : Rm) (x y : FVal) (a b : ℚ), ratOf x = some a → ratOf y = some b →
    ratOf (addV rm x y) = some (a + b) ∧ ratOf (mulV x y) = some (a * b) ∧
      (x.neg? ≠ y.neg? → a + b = 0 → addV rm x y = .fin (rm == .rdn) 0 0) ∧
      (mulV x y).neg? = (x.neg? != y.neg?)) ∧
  (∀ (t : Ty) (rm : Rm) (sat : Bool) (c : Nat) (n : Bool) (m : Nat) (e : Int), Fmt.has t = true → c < 2 ^ (fmtOf t).width →
    (fmtOf t).decode c = .fin n m e → roundTo (fmtOf t) rm sat n m e = ⟨c, 0, false⟩)

/-! ### Division, comparison, selection, emission; tile mode -/

namespace Sys2Proof.Claims

/-- DIV and REM (R188): the strand, the divisor, and the result; signed for I, unsigned for N. -/
def divRow : Instr → Option (Row × (Warp → Fin 32 → Bool))
  | .div o => some (⟨o.a, none, o.t, fun w l a => let b := ofSrc o.t w l o.src; if o.t.isSigned then a.sdiv b else a / b⟩,
      fun w l => ofSrc o.t w l o.src == 0)
  | .divExt o => some (⟨o.a, o.grd, o.t, fun w l a => let b := ofXSrc o.t w l o.src; if o.t.isSigned then a.sdiv b else a / b⟩,
      fun w l => ofXSrc o.t w l o.src == 0)
  | .rem o => some (⟨o.a, none, o.t, fun w l a => let b := ofSrc o.t w l o.src; if o.t.isSigned then a.srem b else a % b⟩,
      fun w l => ofSrc o.t w l o.src == 0)
  | .remExt o => some (⟨o.a, o.grd, o.t, fun w l a => let b := ofXSrc o.t w l o.src; if o.t.isSigned then a.srem b else a % b⟩,
      fun w l => ofXSrc o.t w l o.src == 0)
  | _ => none

/-- An integer comparison (R194): signed for I types, unsigned for N types; none for ORD and UNORD. -/
def intHolds (t : Ty) (c : Cond) (a b : BitVec t.width) : Bool :=
  let lt := if t.isSigned then a.slt b else a.ult b
  let gt := if t.isSigned then b.slt a else b.ult a
  match c with
  | .eq => a == b
  | .ne => a != b
  | .lt => lt
  | .le => !gt
  | .gt => gt
  | .ge => !lt
  | _ => false

/-- A float comparison (R194) with the flag it raises, from the order of two values, none where one is a NaN. -/
def floatHolds (f : Fmt) (c : Cond) (a b : Nat) : Bool × Nat :=
  let sig := if f.decode a = .nan true ∨ f.decode b = .nan true then fIV else 0
  match cmpV (f.decode a) (f.decode b), c with
  | some o, .eq => (o == .eq, 0)
  | some o, .ne => (o != .eq, 0)
  | some o, .lt => (o == .lt, 0)
  | some o, .le => (o == .lt || o == .eq, 0)
  | some o, .gt => (o == .gt, 0)
  | some o, .ge => (o == .gt || o == .eq, 0)
  | some _, .ord => (true, 0)
  | some _, .unord => (false, 0)
  | none, .eq => (false, sig)
  | none, .ord => (false, sig)
  | none, .ne => (true, sig)
  | none, .unord => (true, sig)
  | none, _ => (false, fIV)

/-- CMP and EMITP: strand, guard, type, predicate, and the bit of a lane with the flag it raises. -/
structure PRow where
  k : Fin 8
  grd : Option Guard
  t : Ty
  d : Fin 8
  val : Warp → Fin 32 → BitVec t.width → Bool × Nat

/-- CMP (R194) and EMITP (R202). -/
def predRow : Instr → Option PRow
  | .cmp o => some ⟨o.a, none, o.t, o.d, fun w l a =>
      if o.t.isFloat then floatHolds (fmtOf o.t) o.c a.toNat (ofG o.t w o.g l).toNat
      else (intHolds o.t o.c a (ofG o.t w o.g l), 0)⟩
  | .cmpExt o => some ⟨o.a, o.grd, o.t, o.d, fun w l a =>
      if o.t.isFloat then floatHolds (fmtOf o.t) o.c a.toNat (fGSrc o.t w l o.src)
      else (intHolds o.t o.c a (ofGSrc o.t w l o.src), 0)⟩
  | .emitp o => some ⟨o.a, none, o.t, o.d, fun _ _ a => (a != 0, 0)⟩
  | .emitpExt o => some ⟨o.a, o.grd, o.t, o.d, fun _ _ a => (a != 0, 0)⟩
  | _ => none

/-- The warp with predicate d replaced and flags added to FPSTAT, nothing else changed. -/
def wroteP (w : Warp) (d : Fin 8) (m : Mask) (fl : W32) : Warp :=
  { w with p := w.p.set d m, fpstat := w.fpstat ||| fl }

/-- A predicate after its bits in some lanes have been written; the others keep theirs. -/
def predAfter (old : Mask) (on v : Fin 32 → Bool) (new : Mask) : Prop :=
  ∀ l : Fin 32, new.getLsbD l.val = if on l then v l else old.getLsbD l.val

/-- SEL (R195): strand, guard, type, predicate, inversion, and the operand. -/
def selRow : Instr → Option (Row × Fin 8 × Bool)
  | .sel o => some (⟨o.a, none, o.t, fun w l _ => ofG o.t w o.g l⟩, o.p, o.n)
  | .selExt o => some (⟨o.a, o.grd, o.t, fun w l _ =>
      if o.t.isFloat then BitVec.ofNat o.t.width (fGSrc o.t w l o.src) else ofGSrc o.t w l o.src⟩, o.p, o.n)
  | _ => none

/-- EMIT (R201): strand, guard, type and register, the short forms among them. -/
def emitRow : Instr → Option (Fin 8 × Option Guard × Ty × Fin 64)
  | .emit o => some (o.a, none, o.t, o.g)
  | .emitExt o => some (o.a, o.grd, o.t, o.g)
  | .shortEmit o => some (o.a, none, .n32, o.g)
  | .shortEmitN64 o => some (o.a, none, .n64, o.g)
  | _ => none

/-- EMITS (R203). -/
def emitsRow : Instr → Option (Fin 8 × Option Guard × Ty × Fin 32)
  | .emits o => some (o.a, none, o.t, o.d)
  | .emitsExt o => some (o.a, o.grd, o.t, o.d)
  | _ => none

/-- A value of 32 bits or fewer as it stands in a general register (R55): an I type sign-extended, any other
zero-extended. -/
def gWord (t : Ty) (v : BitVec t.width) : W32 := if t.isSigned then v.signExtend 32 else v.setWidth 32

/-- A general register after some lanes have been written. -/
def gAfter (old : Lanes W32) (on : Fin 32 → Bool) (v : Fin 32 → W32) : Lanes W32 :=
  Vector.ofFn fun l => if on l then v l else old[l]

/-- The accumulator and guard of a strand arithmetic instruction that R279 gives no effect on a tile-mode accumulator. -/
def noTileForm : Instr → Option (Fin 8 × Option Guard)
  | .and o | .or o | .xor o | .andn o | .shl o | .shr o | .sar o | .bfe o | .div o | .rem o => some (o.a, none)
  | .andExt o | .orExt o | .xorExt o | .andnExt o | .shlExt o | .shrExt o | .sarExt o | .bfeExt o | .divExt o
  | .remExt o => some (o.a, o.grd)
  | .andLi o | .orLi o | .xorLi o => some (o.a, none)
  | .shlLi o | .shrLi o | .sarLi o => some (o.a, none)
  | .neg o | .abs o | .not o | .popc o | .clz o | .brev o => some (o.a, none)
  | .negExt o | .absExt o | .notExt o | .popcExt o | .clzExt o | .brevExt o => some (o.a, o.grd)
  | .fdiv o => some (o.a, none)
  | .fdivExt o => some (o.a, o.grd)
  | .bfi o => some (o.a, none)
  | .bfiExt o => some (o.a, o.grd)
  | .sel o => some (o.a, none)
  | .selExt o => some (o.a, o.grd)
  | .cmp o => some (o.a, none)
  | .cmpExt o => some (o.a, o.grd)
  | .cvt o => some (o.a, none)
  | .cvtExt o => some (o.a, o.grd)
  | .add o | .sub o | .mul o => if o.t = .f32 then none else some (o.a, none)
  | .addExt o | .subExt o | .mulExt o => if o.t = .f32 then none else some (o.a, o.grd)
  | .min o | .max o | .mov o => if o.t = .f32 then none else some (o.a, none)
  | .minExt o | .maxExt o | .movExt o => if o.t = .f32 then none else some (o.a, o.grd)
  | .mac o | .madd o => if o.t = .f32 then none else some (o.a, none)
  | .macExt o | .maddExt o => if o.t = .f32 then none else some (o.a, o.grd)
  | .addLi o | .movLi o => if o.t = .f32 then none else some (o.a, none)
  | .xfn o => if o.t = .f32 ∧ o.f ≠ .tos24 then none else some (o.a, none)
  | .xfnExt o => if o.t = .f32 ∧ o.f ≠ .tos24 then none else some (o.a, o.grd)
  | .shortNegF32 o | .shortAddI32 o | .shortSubI32 o | .shortMulI32 o | .shortMinI32 o | .shortMaxI32 o
  | .shortMinN32 o | .shortMaxN32 o | .shortAndN32 o | .shortOrN32 o | .shortXorN32 o | .shortAndnN32 o
  | .shortShlN32 o | .shortShrN32 o | .shortSarI32 o | .shortPopcN32 o | .shortClzN32 o | .shortAddF64 o
  | .shortMulF64 o | .shortAddI64 o => some (o.a, none)
  | _ => none

/-- Float instructions that R279 gives their column-wise effect: the F32 rows of the float table, FDIV, NEG and ABS
excepted. -/
def tileForm : Instr → Bool
  | .add _ | .addExt _ | .addLi _ | .sub _ | .subExt _ | .mul _ | .mulExt _ | .min _ | .minExt _ | .max _ | .maxExt _
  | .mov _ | .movExt _ | .movLi _ | .mac _ | .macExt _ | .madd _ | .maddExt _
  | .shortAddF32 _ | .shortSubF32 _ | .shortMulF32 _ | .shortMinF32 _ | .shortMaxF32 _ | .shortMovF32 _ => true
  | .xfn o => o.f != .tos24
  | .xfnExt o => o.f != .tos24
  | _ => false

end Sys2Proof.Claims

/-- R188: with no zero divisor in an active lane, the quotient truncated toward zero, or the remainder. -/
def Obligations.DivideAndRemainder : Prop :=
  ∀ (s : State) (x : Focus) (i : Instr) (r : Row) (z : Warp → Fin 32 → Bool), divRow i = some (r, z) →
    strandReady s x i r.grd → x.w.acc[r.k].tile = none →
    (∀ l, active x r.grd l = true → z x.w l = false) → exec i s = .next (rowDone s x r)

/-- R194, R202: bit by bit, the predicate takes the comparison, or that the accumulator's low bits are nonzero; inactive lanes
keep their bit, and no accumulator is written. -/
def Obligations.CompareAndEmitPredicate : Prop :=
  ∀ (s : State) (x : Focus) (i : Instr) (r : PRow), predRow i = some r → strandReady s x i r.grd →
    x.w.acc[r.k].tile = none →
    untrapped x r.grd (fun l => (r.val x.w l (accOf r.t x.w r.k l)).2) →
      ∃ m : Mask, predAfter x.w.p[r.d] (active x r.grd) (fun l => (r.val x.w l (accOf r.t x.w r.k l)).1) m ∧
        exec i s = .next (finishStrand s x.c
          (wroteP x.w r.d m (flagsOf (active x r.grd) fun l => (r.val x.w l (accOf r.t x.w r.k l)).2)) x.f r.k)

/-- R195: the operand moves into the accumulator in the active lanes whose predicate bit differs from N; the others keep all 64
bits. -/
def Obligations.SelectMoves : Prop :=
  ∀ (s : State) (x : Focus) (i : Instr) (r : Row) (p : Fin 8) (n : Bool), selRow i = some (r, p, n) →
    strandReady s x i r.grd → x.w.acc[r.k].tile = none →
      exec i s = .next (finishStrand s x.c
        (wroteAcc x.w r.k r.t (fun l => active x r.grd l && ((x.w.p[p]).getLsbD l.val != n))
          fun l => r.val x.w l (accOf r.t x.w r.k l)) x.f r.k)

/-- R201: EMIT writes the register image of the accumulator to a general register, a 64-bit one to a pair, in the active lanes,
and those become present; the accumulator and the flags stay.

R203: EMITS writes a scalar from the lowest-numbered active lane, and nothing where no lane is active. -/
def Obligations.EmitsToRegisters : Prop :=
  (∀ (s : State) (x : Focus) (i : Instr) (k : Fin 8) (grd : Option Guard) (t : Ty) (g : Fin 64),
    emitRow i = some (k, grd, t, g) → strandReady s x i grd → ∃ m : Mask, (∀ l, inMask m l = active x grd l) ∧
      let g1 := x.w.g.set g (gAfter x.w.g[g] (active x grd)
        fun l => if t.is64 then ((x.w.acc[k].val)[l]).setWidth 32 else gWord t (accOf t x.w k l))
      let q : Fin 64 := gPartner g
      let g2 := if t.is64 then g1.set q (gAfter g1[q] (active x grd) fun l => ((x.w.acc[k].val)[l]).extractLsb' 32 32) else g1
      exec i s = .next (finishStrand s x.c (({ x.w with g := g2 } : Warp).setAllPresent m (gRegs t g)) x.f k)) ∧
  (∀ (s : State) (x : Focus) (i : Instr) (k : Fin 8) (grd : Option Guard) (t : Ty) (d : Fin 32),
    emitsRow i = some (k, grd, t, d) → strandReady s x i grd →
      (∀ l, active x grd l = true → (∀ j, j < l → active x grd j = false) →
        exec i s = .next (finishStrand s x.c
          { x.w with s := x.w.s.set d (image t (accOf t x.w k l)), sPresent := x.w.sPresent ||| (1#32 <<< d.val) } x.f k)) ∧
      ((∀ l, active x grd l = false) → exec i s = .next (finishStrand s x.c x.w x.f k)))

/-- R153, R183: an instruction with no column-wise effect takes ACCMODE, on the handler route, in its active lanes; with no
active lane it completes.

R279: on a tile-mode accumulator an F32 operation applies to every column of each active lane's row with that lane's
operand; the row values keep theirs. -/
def Obligations.TileMode : Prop :=
  (∀ (s : State) (x : Focus) (i : Instr) (k : Fin 8) (grd : Option Guard), noTileForm i = some (k, grd) →
    strandReady s x i grd → x.w.acc[k].tile.isSome = true →
      ((∀ l, active x grd l = false) → exec i s = .next (finishStrand s x.c x.w x.f k)) ∧
      ((∀ l, active x grd l = inMask x.f.lanes l) → x.f.lanes ≠ 0 → s.loopBusy x.w x.f = false →
        s.splitBusy x.w x.f x.c.pos x.f.lanes = false → exec i s = .next (raisePlain s x (.strand k) cACCMODE))) ∧
  (∀ (s : State) (x : Focus) (i : Instr) (r : FRow) (tl : TileAcc), floatRow i = some r → tileForm i = true →
    r.t = .f32 → strandReady s x i r.grd → x.w.acc[r.k].tile = some tl →
    (∀ l c, active x r.grd l = true → BitVec.ofNat 32 (r.val x.w l ((tl.cols[(c : Fin 32)])[l]).toNat).flags &&& x.w.fpen = 0) →
      let cols : Vector (Lanes W32) 32 := Vector.ofFn fun c => Vector.ofFn fun l =>
        if active x r.grd l then BitVec.ofNat 32 (r.val x.w l ((tl.cols[c])[l]).toNat).bits else (tl.cols[c])[l]
      ∃ w' : Warp, exec i s = .next (finishStrand s x.c w' x.f r.k) ∧
        w'.acc = x.w.acc.set r.k { x.w.acc[r.k] with tile := some { tl with cols := cols } } ∧
        (∀ b : Fin 32, w'.fpstat.getLsbD b.val = (x.w.fpstat.getLsbD b.val ||
          decide (∃ l c : Fin 32, active x r.grd l = true ∧
            (BitVec.ofNat 32 (r.val x.w l ((tl.cols[c])[l]).toNat).flags).getLsbD b.val = true))) ∧
        w' = { x.w with acc := w'.acc, fpstat := w'.fpstat })

/-! ### Scalar unit and control -/

namespace Sys2Proof.Claims

/-- Operand B of format LS: a scalar, or the 11-bit immediate sign-extended (R127). -/
def ofSOperand (w : Warp) : SOperand → W64
  | .s r => w.s[r]
  | .imm v => v.signExtend 64

/-- Operand B of format LZ (R127). -/
def ofZOperand (w : Warp) : ZOperand → W64
  | .s r => w.s[r]
  | .imm v => v.signExtend 64

/-- The destination and the value of a scalar-unit instruction (R128), IMM30 sign-extended in the extended forms. -/
def scalarRow : Instr → Option (Fin 32 × (Warp → W64))
  | .sadd o => some (o.d, fun w => w.s[o.a] + ofSOperand w o.o)
  | .saddExt o => some (o.d, fun w => w.s[o.a] + o.imm.signExtend 64)
  | .ssub o => some (o.d, fun w => w.s[o.a] - ofSOperand w o.o)
  | .ssubExt o => some (o.d, fun w => w.s[o.a] - o.imm.signExtend 64)
  | .smul o => some (o.d, fun w => w.s[o.a] * ofSOperand w o.o)
  | .smulExt o => some (o.d, fun w => w.s[o.a] * o.imm.signExtend 64)
  | .sand o => some (o.d, fun w => w.s[o.a] &&& ofSOperand w o.o)
  | .sandExt o => some (o.d, fun w => w.s[o.a] &&& o.imm.signExtend 64)
  | .sor o => some (o.d, fun w => w.s[o.a] ||| ofSOperand w o.o)
  | .sorExt o => some (o.d, fun w => w.s[o.a] ||| o.imm.signExtend 64)
  | .sshl o => some (o.d, fun w => w.s[o.a] <<< ((ofSOperand w o.o).setWidth 6))
  | .sshlExt o => some (o.d, fun w => w.s[o.a] <<< (o.imm.setWidth 6))
  | .sshr o => some (o.d, fun w => w.s[o.a] >>> ((ofSOperand w o.o).setWidth 6))
  | .sshrExt o => some (o.d, fun w => w.s[o.a] >>> (o.imm.setWidth 6))
  | .smov _ d o => some (d, fun w => ofSOperand w o)
  | .smovExt _ d v => some (d, fun _ => v.signExtend 64)
  | _ => none

/-- SCMP's comparison (R129). -/
def scalarHolds (c : ScmpCond) (a b : W64) : Prop :=
  match c with
  | .eq => a = b
  | .ne => a ≠ b
  | .lt => a.toInt < b.toInt
  | .le => a.toInt ≤ b.toInt
  | .gt => a.toInt > b.toInt
  | .ge => a.toInt ≥ b.toInt
  | .ltu => a.toNat < b.toNat
  | .geu => a.toNat ≥ b.toNat

/-- Positions without an effect (R113, R123). -/
def isSilent : Instr → Bool
  | .snop _ | .nop _ _ | .hint _ _ _ | .hintExt _ _ _ _ => true
  | _ => false

/-- The first slot of a word (R103). -/
def atWord (wa : BitVec 55) : Pos := wa ++ 0#1

/-- The word of a position. -/
def wordHolding (p : Pos) : BitVec 55 := p.extractLsb' 1 55

/-- The target of a direct transfer (R206): its offset counts words from the word of the instruction. -/
def targetOf {n : Nat} (x : Focus) (off : BitVec n) : BitVec 55 := wordHolding x.c.pos + off.signExtend 55

/-- BRA's condition and target word. -/
def braRow (x : Focus) : Instr → Option (BraCond × BitVec 55)
  | .bra _ c off => some (c, targetOf x off)
  | .braExt _ c off => some (c, targetOf x off)
  | _ => none

/-- The lane decides to take a conditional branch (R207). -/
def takes (w : Warp) : BraCond → Fin 32 → Bool
  | .always, _ => true
  | .pred p n, l => (w.p[p]).getLsbD l.val != n

/-- BRD's predicate, inversion and target word. -/
def brdRow (x : Focus) : Instr → Option (Fin 8 × Bool × BitVec 55)
  | .brd _ p n off => some (p, n, targetOf x off)
  | .brdExt _ p n off => some (p, n, targetOf x off)
  | _ => none

/-- CALL's target word. -/
def callRow (x : Focus) : Instr → Option (BitVec 55)
  | .call _ off => some (targetOf x off)
  | .callExt _ off => some (targetOf x off)
  | _ => none

/-- The lowest-numbered lane of a mask. -/
def isLowest (m : Mask) (l : Fin 32) : Prop := inMask m l = true ∧ ∀ j, j < l → inMask m j = false

/-- A convergent instruction may act at once: every unretired lane of the warp stands in the executing fragment (R215). -/
def convergedAlone (x : Focus) : Prop :=
  x.f.handler = false ∧ x.f.lanes = ~~~x.w.retired ∧ x.w.reach x.f = ~~~x.w.retired

/-- The fragment can enter its handler at once: not in handler mode, a handler set, nothing dispatched, no change of the LCLK
ratio (R162, R171). -/
def mayTrap (s : State) (x : Focus) : Prop :=
  x.f.handler = false ∧ x.w.trapVec ≠ 0 ∧ x.f.pend = [] ∧ (s.cgs[cgOfCore x.w.core].phase) = none ∧ x.f.lanes ≠ 0

/-- What taking a handler-route cause at a meeting instruction leaves (R169, R171, R174): handler mode at TRAP.VEC, the frame
with the fence at the instruction, the cause bit, TRAP.INFO and the lanes; registers and memory as they were. -/
def enteredHandler (s t : State) (x : Focus) (c : Nat) (code : BitVec 16) (addr : Fin 32 → W64) : Prop :=
  ∃ y, t.focus? = some y ∧ y.f.handler = true ∧ y.f.status = .ready ∧
    y.f.fetchPC = atWord ((x.w.trapVec).extractLsb' 2 55) ∧ y.f.fencePC = y.f.fetchPC ∧
    y.f.causes = x.f.causes ||| (1#64 <<< c) ∧
    y.f.frame.fence = x.f.fetchPC ∧ (∀ k : Fin 8, (y.f.frame.pcv[k]).pos = x.f.fetchPC) ∧
    y.f.frame.done = Vector.replicate 8 0 ∧
    y.f.frame.info.lanes = x.f.lanes ∧ y.f.frame.info.code = code ∧ y.f.frame.info.meet = true ∧
    (∀ l, inMask x.f.lanes l = true → y.f.frame.info.addr[l] = addr l) ∧
    y.f.lanes = x.f.lanes ∧ y.w.g = x.w.g ∧ y.w.s = x.w.s ∧ y.w.p = x.w.p ∧ y.w.acc = x.w.acc ∧
    t.mem = s.mem ∧ t.hostMem = s.hostMem

end Sys2Proof.Claims

/-- R127, R128: a scalar-unit instruction writes its scalar, which is present at once, and the fragment goes on at the next
instruction.

R129: SCMP writes its predicate whole, in every lane of the warp, and it is present there. -/
def Obligations.ScalarUnit : Prop :=
  (∀ (s : State) (x : Focus) (i : Instr) (d : Fin 32) (v : Warp → W64), scalarRow i = some (d, v) → meetReady s x i →
    exec i s = .next (finishMeeting s
      { x.w with s := x.w.s.set d (v x.w), sPresent := x.w.sPresent ||| (1#32 <<< d.val) } x.f x.c.next)) ∧
  (∀ (s : State) (x : Focus) (b : Bool) (p : Fin 8) (c : ScmpCond) (a : Fin 32) (o : ZOperand),
    meetReady s x (.scmp b p c a o) →
      (scalarHolds c x.w.s[a] (ofZOperand x.w o) → exec (.scmp b p c a o) s = .next (finishMeeting s
        { x.w with p := x.w.p.set p 0xFFFFFFFF#32, pPresent := x.w.pPresent.set p 0xFFFFFFFF#32 } x.f x.c.next)) ∧
      (¬ scalarHolds c x.w.s[a] (ofZOperand x.w o) → exec (.scmp b p c a o) s = .next (finishMeeting s
        { x.w with p := x.w.p.set p 0#32, pPresent := x.w.pPresent.set p 0xFFFFFFFF#32 } x.f x.c.next)))

/-- R113, R123: a short no-op or a hint word has no effect; the fetch moves past it. -/
def Obligations.HintsDoNothing : Prop :=
  ∀ (s : State) (x : Focus) (i : Instr), isSilent i = true → s.focus? = some x →
    exec i s = .next (put s x.w { x.f with fetchPC := x.c.next })

/-- R206-R208: BRA goes to its target or to the next word as its fragment decides: by every lane alike, or, where FOLD.CTL does
not ask for the check, by the lowest-numbered lane.

R209: BRX goes to the address that its lanes agree on, where that is a listed word of the kernel and no continuation. -/
def Obligations.UniformBranches : Prop :=
  (∀ (s : State) (x : Focus) (i : Instr) (c : BraCond) (wa : BitVec 55) (l0 : Fin 32), braRow x i = some (c, wa) →
    meetReady s x i → isLowest x.f.lanes l0 →
    ((∀ l, inMask x.f.lanes l = true → takes x.w c l = takes x.w c l0) ∨ x.w.foldCtl.getLsbD 1 = false) →
      (takes x.w c l0 = true → s.badTarget x.w wa.toNat = false →
        exec i s = .next (finishMeeting s x.w x.f (atWord wa))) ∧
      (takes x.w c l0 = false → exec i s = .next (finishMeeting s x.w x.f x.c.next))) ∧
  (∀ (s : State) (x : Focus) (b : Bool) (r : RegSel) (wa : BitVec 55), meetReady s x (.brx b r) → x.f.lanes ≠ 0 →
    (∀ l, inMask x.f.lanes l = true → regSelLane x.w l r = (0#7 ++ wa ++ 0#2)) →
    s.badTarget x.w wa.toNat = false → s.listed x.w (wa.toNat * 4) = true →
      exec (.brx b r) s = .next (finishMeeting s x.w x.f (atWord wa)))

/-- R210, R211: BRD outside handler mode with a rejoin register that is empty or holds all it reaches: an empty register is
armed for the reach; with no lane taken the fragment goes on, with all lanes taken it goes to the target.

R210: BRD that divides its fragment, with a pool entry free: the taken lanes keep the fragment and go to the target, the
others start at the next instruction as a new fragment in that entry. -/
def Obligations.DivergentBranch : Prop :=
  (∀ (s : State) (x : Focus) (i : Instr) (p : Fin 8) (n : Bool) (wa : BitVec 55), brdRow x i = some (p, n, wa) →
    meetReady s x i → x.f.handler = false → ((x.w.j[p]).member = 0 ∨ x.w.reach x.f &&& ~~~(x.w.j[p]).member = 0) →
    s.badTarget x.w wa.toNat = false →
      let w' := if (x.w.j[p]).member = 0 then { x.w with j := x.w.j.set p ⟨0, 0, x.w.reach x.f⟩ } else x.w
      ((∀ l, inMask x.f.lanes l = true → (x.w.p[p]).getLsbD l.val = n) →
        exec i s = .next (finishMeeting s w' x.f x.c.next)) ∧
      (x.f.lanes ≠ 0 → (∀ l, inMask x.f.lanes l = true → (x.w.p[p]).getLsbD l.val = !n) →
        exec i s = .next (finishMeeting s w' x.f (atWord wa)))) ∧
  (∀ (s : State) (x : Focus) (i : Instr) (p : Fin 8) (n : Bool) (wa : BitVec 55) (e : BitVec 9),
    brdRow x i = some (p, n, wa) → meetReady s x i → x.f.handler = false → (x.w.j[p]).member = 0 →
    s.badTarget x.w wa.toNat = false → x.f.entry ≠ noEntry → s.freeEntry? x.w.core = some e →
    x.w.convWaiters x.f = [] →
    (∃ l, inMask x.f.lanes l = true ∧ (x.w.p[p]).getLsbD l.val = n) →
    (∃ l, inMask x.f.lanes l = true ∧ (x.w.p[p]).getLsbD l.val = !n) →
      ∃ t y g, exec i s = .next t ∧ t.focus? = some y ∧
        (∀ l, inMask y.f.lanes l = (inMask x.f.lanes l && ((x.w.p[p]).getLsbD l.val != n))) ∧
        y.f.fetchPC = atWord wa ∧ y.f.status = .ready ∧ y.f.entry = x.f.entry ∧
        g ∈ y.w.frags ∧ (∀ l, inMask g.lanes l = (inMask x.f.lanes l && ((x.w.p[p]).getLsbD l.val == n))) ∧
        g.fetchPC = x.c.next ∧ g.status = .ready ∧ g.entry = e ∧
        y.w.j = x.w.j.set p ⟨0, 0, x.w.reach x.f⟩ ∧ y.w.acc = x.w.acc ∧ y.w.s = x.w.s ∧ y.w.g = x.w.g ∧ y.w.p = x.w.p)

/-- R212, R213: a JOIN on an empty rejoin register has no effect; one that is not the last arrival waits there; the last
arrival merges the members at the JOIN's next instruction and empties the register. -/
def Obligations.JoinMerges : Prop :=
  ∀ (s : State) (x : Focus) (b : Bool) (j : Fin 8), meetReady s x (.join b j) →
    ((x.w.j[j]).member = 0 → exec (.join b j) s = .next (finishMeeting s x.w x.f x.c.next)) ∧
    ((x.w.j[j]).member ≠ 0 → x.f.lanes &&& ~~~(x.w.j[j]).member = 0 → (∀ v ∈ s.warps, ∀ g ∈ v.frags, g.entry ≠ noEntry) →
      ∃ t w', exec (.join b j) s = .next t ∧ t.warp? x.c.core x.c.slot = some w' ∧
        w'.g = x.w.g ∧ w'.s = x.w.s ∧ w'.p = x.w.p ∧ w'.acc = x.w.acc ∧
        ((x.w.j[j]).member &&& ~~~((x.w.j[j]).arrived ||| x.f.lanes) ≠ 0 →
          (∃ g ∈ w'.frags, g.uid = x.f.uid ∧ g.status = .waiting (.join j)) ∧
          w'.j = x.w.j.set j ⟨x.c.next, (x.w.j[j]).arrived ||| x.f.lanes, (x.w.j[j]).member⟩) ∧
        ((x.w.j[j]).member &&& ~~~((x.w.j[j]).arrived ||| x.f.lanes) = 0 →
          (∃ g ∈ w'.frags, g.lanes = ((x.w.j[j]).arrived ||| x.f.lanes) &&& (x.w.j[j]).member ∧ g.status = .ready ∧
            g.fetchPC = x.c.next) ∧
          w'.j = x.w.j.set j ⟨0, 0, 0⟩))

/-- R217, R218: CALL pushes the word after it on the return stack and goes to its target; RET pops the word and goes there. Both
are convergent.

R218: a CALL beyond sixteen return addresses, and a RET without one, take CSTACK. -/
def Obligations.CallAndReturn : Prop :=
  (∀ (s : State) (x : Focus), convergedAlone x →
    (∀ (i : Instr) (wa : BitVec 55), callRow x i = some wa → meetReady s x i → x.w.returns.length < 16 →
      s.badTarget x.w wa.toNat = false →
        exec i s = .next (finishMeeting s { x.w with returns := wordHolding x.c.next :: x.w.returns } x.f (atWord wa))) ∧
    (∀ (b : Bool) (r : BitVec 55) (rest : List (BitVec 55)), meetReady s x (.ret b) → x.w.returns = r :: rest →
      s.badTarget x.w r.toNat = false →
        exec (.ret b) s = .next (finishMeeting s { x.w with returns := rest } x.f (atWord r)))) ∧
  (∀ (s : State) (x : Focus), convergedAlone x → mayTrap s x →
    (∀ (i : Instr) (wa : BitVec 55), callRow x i = some wa → meetReady s x i → x.w.returns.length ≥ 16 →
      ∃ t, exec i s = .next t ∧ enteredHandler s t x 30 0 (fun _ => 0)) ∧
    (∀ (b : Bool), meetReady s x (.ret b) → x.w.returns = [] →
      ∃ t, exec (.ret b) s = .next t ∧ enteredHandler s t x 30 0 (fun _ => 0)))

/-- R121: PBLK moves the fence past itself and leaves the record of the predicate's value at that moment. -/
def Obligations.PredicateBlock : Prop :=
  ∀ (s : State) (x : Focus) (b : Bool) (p : Fin 8) (pat : BitVec 8) (cnt : Fin 8), meetReady s x (.pblk b p pat cnt) →
    exec (.pblk b p pat cnt) s = .next (put s x.w
      { x.f with fetchPC := x.c.next, fencePC := x.c.next, strands := Vector.replicate 8 ⟨false, x.c.next⟩
                 done := Vector.replicate 8 0, pend := [], covIdx := 0, status := .ready
                 pblk := some ⟨x.w.p[p], pat, cnt⟩ })

/-- R125, R111, R179: a strand or a meeting instruction whose operands or types are not permitted takes ILLEGAL in every lane
and has no other effect. -/
def Obligations.IllegalHasNoEffect : Prop :=
  ∀ (s : State) (x : Focus) (i : Instr), s.focus? = some x → i.wf = false → i.place ≠ .silent →
    exec i s = .next (raiseIllegal s x i.place)

/-- R171, R174, R222: TRAP takes SOFTTRAP with its code in every lane; R125: a word that is no instruction takes ILLEGAL, and
nothing else happens; where the word names a strand, the stop is at that strand.

R221: BRK stops its fragment after itself and signals the debug interface, where debugging is enabled for the launch; it
takes SOFTTRAP where it is not.

The record that BRK leaves due is the model's choice (log 23). -/
def Obligations.TrapsAndBreakpoints : Prop :=
  (∀ (s : State) (x : Focus), mayTrap s x →
    (∀ (b : Bool) (code : BitVec 12), meetReady s x (.trap b code) →
      ∃ t, exec (.trap b code) s = .next t ∧ enteredHandler s t x 28 (code.setWidth 16) (fun _ => 0)) ∧
    (s.focus? = some x → s.strandAt x.w x.c.pos = none →
      ∃ t, exec .illegalEncoding s = .next t ∧ enteredHandler s t x 8 0 (fun _ => 0)) ∧
    (∀ k, s.focus? = some x → s.strandAt x.w x.c.pos = some k → ∃ t y, exec .illegalEncoding s = .next t ∧ t.focus? = some y ∧
      y.f.handler = true ∧ y.f.fetchPC = atWord ((x.w.trapVec).extractLsb' 2 55) ∧ y.f.causes = x.f.causes ||| (1#64 <<< 8) ∧
      y.f.frame.fence = x.f.fencePC ∧ y.f.frame.info.lanes = x.f.lanes ∧ y.f.frame.info.meet = false ∧ y.f.frame.info.strand = k)) ∧
  (∀ (s : State) (x : Focus) (b : Bool) (code : BitVec 12), meetReady s x (.brk b code) →
    (s.debugOn x.w = true → ∃ t y, exec (.brk b code) s = .next t ∧ t.focus? = some y ∧ y.f.status = .stopped ∧
      y.f.fetchPC = x.c.next ∧ y.f.fencePC = x.c.next ∧ t.debugSignals = s.debugSignals ++ [⟨x.w.core, x.w.slot, x.f.entry, code⟩] ∧
      y.w.g = x.w.g ∧ y.w.s = x.w.s ∧ y.w.p = x.w.p ∧ y.w.acc = x.w.acc ∧ t.mem = s.mem) ∧
    (s.debugOn x.w = false → mayTrap s x → ∃ t, exec (.brk b code) s = .next t ∧
      enteredHandler s t x 28 (0x8#4 ++ code) (fun _ => 0)))

/-- R173, R223: RETH in handler mode with every cause cleared restores the frame, and the fragment runs from its fence; RETH.SKIP
of a meeting instruction that is the last one covered, or not covered, goes on after it. -/
def Obligations.ReturnFromHandler : Prop :=
  ∀ (s : State) (x : Focus), x.f.handler = true → x.f.causes = 0 →
    (∀ b, meetReady s x (.reth b) → ∃ t y, exec (.reth b) s = .next t ∧ t.focus? = some y ∧
      y.f.handler = false ∧ y.f.status = .ready ∧ y.f.fencePC = x.f.frame.fence ∧ y.f.fetchPC = x.f.frame.fence ∧
      y.f.strands = x.f.frame.pcv ∧ y.f.done = x.f.frame.done ∧ y.f.pblk = x.f.frame.pblk ∧ y.f.lanes = x.f.lanes ∧
      y.w.g = x.w.g ∧ y.w.s = x.w.s ∧ y.w.p = x.w.p ∧ y.w.acc = x.w.acc ∧ t.mem = s.mem) ∧
    (∀ b i next, meetReady s x (.rethSkip b) → x.f.frame.info.meet = true → x.f.frame.pblk = none → x.w.loop.valid = false →
      s.peek (cgOfCore x.w.core) (s.asidOf x.w) x.f.frame.fence = .instr i next → (∀ m ∈ s.matrix, m.pair = false) →
      x.f.frame.info.lanes &&& x.f.lanes ≠ 0 →
      ∃ t y, exec (.rethSkip b) s = .next t ∧ t.focus? = some y ∧
        y.f.handler = false ∧ y.f.status = .ready ∧ y.f.fencePC = next ∧ y.f.fetchPC = next ∧
        y.f.done = Vector.replicate 8 0 ∧ y.f.pblk = none ∧ y.f.lanes = x.f.lanes ∧
        y.w.g = x.w.g ∧ y.w.s = x.w.s ∧ y.w.p = x.w.p ∧ y.w.acc = x.w.acc ∧ t.mem = s.mem)

/-! ### System registers, waits on timelines, queues -/

namespace Sys2Proof.Claims

/-- A strand PC of the trap frame as it reads (R174): LIVE in bit 63, the position below. -/
def strandWord (p : StrandPC) : W64 := BitVec.ofBool p.live ++ 0#7 ++ p.pos

/-- What the lanes of a fragment of an owner read from some system registers (R29, R71, R73, R97, R160, R167, R174, R175, R264, R304,
R357, R393, R447). -/
def sysRow (n : Nat) (s : State) (x : Focus) (ow : Owner) : Option (Fin 32 → W64) :=
  if 0x048 ≤ n ∧ n < 0x050 then
    some fun _ => if x.f.handler then strandWord x.f.frame.pcv[Fin.ofNat 8 (n - 0x048)] else 0
  else if 0x050 ≤ n ∧ n < 0x058 then
    some fun _ => if x.f.handler then (x.f.frame.done[Fin.ofNat 8 (n - 0x050)]).setWidth 64 else 0
  else if 0x100 ≤ n ∧ n < 0x110 then some fun _ => ow.block.windows[Fin.ofNat 16 (n - 0x100)]
  else match n with
  | 0x000 => some fun l => BitVec.ofNat 64 l.val
  | 0x001 => some fun _ => BitVec.ofNat 64 (256 * x.w.slot + x.w.inBlock)
  | 0x002 => some fun _ =>
      BitVec.ofNat 64 (256 * (ow.gang.nBlocks - 1) + 16 * (ow.block.nWarps - 1) + ow.block.inGang)
  | 0x003 => some fun _ => BitVec.ofNat 64 ow.gang.index
  | 0x004 => some fun _ => BitVec.ofNat 64 ow.gang.order
  | 0x005 => some fun _ =>
      BitVec.ofNat 64 (2 ^ 28 * ow.launch.dies.toNat + 2 ^ 26 * ow.launch.depth + (ow.launch.nGangs - 1))
  | 0x006 => some fun _ => x.f.entry.setWidth 64
  | 0x007 => some fun _ => x.f.lanes.setWidth 64
  | 0x010 => some fun _ => x.w.fpstat.setWidth 64
  | 0x011 => some fun _ => x.w.fpen.setWidth 64
  | 0x012 => some fun _ => x.w.fptrig.setWidth 64
  | 0x018 => some fun _ => BitVec.ofNat 64 s.mgmt.ackTo
  | 0x029 => some fun _ => x.w.foldCtl.setWidth 64
  | 0x040 => some fun _ => if x.f.handler then x.f.causes else 0
  | 0x041 => some fun _ => x.w.trapVec
  | 0x042 => some fun _ => if x.f.handler then x.f.frame.fence.setWidth 64 else 0
  | 0x043 => some fun _ => if x.f.handler then x.f.frame.info.lanes.setWidth 64 else 0
  | 0x058 => some fun l =>
      if x.f.handler && inMask x.f.frame.info.lanes l then x.f.frame.info.addr[l] else 0
  | 0x210 => some fun _ => x.w.mxStat.setWidth 64
  | 0x211 => some fun _ => x.w.mxSteps
  | 0x212 => some fun _ => x.w.mxAudCfg.setWidth 64
  | 0x213 => some fun _ => x.w.mxAudRing
  | 0x214 => some fun _ => x.w.mxAudSeq
  | 0x341 => some fun _ => x.w.copyLast
  | 0x401 => some fun _ => x.w.collLast
  | 0x481 => some fun _ => BitVec.ofNat 64 ow.launch.op
  | 0x484 => some fun _ => BitVec.ofNat 64 s.time
  | _ => none

/-- The value that SYSW writes (R177): a scalar, or the lowest-numbered lane's general register, with its pair. -/
def sysOperand (x : Focus) (v : W64) : RegSel → Prop
  | .s r => v = x.w.s[r]
  | .g r => ∃ l, isLowest x.f.lanes l ∧ v = (x.w.g[gPartner r])[l] ++ (x.w.g[r])[l]

/-- The warp after a write of v to one of its registers (R71, R73, R167, R304): bits that are cleared by writing 1, or a field
replaced; the other bits of v have no effect. -/
def sysWarp (n : Nat) (v : W64) (w : Warp) : Option Warp :=
  match n with
  | 0x010 => some { w with fpstat := w.fpstat &&& ~~~(v.setWidth 32 &&& 0x7F#32) }
  | 0x011 => some { w with fpen := v.setWidth 32 &&& 0x7F#32 }
  | 0x012 => some { w with fptrig := w.fptrig &&& ~~~(v.setWidth 32 &&& 0x7F#32) }
  | 0x028 => some { w with exh := w.exh && !v.getLsbD 31 }
  | 0x029 => some { w with foldCtl := v.setWidth 32 &&& 3#32 }
  | 0x210 => some { w with mxStat := w.mxStat &&& ~~~(v.setWidth 32 &&& 3#32) }
  | _ => none

/-- The instruction writes v to system register n: SYSW, or the write named as a row of its own. -/
def writesSys (x : Focus) (n : Nat) (v : W64) : Instr → Prop
  | .sysw o => o.sreg.toNat = n ∧ sysOperand x v o.r
  | .lratioWrite u => n = 0x020 ∧ u = v
  | .trapVecWrite u => n = 0x041 ∧ u = v
  | _ => False

/-- The core group after a request for ratio q (R161): a change begins where it differs and none is under way. -/
def ratioAsked (g : CoreGroup) (q : BitVec 2) : CoreGroup :=
  { g with req := q, phase := if g.phase = none ∧ q ≠ g.cur then some .drain else g.phase }

/-- An .E store with a remote home that its die may already read, and that is not yet known to be visible to all agents (R83, R87). -/
def storeOpen (r : Req) : Prop :=
  r.kind = .storeE ∧ r.remote = true ∧ (r.phase = .accepted ∨ r.phase = .global ∨ ∃ v fl, r.phase = .performed (.value v fl))

/-- Some lanes of a warp have neither written nor read the value of an .E store that is still open (R87). -/
def noneOpen (s : State) (w : Warp) (on : Fin 32 → Bool) : Prop :=
  ∀ r ∈ s.reqs, storeOpen r →
    (r.frag.core = w.core → r.frag.slot = w.slot → on r.lane = false) ∧
    ∀ d ∈ r.readers, d.1 = w.core → d.2.1 = w.slot → ∀ l, inMask d.2.2 l = true → on l = false

/-- Nothing stands in the way of a release of any scope by a fragment (R87, R100). -/
def releaseFree (s : State) (x : Focus) : Prop :=
  (∀ l, inMask x.f.lanes l = true → x.f.lostAcks[l] = none) ∧ noneOpen s x.w (inMask x.f.lanes)

/-- The warp with a scalar written and present. -/
def wroteS (w : Warp) (d : Fin 32) (v : W64) : Warp := { w with s := w.s.set d v, sPresent := w.sPresent ||| (1#32 <<< d.val) }

end Sys2Proof.Claims

/-- R176: SYSR writes the register's value, low half in the register and, for a 64-bit register, high half in its partner, in
every lane of the fragment; or in a scalar.

The fields that log 24 names are the model's reading. -/
def Obligations.SystemRegisterReads : Prop :=
  ∀ (s : State) (x : Focus) (o : SysOp) (ow : Owner), meetReady s x (.sysr o) → s.owner? x.w = some ow →
    ((o.sreg = 0x010#12 ∨ o.sreg = 0x012#12) → s.matrixPending x.w = false) →
      let v := s.sysRead ow x.w x.f o.sreg.toNat
      (∀ f, sysRow o.sreg.toNat s x ow = some f → ∀ l, v l = f l) ∧
        (∀ r, o.r = .g r →
          let g1 := x.w.g.set r (gAfter x.w.g[r] (inMask x.f.lanes) fun l => (v l).setWidth 32)
          let g2 := if sysWide o.sreg then
              g1.set (gPartner r) (gAfter g1[gPartner r] (inMask x.f.lanes) fun l => (v l).extractLsb' 32 32) else g1
          exec (.sysr o) s = .next (finishMeeting s { x.w with g := g2 } x.f x.c.next)) ∧
        (∀ r l, o.r = .s r → isLowest x.f.lanes l →
          exec (.sysr o) s = .next (finishMeeting s (wroteS x.w r (v l)) x.f x.c.next))

/-- R177: a write of a warp's register changes that register alone; R174: TRAP.CAUSE clears the bits written as 1, in handler
mode alone; R143: TRAP.VEC takes an address that the target bitmap lists, or zero, and an unlisted one takes UNLISTED-TARGET;
R161: LRATIO asks for a ratio, at most CAP, and takes PRIVILEGE without the grant. -/
def Obligations.SystemRegisterWrites : Prop :=
  ∀ (s : State) (x : Focus) (i : Instr) (n : Nat) (v : W64), s.focus? = some x → i.wf = true → x.c.covered = false →
    writesSys x n v i →
      (∀ w', sysWarp n v x.w = some w' → exec i s = .next (finishMeeting s w' x.f x.c.next)) ∧
      (n = 0x040 → exec i s = .next (finishMeeting s x.w
        { x.f with causes := if x.f.handler then x.f.causes &&& ~~~v else x.f.causes } x.c.next)) ∧
      (n = 0x041 → let a : W64 := 0#7 ++ v.extractLsb' 2 55 ++ 0#2
        ((a = 0 ∨ s.listed x.w a.toNat = true) → exec i s = .next (finishMeeting s { x.w with trapVec := a } x.f x.c.next)) ∧
        (a ≠ 0 → s.listed x.w a.toNat = false → mayTrap s x →
          ∃ t, exec i s = .next t ∧ enteredHandler s t x 10 0 fun _ => a)) ∧
      (n = 0x020 → let cg := cgOfCore x.w.core
        let q := v.extractLsb' 2 2
        let cgs := s.cgs.set cg (ratioAsked s.cgs[cg] (if (s.capOf cg).ult q then s.capOf cg else q))
        ((s.partOf x.w).any (fun p => p.lrGrant) = true →
          (q = 3#2 → exec i s = .next (finishMeeting s x.w x.f x.c.next)) ∧
          (q ≠ 3#2 → exec i s = .next (finishMeeting { s with cgs := cgs } x.w x.f x.c.next))) ∧
        ((s.partOf x.w).any (fun p => p.lrGrant) = false → mayTrap s x →
          ∃ t, exec i s = .next t ∧ enteredHandler s t x 29 0 fun _ => 0))

/-- R396-R399: PHINT has no effect without a save request; with one, the warp is taken with the fragment after it, and the
maps of a PHINT that speaks for the whole warp govern the save. R325: TLREAD reads a counter; TLWAIT waits for it to reach a
value. R389-R391: LAUNCH appends a record to a queue, or writes 0 where it is full; SUCC marks the gang; PWAIT gives the first
nonzero status of its slots once all are met, and waits till then. -/
def Obligations.HintsWaitsAndQueues : Prop :=
  ∀ (s : State) (x : Focus),
    (∀ i, (i = .phintAll ∨ ∃ g m, i = .phint g m) → meetReady s x i →
      (∀ u, s.unitOfWarp x.w = some u → u.requested = none) →
        exec i s = .next (finishMeeting s x.w x.f x.c.next)) ∧
    (∀ i maps u, ((i = .phintAll ∧ maps = none) ∨ ∃ g m, i = .phint g m ∧ maps = some (x.w.s[g], x.w.s[m])) → meetReady s x i →
      s.unitOfWarp x.w = some u → u.requested.isSome = true → s.cgs[cgOfCore x.w.core].phase = none →
        ∃ t w', exec i s = .next t ∧ t.warp? x.c.core x.c.slot = some w' ∧ w'.preTaken = true ∧
          w'.preMaps = if x.w.frags.length = 1 ∧ x.f.lanes = ~~~x.w.retired ∧ x.f.handler = false then maps else none) ∧
    (∀ b d h k n, meetReady s x (.tlread b d h) → s.warpCtx x.w x.w.s[h] = some k → s.counterOf k = some n →
      exec (.tlread b d h) s = .next (finishMeeting s (wroteS x.w d (BitVec.ofNat 64 n)) x.f x.c.next)) ∧
    (∀ b d h v k n, meetReady s x (.tlwait b d h v) → (∀ k u e p, x.f.status ≠ .waiting (.timeline k u e p)) →
      s.warpCtx x.w x.w.s[h] = some k → s.counterOf k = some n →
      ((x.w.s[v]).toNat ≤ n →
        exec (.tlwait b d h v) s = .next (finishMeeting s (wroteS x.w d (BitVec.ofNat 64 n)) x.f x.c.next)) ∧
      (n < (x.w.s[v]).toNat →
        exec (.tlwait b d h v) s = .next (put s x.w { x.f with status := .waiting (.timeline k x.w.s[v] d x.c.next) }))) ∧
    (∀ b d q r vi k qu bs s1, meetReady s x (.launch b d q r) → s.warpCtx x.w x.w.s[q] = some (.queue vi k) →
      s.queue? vi k = some qu → qu.dev = true →
      s.recordRead (s.agentOf x.w (firstLane x.f.lanes)) (lateWait s x) x.w.s[r] 256 = .ok (bs, s1) →
      (qu.tail < qu.head + 2 ^ qu.log2n → releaseFree s1 x → exec (.launch b d q r) s = .next
        (finishMeeting (s1.append qu bs) (wroteS x.w d (BitVec.ofNat 64 (qu.tail + 1))) x.f x.c.next)) ∧
      (qu.tail ≥ qu.head + 2 ^ qu.log2n →
        exec (.launch b d q r) s = .next (finishMeeting s1 (wroteS x.w d 0) x.f x.c.next))) ∧
    (∀ b g, meetReady s x (.succ b) → s.gangOf x.w = some g →
      let gangs := s.gangs.map fun k => if k.id = g then { k with succ := true } else k
      exec (.succ b) s = .next (finishMeeting { s with gangs := gangs } x.w x.f x.c.next)) ∧
    (∀ i d slots ow, ((∃ b n, i = .pwait b d n ∧ slots = [n.val]) ∨ ∃ b, i = .pwaitAll b d ∧ slots = [0, 1, 2, 3]) →
      meetReady s x i → s.owner? x.w = some ow →
      let ds := slots.map fun n => (ow.launch.deps[n]?).getD none
      (s.depsMet ds = true → exec i s = .next (finishMeeting s
        (wroteS x.w d (BitVec.ofNat 64 (((ds.map s.depStatus).find? (· != 0)).getD 0))) x.f x.c.next)) ∧
      (s.depsMet ds = false → ∃ t y, exec i s = .next t ∧ t.focus? = some y ∧ y.w.s = x.w.s ∧
        ∃ since out, y.f.status = .waiting (.retry since out)))

/-! ### Warp-wide instructions -/

namespace Sys2Proof.Claims

/-- A warp-wide instruction acts at once: no other lane is awaited, or the fragment is in handler mode (R215, R216). -/
def actsAtOnce (x : Focus) : Prop := convergedAlone x ∨ x.f.handler = true

/-- A predicate with bit c in some lanes, present there. -/
def votedP (w : Warp) (d : Fin 8) (m : Mask) (c : Bool) : Warp :=
  let p := w.p.set d (if c then w.p[d] ||| m else w.p[d] &&& ~~~m)
  { w with p := p, pPresent := w.pPresent.set d (w.pPresent[d] ||| m) }

/-- The lane whose value a lane receives (R229): its source by the mode and the low six bits of its operand, where that lane is
active; itself otherwise. -/
def sourceLane (w : Warp) (m : Mask) (mode : ShflMode) (src : Src) (l : Fin 32) : Fin 32 :=
  let n := ((ofSrc .n32 w l src).setWidth 6).toNat
  let k : Option Nat := match mode with
    | .idx => some (n % 32)
    | .up => if n ≤ l.val then some (l.val - n) else none
    | .down => if l.val + n < 32 then some (l.val + n) else none
    | .xor => some (l.val ^^^ (n % 32))
  match k with
  | some k => if m.getLsbD k then Fin.ofNat 32 k else l
  | none => l

/-- The lanes that contribute to a reduction (R230). -/
def givers (x : Focus) : Option (Fin 8) → Mask
  | none => x.f.lanes
  | some p => x.f.lanes &&& x.w.p[p]

/-- The values of the contributing lanes, in lane order. -/
def givenVals (w : Warp) (t : Ty) (a : Fin 8) (m : Mask) : List (BitVec t.width) :=
  ((List.finRange 32).filter fun l => m.getLsbD l.val).map (accOf t w a)

/-- The result of an integer reduction (R230): the exact sum modulo 2^w, the extreme value, the bits of all; the identity of
none. -/
def reducesTo (op : RedOp) (t : Ty) (vs : List (BitVec t.width)) (r : BitVec t.width) : Prop :=
  match op with
  | .add => r = vs.foldl (· + ·) 0
  | .and => r = vs.foldl (· &&& ·) (BitVec.allOnes t.width)
  | .or => r = vs.foldl (· ||| ·) 0
  | .xor => r = vs.foldl (· ^^^ ·) 0
  | .min | .mini => if t.isSigned then (∀ v ∈ vs, r.toInt ≤ v.toInt) ∧ (vs ≠ [] → r ∈ vs) ∧ (vs = [] → r = BitVec.intMax t.width)
      else (∀ v ∈ vs, r.toNat ≤ v.toNat) ∧ (vs ≠ [] → r ∈ vs) ∧ (vs = [] → r = BitVec.allOnes t.width)
  | .max | .maxi => if t.isSigned then (∀ v ∈ vs, v.toInt ≤ r.toInt) ∧ (vs ≠ [] → r ∈ vs) ∧ (vs = [] → r = BitVec.intMin t.width)
      else (∀ v ∈ vs, v.toNat ≤ r.toNat) ∧ (vs ≠ [] → r ∈ vs) ∧ (vs = [] → r = 0)

/-- The reduction of some values (R230, R231), with the flags it raises. -/
def reduced (op : RedOp) (t : Ty) (vs : List (BitVec t.width)) : FRes := reduceVals op t (vs.map BitVec.toNat)

/-- The lane that holds the result of MINI or MAXI (R230). -/
def holderOf (t : Ty) (r : Nat) (w : Warp) (a : Fin 8) (m : Mask) : Nat :=
  reduceIndex t r (((List.finRange 32).filter fun l => m.getLsbD l.val).map fun l => (l, (accOf t w a l).toNat))

/-- The lanes that give to a lane's prefix (R232). -/
def upTo (m : Mask) (exclusive : Bool) (l : Fin 32) : Mask :=
  m &&& maskOf fun j => if exclusive then decide (j < l) else decide (j ≤ l)

/-- A warp-wide instruction that raises an enabled flag (R73, R227): FPEXC in every lane, and no register written. -/
def fpTrapped (s : State) (x : Focus) (n : Nat) : State :=
  raisePlain s { x with w := { x.w with
    fpstat := x.w.fpstat ||| BitVec.ofNat 32 n, fptrig := x.w.fptrig ||| (BitVec.ofNat 32 n &&& x.w.fpen) } } .meeting 16

/-- The warp with flags joined to FPSTAT. -/
def withFlags (w : Warp) (n : Nat) : Warp := { w with fpstat := w.fpstat ||| BitVec.ofNat 32 n }

end Sys2Proof.Claims

/-- R227-R229: VOTE.ALL, VOTE.ANY, VOTE.BALLOT and VOTE.EQ over the active lanes; SHFL gives each lane the value of its source
lane.

R230-R232: REDUCE gives every active lane, or a scalar, the reduction of the contributing lanes' values, with the lowest
lane that holds it for MINI and MAXI; SCAN gives each lane the reduction of the contributing lanes up to it, or below it. Flags
join FPSTAT; an enabled one takes FPEXC in every lane and writes nothing. -/
def Obligations.WarpWideOperations : Prop :=
  (∀ (s : State) (x : Focus) (b : Bool), actsAtOnce x →
    (∀ d r, meetReady s x (.voteAll b d r) → exec (.voteAll b d r) s = .next (finishMeeting s
      (votedP x.w d x.f.lanes (decide (∀ l, inMask x.f.lanes l = true → inMask x.w.p[r] l = true))) x.f x.c.next)) ∧
    (∀ d r, meetReady s x (.voteAny b d r) → exec (.voteAny b d r) s = .next (finishMeeting s
      (votedP x.w d x.f.lanes (decide (∃ l, inMask x.f.lanes l = true ∧ inMask x.w.p[r] l = true))) x.f x.c.next)) ∧
    (∀ d r, meetReady s x (.voteBallot b d r) → exec (.voteBallot b d r) s = .next (finishMeeting s
      (wroteS x.w d ((x.w.p[r] &&& x.f.lanes).setWidth 64)) x.f x.c.next)) ∧
    (∀ a t d, meetReady s x (.voteEq b a t d) → x.w.acc[a].tile = none → exec (.voteEq b a t d) s = .next (finishMeeting s
      (votedP x.w d x.f.lanes (decide (∀ l k, inMask x.f.lanes l = true → inMask x.f.lanes k = true →
        accOf t x.w a l = accOf t x.w a k))) x.f x.c.next)) ∧
    (∀ a src t m, meetReady s x (.shfl b a src t m) → x.w.acc[a].tile = none →
      exec (.shfl b a src t m) s = .next (finishMeeting s (wroteAcc x.w a t (inMask x.f.lanes)
        fun l => accOf t x.w a (sourceLane x.w x.f.lanes m src l)) x.f x.c.next))) ∧
  (∀ (s : State) (x : Focus), actsAtOnce x →
    (∀ o : ReduceOp, meetReady s x (.reduce o) → x.w.acc[o.a].tile = none →
      let vs := givenVals x.w o.t o.a (givers x o.mask)
      let res := reduced o.op o.t vs
      let r : BitVec o.t.width := BitVec.ofNat o.t.width res.bits
      let idx := holderOf o.t res.bits x.w o.a (givers x o.mask)
      (o.t.isFloat = false → res.flags = 0 ∧ reducesTo o.op o.t vs r) ∧
        (o.op = .mini ∨ o.op = .maxi → o.t.isFloat = false →
          (∀ l, isLowest (givers x o.mask &&& maskOf fun j => accOf o.t x.w o.a j == r) l → idx = l.val) ∧
          (givers x o.mask = 0 → idx = 32)) ∧
        (BitVec.ofNat 32 res.flags &&& x.w.fpen ≠ 0 → exec (.reduce o) s = .next (fpTrapped s x res.flags)) ∧
        (BitVec.ofNat 32 res.flags &&& x.w.fpen = 0 →
          let w := withFlags x.w res.flags
          let indexed := o.op = .mini ∨ o.op = .maxi
          let word : W64 := if o.op = .mini ∨ o.op = .maxi then BitVec.ofNat 32 idx ++ (image o.t r).setWidth 32 else image o.t r
          let val := Vector.ofFn fun l => if inMask x.f.lanes l then word else (w.acc[o.a].val)[l]
          (o.dest = none → exec (.reduce o) s = .next (finishMeeting s
            { w with acc := w.acc.set o.a { w.acc[o.a] with val := val } } x.f x.c.next)) ∧
          (∀ d, o.dest = some d → (o.t.is64 = false ∨ ¬ indexed) →
            exec (.reduce o) s = .next (finishMeeting s (wroteS w d word) x.f x.c.next)) ∧
          (∀ d, o.dest = some d → o.t.is64 = true → indexed → exec (.reduce o) s = .next (finishMeeting s
            (wroteS (wroteS w d (image o.t r)) (Fin.ofNat 32 (d.val + 1)) (BitVec.ofNat 64 idx)) x.f x.c.next)))) ∧
    (∀ o : ScanOp, meetReady s x (.scan o) → x.w.acc[o.a].tile = none →
      let vs := fun l => givenVals x.w o.t o.a (upTo (givers x o.mask) o.exclusive l)
      let res := fun l => reduced o.op o.t (vs l)
      let r : Fin 32 → BitVec o.t.width := fun l => BitVec.ofNat o.t.width (res l).bits
      let fl := flagsOf (inMask x.f.lanes) fun l => (res l).flags
      (o.t.isFloat = false → ∀ l, (res l).flags = 0 ∧ reducesTo o.op o.t (vs l) (r l)) ∧
        (fl &&& x.w.fpen ≠ 0 → exec (.scan o) s = .next (fpTrapped s x fl.toNat)) ∧
        (fl &&& x.w.fpen = 0 → exec (.scan o) s = .next (finishMeeting s
          (wroteAcc (withFlags x.w fl.toNat) o.a o.t (inMask x.f.lanes) r) x.f x.c.next))))

/-! ### Memory instructions -/

namespace Sys2Proof.Claims

/-- The address of a lane's access (R112): base, scaled signed index, offset, modulo 2^64. -/
def addressOf (w : Warp) (m : MemOperand) (off : W64) (l : Fin 32) : W64 :=
  w.s[m.s] + (match m.idx with
    | some (g, k) => (w.g[g])[l].signExtend 64 <<< k.val
    | none => 0) + off

/-- What LD, ST, LDNT, STNT and ATOM ask for (R112, R116, R247, R250, R253): strand, guard, kind, type, operand, offset,
whether the address must be aligned, whether a FIFO bank is allowed. -/
def memRow : Instr → Option (Fin 8 × Option Guard × MemOp)
  | .ld o => some (o.a, none, ⟨.load, o.t, o.m, 0, false, true⟩)
  | .st o => some (o.a, none, ⟨.store, o.t, o.m, 0, false, true⟩)
  | .ldnt o => some (o.a, none, ⟨.load, o.t, o.m, 0, false, false⟩)
  | .stnt o => some (o.a, none, ⟨.stnt, o.t, o.m, 0, false, false⟩)
  | .ldExt o => some (o.a, o.grd, ⟨.load, o.t, o.m, o.off.signExtend 64, o.ord != .rlx, o.ord == .rlx⟩)
  | .stExt o => some (o.a, o.grd, ⟨if o.xd then .storeE else .store, o.t, o.m, o.off.signExtend 64, o.ord != .rlx, o.ord == .rlx⟩)
  | .ldntExt o => some (o.a, o.grd, ⟨.load, o.t, o.m, o.off.signExtend 64, o.ord != .rlx, false⟩)
  | .stntExt o => some (o.a, o.grd, ⟨.stnt, o.t, o.m, o.off.signExtend 64, o.ord != .rlx, false⟩)
  | .atom o => some (o.a, o.grd, ⟨.atom o.aop o.t, o.t, o.m, o.off.signExtend 64, true, false⟩)
  | _ => none

/-- The only instruction dispatched at the position of the executing one is itself. -/
def dispatchedAs (x : Focus) (i : Instr) : Prop := ∀ e ∈ x.f.pend, e.pos = x.c.pos → e.instr = i

/-- The agent that a lane of a warp is. -/
def laneAgent (s : State) (w : Warp) (l : Fin 32) : Agent := s.agentOf w (maskOf (· == l))

/-- The access of a lane to a place is made at once: the step leaves no access in flight, the homes of its bytes serve the die, and no
earlier access of the lane or of the instruction is in its way; an .E store only at a home of its own die. An access to a bank is
always made at once. -/
def servedNow (s u : State) (x : Focus) (k : AccKind) (n : Nat) (l : Fin 32) : Loc → Prop
  | .glob va => u.choice.defer = false ∧ u.reaches (laneAgent s x.w l) (.glob va) n = true ∧
      (k = .storeE → ∀ d ∈ u.homesOf (laneAgent s x.w l) (.glob va) n, d = (dieOfCore x.w.core).val) ∧
      u.mustFollow (laneAgent s x.w l) ⟨x.w.core, x.w.slot, x.f.uid⟩ x.c.pos l va n = false
  | .bank _ _ _ => True
  | _ => False

/-- The access of a lane of a WAITA is made now: the homes of its bytes serve the die, and no STNT of the lane is in its way. -/
def lookedAt (s u : State) (x : Focus) (n : Nat) (l : Fin 32) : Loc → Prop
  | .glob va => u.reaches (laneAgent s x.w l) (.glob va) n = true ∧ u.stntOver (laneAgent s x.w l) va n = false
  | .bank _ _ _ => True
  | _ => False

/-- FAULT.ADDR of a lane's access (R236): its address, or the global address that a spill window gives. -/
def reported (o : MemOp) (ea : W64) : Loc → W64
  | .glob va => if o.m.sp then BitVec.ofNat 64 va else ea
  | _ => ea

/-- The accesses of some lanes in turn, from state u to state t, with the value and the flags that each lane receives; the
lane's location is found by the tables and windows of s, and its access may be made `now`. -/
def accessesOf (s : State) (x : Focus) (k : Fin 8) (o : MemOp) (now : State → Fin 32 → Loc → Prop) :
    List (Fin 32) → State → State → (Fin 32 → W64 × Nat) → Prop
  | [], u, t, _ => t = u
  | l :: ls, u, t, v => ∃ loc u1,
      s.laneLoc x.w o (addressOf x.w o.m o.off l) = .ok loc ∧ now u l loc ∧
      u.performAt (laneAgent s x.w l) o.kind loc (reported o (addressOf x.w o.m o.off l) loc) (o.t.width / 8)
        (x.w.acc[k].val)[l] u.choice.stale = (u1, .value (v l).1 (v l).2) ∧
      accessesOf s x k o now ls u1 t v

/-- The lanes of a strand instruction, in ascending order. -/
def activeList (x : Focus) (grd : Option Guard) : List (Fin 32) := (List.finRange 32).filter (active x grd)

/-- An instruction that releases at PACKAGE or SYSTEM has nothing to wait for and no loss to report (R87, R100). -/
def ordersFreely (s : State) (x : Focus) (i : Instr) (grd : Option Guard) : Prop :=
  releasesWide i = true → (∀ l : Fin 32, active x grd l = true → x.f.lostAcks[l] = none) ∧ noneOpen s x.w (active x grd)

/-- The warp after an ATOM (R253): the old value in the active lanes, of CAS all 64 bits with the success bit above it; the
flags of the lanes join FPSTAT. -/
def tookOld (w : Warp) (k : Fin 8) (aop : BitVec 4) (t : Ty) (on : Fin 32 → Bool) (v : Fin 32 → W64 × Nat) : Warp :=
  let w1 := if aop = 7 then wroteAcc w k .n64 on fun l => (v l).1 else wroteAcc w k t on fun l => (v l).1.setWidth t.width
  { w1 with fpstat := w.fpstat ||| flagsOf on fun l => (v l).2 }

/-- The byte at a place. -/
def peek (s : State) : Phys → Byte
  | .pa a => s.mem.byte a
  | .pool l o => ((s.level? l).map fun d => cellRead d.pool o).getD 0
  | .bank c b o => cellRead (s.bank c b).data o

/-- A byte of a page-table entry that the access used: its A and D bits may be set (R415). -/
def inTables (ps : List (Phys × Option (Nat × Xlate))) (a : Nat) : Prop :=
  ∃ p ∈ ps, ∃ y, p.2 = some y ∧ y.2.pteAt ≤ a ∧ a < y.2.pteAt + 8

/-- The smaller or larger of two integers of a type (R184): m where neither is. -/
def pickOf (larger : Bool) (t : Ty) (m v : BitVec t.width) : BitVec t.width :=
  let less : BitVec t.width → BitVec t.width → Bool := fun a b => if t.isSigned then a.slt b else a.ult b
  if (if larger then less m v else less v m) then v else m

/-- The new value of an ATOM other than CAS (R252), for the integer types. -/
def newValue (aop : BitVec 4) (t : Ty) (m v : BitVec t.width) : BitVec t.width :=
  if aop = 0 then m + v
  else if aop = 1 then pickOf false t m v
  else if aop = 2 then pickOf true t m v
  else if aop = 3 then m &&& v
  else if aop = 4 then m ||| v
  else if aop = 5 then m ^^^ v
  else if aop = 6 then v
  else if m.toNat ≥ v.toNat then 0 else m + 1

/-- The number whose little-endian bytes stand at places. -/
def numberAt (s : State) (ps : List Phys) : Nat := leNat (ps.map (peek s))

end Sys2Proof.Claims

/-- R236, R249, R250, R253: the accesses of the active lanes are made in ascending lane order; LD, LDNT and ATOM leave what they
receive in the accumulator and nothing else in the registers; ST and STNT leave every register as it was.

That an access is made in the step of its instruction is the model's choice (log 2). -/
def Obligations.LoadsAndStores : Prop :=
  ∀ (s t : State) (x : Focus) (i : Instr) (k : Fin 8) (grd : Option Guard) (o : MemOp) (v : Fin 32 → W64 × Nat),
    memRow i = some (k, grd, o) → strandReady s x i grd → x.w.acc[k].tile = none → dispatchedAs x i → ordersFreely s x i grd →
    accessesOf s x k o (fun u => servedNow s u x o.kind (o.t.width / 8)) (activeList x grd) s t v →
      (o.kind = .load → exec i s = .next (finishStrand t x.c
        (wroteAcc x.w k o.t (active x grd) fun l => (v l).1.setWidth o.t.width) x.f k)) ∧
      (o.kind = .store ∨ o.kind = .storeE ∨ o.kind = .stnt → exec i s = .next (finishStrand t x.c x.w x.f k)) ∧
      (∀ aop ty, o.kind = .atom aop ty →
        exec i s = .next (finishStrand t x.c (tookOld x.w k aop ty (active x grd) v) x.f k))

/-- R83, R249, R252, R253: an access that succeeds reads and writes the bytes at its places, little-endian; every other byte of
memory reads as before but the entries of the page tables it used; no warp changes. -/
def Obligations.AccessAtItsPlace : Prop :=
  ∀ (s u : State) (ag : Agent) (kind : AccKind) (loc : Loc) (addr data v : W64) (n fl : Nat) (stale : Bool),
    s.performAt ag kind loc addr n data stale = (u, .value v fl) → s.mem.wf = true → s.forwards = [] → s.mem.indet = [] →
    u.warps = s.warps ∧ u.cursor = s.cursor ∧
    ∃ pxs, s.placesOf ag kind.xkind stale loc n = .ok pxs ∧
      (∀ a, ¬inTables pxs a → (kind = .load ∨ Phys.pa a ∉ pxs.map Prod.fst) → u.mem.byte a = s.mem.byte a) ∧
      ((∀ a, Phys.pa a ∈ pxs.map Prod.fst → ¬inTables pxs a) →
        (kind = .load → v = BitVec.ofNat 64 (numberAt s (pxs.map Prod.fst)) ∧ fl = 0) ∧
        (∀ as : List Nat, pxs.map Prod.fst = as.map Phys.pa → as.Nodup →
          (kind = .store ∨ kind = .storeE ∨ kind = .stnt → numberAt u (pxs.map Prod.fst) = data.toNat % 256 ^ as.length) ∧
          (∀ aop t, kind = .atom aop t → as.length = t.width / 8 → t.isFloat = false → 8 ≤ t.width → aop ≠ 7 →
            v = BitVec.ofNat 64 (numberAt s (pxs.map Prod.fst)) ∧ fl = 0 ∧
            numberAt u (pxs.map Prod.fst) =
              (newValue aop t (BitVec.ofNat t.width (numberAt s (pxs.map Prod.fst))) (data.setWidth t.width)).toNat) ∧
          (∀ t, kind = .atom 7 t → as.length = 4 →
            let m := numberAt s (pxs.map Prod.fst)
            if m = data.toNat % 2 ^ 32 then
              v = 1#32 ++ BitVec.ofNat 32 m ∧ numberAt u (pxs.map Prod.fst) = (data.extractLsb' 32 32).toNat
            else v = 0#32 ++ BitVec.ofNat 32 m ∧ numberAt u (pxs.map Prod.fst) = m)))

/-! ### Scalar loads, waits on memory, fences, barrier objects -/

namespace Sys2Proof.Claims

/-- What WAITA reads in a lane (R254). -/
def waitaOp (o : LmQ) : MemOp := ⟨.load, o.t, o.m, o.off.signExtend 64, true, false⟩

/-- A condition of WAITA (R254), by its number. -/
def waitaCond (n : BitVec 4) : Cond :=
  if n = 0 then .eq else if n = 1 then .ne else if n = 2 then .lt else if n = 3 then .le else if n = 4 then .gt else .ge

/-- A barrier object (R321): phase, error, count, pending arrivals, pending bytes. -/
def objectWord (phase err : BitVec 1) (count pend : BitVec 15) (bytes : W32) : W64 :=
  phase ++ err ++ count ++ pend ++ bytes

/-- The object after a step (R322): with no arrival and no byte pending its phase completes. -/
def objectAfter (phase err : BitVec 1) (count pend : BitVec 15) (bytes : W32) : W64 :=
  if pend = 0 ∧ bytes = 0 then objectWord (~~~phase) err count count 0 else objectWord phase err count pend bytes

/-- The object at a scratchpad address stands at eight places that the lanes may reach, in global memory without an uncorrectable error
and with no STNT of the lanes in the way; `t` is the state with the translations used. -/
def objectAt (s : State) (x : Focus) (addr : W64) (kind : XKind) (ps : List Phys) (t : State) : Prop :=
  ∃ loc pxs, s.resolveLane x.w true addr 8 true = .ok loc ∧ (∀ c b o, loc ≠ .fifo c b o) ∧ loc ≠ .switching ∧
    (∀ va, loc = .glob va → s.stntOver (s.agentOf x.w x.f.lanes) va 8 = false ∧ ∀ p ∈ ps, s.badUnit p = false) ∧
    s.serves (dieOfCore x.w.core).val (s.homeDie (s.agentOf x.w x.f.lanes) loc) = true ∧
    s.placesOf (s.agentOf x.w x.f.lanes) kind s.choice.stale loc 8 = .ok pxs ∧ ps = pxs.map Prod.fst ∧
    t = s.useAll (s.agentOf x.w x.f.lanes) kind pxs

/-- A state in which no forwarded value and no indeterminate byte stands: memory reads as written. -/
def settledMemory (s : State) : Prop := s.mem.wf = true ∧ s.forwards = [] ∧ s.mem.indet = []

end Sys2Proof.Claims

/-- R130: SLD loads 64 bits into a scalar. R251, R87: FENCE goes on where no .E store that its lanes have written or read is on its
way and no loss stands, or at once at a narrower scope; DRAIN where no STNT of the fragment is on its way and none has faulted. R254, R255: WAITA goes on
where every active lane finds its condition, the memory value on the left, and leaves the value in the accumulator.

That an access is made in the step of its instruction is the model's choice (log 2). -/
def Obligations.ScalarLoadsAndWaits : Prop :=
  ∀ (s : State) (x : Focus),
    (∀ i b d a (off : W64), ((∃ o : BitVec 11, i = .sld b d a o ∧ off = o.signExtend 64) ∨
        ∃ o : BitVec 30, i = .sldExt b d a o ∧ off = o.signExtend 64) → meetReady s x i →
      let addr := x.w.s[a] + off
      let ag := s.agentOf x.w x.f.lanes
      ∀ t v fl, addr.toNat < 2 ^ 57 → s.stntOver ag addr.toNat 8 = false → s.reaches ag (.glob addr.toNat) 8 = true →
        s.performAt ag .load (.glob addr.toNat) addr 8 0 s.choice.stale = (t, .value v fl) →
          exec i s = .next (finishMeeting t (wroteS x.w d v) x.f x.c.next)) ∧
    (∀ b sc, meetReady s x (.fence b sc) → ((sc = .package ∨ sc = .system) → releaseFree s x) →
      exec (.fence b sc) s = .next (finishMeeting s x.w x.f x.c.next)) ∧
    (∀ b sc, meetReady s x (.drain b sc) → x.f.stntFaults = [] →
      (∀ r ∈ s.reqs, r.kind = .stnt → r.frag.core = x.w.core → r.frag.slot = x.w.slot → inMask x.f.lanes r.lane = false) →
        exec (.drain b sc) s = .next (finishMeeting s x.w x.f x.c.next)) ∧
    (∀ o t v, meetReady s x (.waita o) → x.w.acc[o.a].tile = none → (∀ m sat ob n, x.f.status ≠ .waiting (.waita m sat ob n)) →
      let on : Fin 32 → Bool := fun l => inMask x.f.lanes l && (match o.grd with
        | none => true
        | some g => inMask x.w.p[g.p] l != g.n)
      accessesOf s x o.a (waitaOp o) (fun u => lookedAt s u x (o.t.width / 8)) ((List.finRange 32).filter on) s t v →
      (∀ l, on l = true → intHolds o.t (waitaCond o.aop) ((v l).1.setWidth o.t.width) (accOf o.t x.w o.a l) = true) →
        exec (.waita o) s = .next (finishMeeting t (wroteAcc x.w o.a o.t on fun l => (v l).1.setWidth o.t.width) x.f x.c.next))

/-- R321-R324: BOINIT writes a fresh object; BOEXP takes an arrival and expects bytes, and completes the phase when nothing is
pending; BOWAIT gives the object's word once its phase is no longer the one named, and waits till then. -/
def Obligations.BarrierObjects : Prop :=
  ∀ (s t : State) (x : Focus) (ps : List Phys), settledMemory s →
    (∀ b a c, meetReady s x (.boinit b a c) → objectAt s x x.w.s[a] .write ps t →
      let n : BitVec 15 := (x.w.s[c]).setWidth 15
      let m : BitVec 15 := if n = 0 then 1 else n
      exec (.boinit b a c) s = .next (finishMeeting
        (t.putBytes (s.asidOf x.w) ps (leBytes 8 (objectWord 0 0 m m 0).toNat)) x.w x.f x.c.next)) ∧
    (∀ b a c na, meetReady s x (.boexp b a c na) → objectAt s x x.w.s[a] .atom ps t →
      let w : W64 := BitVec.ofNat 64 (numberAt t ps)
      let pend := w.extractLsb' 32 15
      (na = false → pend ≠ 0) →
      exec (.boexp b a c na) s = .next (finishMeeting (t.putBytes (s.asidOf x.w) ps
        (leBytes 8 (objectAfter (w.extractLsb' 63 1) (w.extractLsb' 62 1) (w.extractLsb' 47 15) (if na then pend else pend - 1)
          (w.setWidth 32 + (x.w.s[c]).setWidth 32)).toNat)) x.w x.f x.c.next)) ∧
    (∀ b d a n, meetReady s x (.bowait b d a n) → objectAt s x x.w.s[a] .read ps t →
      let w : W64 := BitVec.ofNat 64 (numberAt t ps)
      (w.getLsbD 63 ≠ n → exec (.bowait b d a n) s = .next (finishMeeting t (wroteS x.w d w) x.f x.c.next)) ∧
      (w.getLsbD 63 = n → ∃ u y, exec (.bowait b d a n) s = .next u ∧ u.focus? = some y ∧ y.w.s = x.w.s ∧
        ∃ since out, y.f.status = .waiting (.retry since out)))

/-! ### Ranges of an address space; banks and windows -/

namespace Sys2Proof.Claims

/-- An address lies in a unit that the range inUnits (R427). -/
def inUnits (base len unit va : Nat) : Bool := decide (base / unit ≤ va / unit ∧ va / unit ≤ (base + len - 1) / unit)

/-- The state in which the executing fragment waits for every die's acknowledgement of its range operation. -/
def awaitsAcks (s u : State) (x : Focus) : State :=
  let ops := s.ranges ++ [⟨s.nextId, ⟨x.w.core, x.w.slot, x.f.uid⟩, x.c.pos⟩]
  put { u with ranges := ops, nextId := s.nextId + 1 } x.w { x.f with status := .waiting (.retry s.time none) }

/-- The code words of a range are no longer in any code store. -/
def withoutCode (s : State) (asid base len : Nat) : State :=
  let cgs := Vector.ofFn fun g : Fin 64 =>
    let store := s.cgs[g].store.filter fun e => !(e.asid == asid && inUnits base len 128 (e.wa * 4))
    { s.cgs[g] with store := store }
  { s with cgs := cgs }

/-- No dirty byte of a range is left. -/
def cleaned (s : State) (r : AsRange) : State :=
  let dirty := s.mem.dirty.filter fun d => !s.inRange r d.1
  { s with mem := { s.mem with dirty := dirty } }

/-- The translations of a range are no longer cached, and no core group holds a region entry that the range meets (R95, R414). -/
def withoutXlates (s : State) (asid base len : Nat) : State :=
  let tc := s.tcache.filter fun t => !(t.asid == asid && inUnits base len (2 ^ 16) (t.page * 2 ^ 16))
  let rs := s.regions.filter fun e => !(e.asid == asid && inUnits base len (2 ^ 30) (e.region * 2 ^ 30))
  { s with tcache := tc, regions := rs }

/-- A range instruction: base and length registers, the address space, whether it releases first, and its action. -/
structure RRow where
  a : Fin 32
  l : Fin 32
  asid : Nat
  rel : Bool
  act : State → Nat → Nat → State

/-- ICINV, VINV, VINV.AS, CFLUSH, CFLUSH.INV (R427-R432). -/
def rangeRow (s : State) (x : Focus) : Instr → Option RRow
  | .icinv _ a l => some ⟨a, l, s.asidOf x.w, false, fun s b n => withoutCode s (s.asidOf x.w) b n⟩
  | .vinv _ a l => some ⟨a, l, s.asidOf x.w, true, fun s b n =>
      withoutXlates (cleaned s ⟨s.asidOf x.w, b, n, 2 ^ 16⟩) (s.asidOf x.w) b n⟩
  | .vinvAs _ a l n =>
    if (x.w.s[n]).toNat < 2 ^ 16 ∧ s.servesSpace x.w (some (x.w.s[n]).toNat) = true then
      some ⟨a, l, (x.w.s[n]).toNat, true, fun s b k =>
        withoutXlates (cleaned s ⟨(x.w.s[n]).toNat, b, k, 2 ^ 16⟩) (x.w.s[n]).toNat b k⟩
    else none
  | .cflush _ a l => some ⟨a, l, s.asidOf x.w, true, fun s b n => cleaned s ⟨s.asidOf x.w, b, n, 128⟩⟩
  | .cflushInv _ a l => some ⟨a, l, s.asidOf x.w, true, fun s b n => cleaned s ⟨s.asidOf x.w, b, n, 128⟩⟩
  | _ => none

/-- BANKMODE: bank and mode (R244). -/
def bankRow : Instr → Option (Fin 12 × BankMode)
  | .bankmodeCache _ n => some (n, .cache)
  | .bankmodeScratch _ n => some (n, .scratch)
  | .bankmodeFifo _ n => some (n, .fifo)
  | _ => none

/-- A bank switch is refused with a code (R245): another holder; a FIFO with words or accesses; the last CACHE bank that
stays one. -/
def switchRefused (s : State) (x : Focus) (n : Fin 12) (m : BankMode) : Option Nat :=
  let b := s.bank x.w.core n
  if b.holder ≠ none ∧ b.holder ≠ some (.block x.w.block) then some 1
  else if b.mode = .fifo ∧ m ≠ .fifo ∧ ¬(b.fifo = [] ∧ b.pushes = [] ∧ b.pops = []) then some 2
  else if b.mode = .cache ∧ m ≠ .cache ∧
      ((List.finRange 12).filter fun k => decide ((s.bank x.w.core k).mode = .cache ∧ (s.bank x.w.core k).switching = none)).length = 1
    then some 3
  else none

/-- No BANKMODE that reached a bank of the core before a time waits for it (R246). -/
def bankFree (s : State) (x : Focus) (n : Fin 12) (order : Nat) : Prop :=
  ∀ w ∈ s.warps, w.core = x.w.core → ∀ f ∈ w.frags, ∀ o b, f.status = .waiting (.switch n o b) → order ≤ o

/-- The state with another bank. -/
def withBank (s : State) (core : Nat) (n : Fin 12) (b : Bank) : State :=
  let c := coreFin core
  let banks := s.cores[c].banks.set n b
  { s with cores := s.cores.set c { s.cores[c] with banks := banks } }

/-- The checks of SPMAP on a window (R241): reserved bits zero, a field only where the kind has it, the bank below 12. -/
def goodWindow (v : W64) : Prop :=
  let kind := v.extractLsb' 62 2
  v.extractLsb' 57 5 = 0 ∧ v.extractLsb' 10 2 = 0 ∧ (kind = 2 ∨ v.extractLsb' 16 41 = 0) ∧
    (kind = 3 ∨ v.extractLsb' 4 6 = 0) ∧ (kind = 1 ∨ v.extractLsb' 0 4 = 0) ∧ (v.extractLsb' 0 4).toNat < 12

end Sys2Proof.Claims

/-- R427-R432: an empty range has no effect; ICINV takes the range's words out of every code store; CFLUSH, CFLUSH.INV and VINV
leave no dirty byte of the range; VINV and VINV.AS leave no cached translation of its pages; the fragment waits until every die
has acknowledged, and then goes on after the instruction.

That the range is dealt with on every die when the instruction executes is the model's choice (log 26). -/
def Obligations.RangeOperations : Prop :=
  (∀ (s : State) (x : Focus) (i : Instr) (r : RRow), meetReady s x i → rangeRow s x i = some r → x.f.status = .ready →
    (∀ k ∈ s.ranges, k.frag ≠ ⟨x.w.core, x.w.slot, x.f.uid⟩) → (r.rel = true → releaseFree s x) → s.mem.poison = [] →
    let base := (x.w.s[r.a]).toNat
    let len := (x.w.s[r.l]).toNat
    (len = 0 → exec i s = .next (finishMeeting s x.w x.f x.c.next)) ∧
    (0 < len → len < 2 ^ 40 → base < 2 ^ 57 → base + len ≤ 2 ^ 57 →
      exec i s = .next (awaitsAcks s (r.act s base len) x))) ∧
  (∀ (s : State) (r : RangeOp) (w : Warp) (f : Fragment) (i : Instr) (next : Pos), s.ranges.find? (fun k => k.id == r.id) = some r →
    (∀ d : Fin 4, s.dies[d].ready = true → s.route (dieOfCore r.frag.core).val d.val = true) →
    s.warp? r.frag.core r.frag.slot = some w → w.frag? r.frag.uid = some f →
    s.peek (cgOfCore w.core) (s.asidOf w) r.pos = .instr i next →
    let left := s.ranges.filter fun k => k.id != r.id
    exec (.rangeAckComplete r.id) s =
      .next (put { s with ranges := left } w { f.atFence next with status := .ready, age := s.clock }))

/-- R244-R246: a bank in the mode asked for and held by the block stays; a switch is refused with BANKFAULT and its code, or it
starts and the fragment waits, and goes on once it is complete; the bank switched is empty, held by the block or, a CACHE way,
by none. R241: SPMAP sets a window, and BANKFAULT with code 4 refuses a malformed one. -/
def Obligations.BanksAndWindows : Prop :=
  (∀ (s : State) (x : Focus) (i : Instr) (n : Fin 12) (m : BankMode), meetReady s x i → bankRow i = some (n, m) →
    (s.bank x.w.core n).switching = none → x.f.status = .ready → bankFree s x n s.clock →
    let b := s.bank x.w.core n
    let same := b.mode = m ∧ (m = .cache ∨ b.holder = some (.block x.w.block))
    (same → exec i s = .next (finishMeeting s x.w x.f x.c.next)) ∧
    (¬same → ∀ code, switchRefused s x n m = some code → mayTrap s x →
      ∃ t, exec i s = .next t ∧ enteredHandler s t x 25 (BitVec.ofNat 16 code) fun _ => 0) ∧
    (¬same → switchRefused s x n m = none →
      exec i s = .next (put (withBank s x.w.core n { b with switching := some (m, some (.block x.w.block)) }) x.w
        { x.f with status := .waiting (.switch n s.clock true) }))) ∧
  (∀ (s : State) (x : Focus) (i : Instr) (n : Fin 12) (m : BankMode) (o : Nat), meetReady s x i → bankRow i = some (n, m) →
    (s.bank x.w.core n).switching = none → x.f.status = .waiting (.switch n o true) → bankFree s x n o →
      exec i s = .next (finishMeeting s x.w x.f x.c.next)) ∧
  (∀ (s : State) (core : Fin 256) (n : Fin 12) (m : BankMode) (h : Option Holder), (s.bank core.val n).switching = some (m, h) →
    ∃ t, exec (.bankSwitchComplete core n) s = .next t ∧ (∀ a, a / 32 ∉ s.mem.poison → t.mem.byte a = s.mem.byte a) ∧
      t.bank core.val n = ⟨m, if m = .cache then none else h, [], [], 0, [], [], none⟩) ∧
  (∀ (s : State) (x : Focus) (b : Bool) (sr : Fin 32) (k : Fin 16), meetReady s x (.spmap b sr k) →
    (goodWindow x.w.s[sr] →
      let bl := s.blocks.map fun j => if j.id = x.w.block then { j with windows := j.windows.set k x.w.s[sr] } else j
      exec (.spmap b sr k) s = .next (finishMeeting { s with blocks := bl } x.w x.f x.c.next)) ∧
    (¬goodWindow x.w.s[sr] → mayTrap s x →
      ∃ t, exec (.spmap b sr k) s = .next t ∧ enteredHandler s t x 25 4 fun _ => 0))

/-! ### Barriers -/

namespace Sys2Proof.Claims

/-- A barrier instruction: its barrier, form, expected count, and value. -/
structure BarRow where
  key : BarKey
  form : BarForm
  count : Option Nat
  value : Option BarValue

/-- The barrier of a level (R256): block, gang, die, grid; none beyond the launch's depth. -/
def levelBar (s : State) (x : Focus) (n : Nat) (form : BarForm) (v : Option BarValue) : Option BarRow :=
  match s.owner? x.w with
  | none => none
  | some o =>
    if o.launch.depth < n then none
    else some ⟨if n = 0 then .block o.block.id else if n = 1 then .gang o.gang.id else if n = 2 then .die o.level.id
      else .grid o.launch.id, form, none, v⟩

/-- BAR in its twelve forms (R256), DBAR and XBAR with and without a value (R350, R351). -/
def barRow (s : State) (x : Focus) : Instr → Option BarRow
  | .bar _ => levelBar s x 0 .sync none
  | .barArrive _ => levelBar s x 0 .arrive none
  | .barWait _ => levelBar s x 0 .wait none
  | .barGang _ => levelBar s x 1 .sync none
  | .barArriveGang _ => levelBar s x 1 .arrive none
  | .barWaitGang _ => levelBar s x 1 .wait none
  | .barLvl _ r => levelBar s x ((x.w.s[r]).extractLsb' 0 2).toNat .sync none
  | .barArriveLvl _ r => levelBar s x ((x.w.s[r]).extractLsb' 0 2).toNat .arrive none
  | .barWaitLvl _ r => levelBar s x ((x.w.s[r]).extractLsb' 0 2).toNat .wait none
  | .barNamed _ i c => some ⟨.named x.w.block i, .sync, some c.val, none⟩
  | .barArriveNamed _ i c => some ⟨.named x.w.block i, .arrive, some c.val, none⟩
  | .barWaitNamed _ i c => some ⟨.named x.w.block i, .wait, some c.val, none⟩
  | .dbar _ => levelBar s x 2 .sync none
  | .dbarValue _ d v ty op => levelBar s x 2 .sync (some ⟨d, x.w.s[v], ty, op⟩)
  | .xbar _ => levelBar s x 3 .sync none
  | .xbarValue _ d v ty op => levelBar s x 3 .sync (some ⟨d, x.w.s[v], ty, op⟩)
  | _ => none

/-- The executing warp at a barrier. -/
def meAt (s : State) (x : Focus) (k : BarKey) : BarWarp := (s.barrier k).warp x.w.core x.w.slot

/-- The values given at a barrier's open episode, with their destinations. -/
def valuesAt (s : State) (k : BarKey) : List W64 × List (WarpRef × Fin 32) :=
  match s.barValues.find? fun y => y.key == k with
  | some y => (y.values, y.dests)
  | none => ([], [])

/-- The instruction raises no ILLSTATE (R260, R351): not in handler mode; an arrival of lanes that have not arrived, with the
count and the operation of the episode; a wait of lanes that owe one. -/
def barLegal (s : State) (x : Focus) (r : BarRow) : Prop :=
  x.f.handler = false ∧ (r.form ≠ .wait → (meAt s x r.key).arrived &&& x.f.lanes = 0 ∧
      (∀ a c, (s.barrier r.key).count = some a → r.count = some c → a = c)) ∧
    (r.form = .wait → x.f.lanes &&& ~~~(meAt s x r.key).owed = 0) ∧
    ∀ v, r.value = some v → ∀ y, s.barValues.find? (fun y => y.key == r.key) = some y → y.op = v.op ∧ y.ty = v.ty

/-- The barrier once the executing lanes have arrived (R258). -/
def arrivedAt (s : State) (x : Focus) (r : BarRow) : Barrier :=
  let me := meAt s x r.key
  let lanes := me.arrived ||| x.f.lanes
  let owed := if r.form = .arrive then me.owed ||| x.f.lanes else me.owed &&& ~~~x.f.lanes
  let complete := decide (x.w.retired ≠ 0xFFFFFFFF#32 ∧ ~~~x.w.retired &&& ~~~lanes = 0)
  let me' : BarWarp := { me with arrived := lanes, owed := owed, ep := (s.barrier r.key).episode, done := complete }
  let count := match (s.barrier r.key).count with
    | some c => some c
    | none => r.count
  let warps := me' :: (s.barrier r.key).warps.filter fun y => !(y.core == x.w.core && y.slot == x.w.slot)
  { s.barrier r.key with count := count, warps := warps }

/-- The values that other warps have given in a barrier's open episode, then the executing fragment's own (R351). -/
def givenAt (s : State) (x : Focus) (k : BarKey) (v : W64) : List W64 :=
  (((valuesAt s k).1.zip (valuesAt s k).2).filter fun c => !(c.2.1 == ⟨x.w.core, x.w.slot⟩)).map Prod.fst ++ [v]

/-- No warp that has been taken for a save has arrived in the open episode, nor is the executing one such (R398, R400). -/
def noneTaken (s : State) (x : Focus) (k : BarKey) : Prop :=
  x.w.preTaken = false ∧ ∀ w ∈ s.warps, s.inUnit w k = true → w.preTaken = true → ((s.barrier k).warp w.core w.slot).arrived = 0

/-- The state with the executing warp in its slot. -/
def standing (s : State) (x : Focus) : State := put s x.w x.f

/-- The fragment goes on at a position, now or when its swath's time comes (R261). -/
def goesOn (s : State) (f : Fragment) (p : Pos) : Prop :=
  (f.status = .ready ∧ f.fetchPC = p ∧ f.fencePC = p) ∨ ∃ due, s.time < due ∧ f.status = .waiting (.swath due p)

end Sys2Proof.Claims

/-- R256-R260, R350-R352: an arrival that is not the last of its episode waits, or, as ARRIVE, goes on and owes a wait; the last one
releases the episode, and the fragment goes on, at once where no other warp is of the unit; a value form leaves the reduction of
the contributions in its scalar, with its flags in FPSTAT; a WAIT goes on where the episode it owes has been released.

R261: the fragments of a core group whose swath's time has come go on after their barrier; nothing else changes.

The order within one release is the model's choice (log 32). -/
def Obligations.Barriers : Prop :=
  (∀ (s : State) (x : Focus) (i : Instr) (r : BarRow), meetReady s x i → barRow s x i = some r → barLegal s x r →
    (r.form = .wait → (meAt s x r.key).ep < (s.barrier r.key).episode →
      ∃ u, exec i s = .next (finishMeeting u x.w x.f x.c.next) ∧ u.warps = s.warps ∧ u.mem = s.mem ∧
        (meAt u x r.key).owed = (meAt s x r.key).owed &&& ~~~x.f.lanes) ∧
    (r.form ≠ .wait → ((∃ l, r.key = .grid l) → releaseFree s x) → (standing s x).arrivals (arrivedAt s x r) < (standing s x).expected (arrivedAt s x r) →
      (r.form = .arrive → ∃ u, exec i s = .next (finishMeeting u x.w x.f x.c.next) ∧ u.warps = s.warps ∧ u.mem = s.mem ∧
        u.barrier r.key = arrivedAt s x r) ∧
      (r.form = .sync → x.w.frags = [x.f] → ∃ t y, exec i s = .next t ∧ t.focus? = some y ∧ t.barrier r.key = arrivedAt s x r ∧
        y.f.status = .waiting (.barrier r.key (s.barrier r.key).episode x.c.next) ∧ y.w.g = x.w.g ∧ y.w.s = x.w.s ∧
        y.w.p = x.w.p ∧ y.w.acc = x.w.acc)) ∧
    (r.form ≠ .wait → ((∃ l, r.key = .grid l) → releaseFree s x) → (standing s x).expected (arrivedAt s x r) ≠ 0 →
      (standing s x).arrivals (arrivedAt s x r) ≥ (standing s x).expected (arrivedAt s x r) →
      noneTaken s x r.key →
      ∃ t y, exec i s = .next t ∧ t.focus? = some y ∧ (t.barrier r.key).episode = (s.barrier r.key).episode + 1 ∧
        goesOn s y.f x.c.next ∧
        ((∀ w ∈ s.warps, s.inUnit w r.key = true → w.core = x.w.core ∧ w.slot = x.w.slot) → y.f.status = .ready) ∧
        y.w.g = x.w.g ∧ y.w.p = x.w.p ∧ y.w.acc = x.w.acc ∧ (r.value = none → y.w.s = x.w.s) ∧
        (∀ v, r.value = some v →
          let vs := (givenAt s x r.key v.v).map fun c => c.setWidth v.ty.ty.width
          let res := reduced v.op v.ty.ty vs
          y.w.s = x.w.s.set v.d (BitVec.ofNat 64 res.bits) ∧ y.w.fpstat = x.w.fpstat ||| BitVec.ofNat 32 res.flags ∧
          (v.ty ≠ .f64 → reducesTo v.op v.ty.ty vs (BitVec.ofNat v.ty.ty.width res.bits))))) ∧
  (∀ (s : State) (cg : Fin 64) (w : Warp) (f : Fragment) (due : Nat) (p : Pos), w ∈ s.warps → f ∈ w.frags →
    cgOfCore w.core = cg → f.status = .waiting (.swath due p) → due ≤ s.time →
    ∃ t, exec (.barrierSwathRelease cg) s = .next t ∧ t.mem = s.mem ∧ t.barriers = s.barriers ∧
      ∀ core slot v, s.warp? core slot = some v → ∃ v', t.warp? core slot = some v' ∧ v'.g = v.g ∧ v'.s = v.s ∧ v'.p = v.p ∧
        v'.acc = v.acc ∧ ∀ uid g, v.frag? uid = some g → ∃ g', v'.frag? uid = some g' ∧
          ((∃ d q, cgOfCore v.core = cg ∧ g.status = .waiting (.swath d q) ∧ d ≤ s.time ∧ g'.status = .ready ∧ g'.fetchPC = q ∧
            g'.fencePC = q) ∨
           (¬(∃ d q, cgOfCore v.core = cg ∧ g.status = .waiting (.swath d q) ∧ d ≤ s.time) ∧ g' = g)))

/-! ### Vertical exchange -/

namespace Sys2Proof.Claims

/-- The vertical pair of the executing core. -/
def pairAt (s : State) (x : Focus) : Pair := s.pairs[pairOf x.w.core]

/-- The state with another record of the executing core's pair. -/
def withPair (s : State) (x : Focus) (p : Pair) : State := { s with pairs := s.pairs.set (pairOf x.w.core) p }

/-- The executing gang holds the FIFO (R330). -/
def holdsPair (s : State) (x : Focus) : Prop :=
  ∃ b, s.block? x.w.block = some b ∧ (pairAt s x).holder = some b.gang

/-- The executing core is the producing side (R330): the base core, of even number, in direction UP; the crown in direction
DOWN. -/
def producing (s : State) (x : Focus) : Prop := if (pairAt s x).down then x.w.core % 2 = 1 else x.w.core % 2 = 0

/-- A warp on the partner core of the same gang is unretired. -/
def partnerAlive (s : State) (x : Focus) : Prop :=
  ∃ w ∈ s.warps, w.core = (if x.w.core % 2 = 0 then x.w.core + 1 else x.w.core - 1) ∧ w.retired ≠ 0xFFFFFFFF#32 ∧
    ∃ b, s.block? w.block = some b ∧ (pairAt s x).holder = some b.gang

/-- The gate lets a push through (R334, R340): it is ON, or PENDING over an empty FIFO while the crown core holds a warp. -/
def gateOpen (s : State) (x : Focus) : Prop :=
  (pairAt s x).gate = .on ∨
    ((pairAt s x).gate = .pending ∧ (pairAt s x).fifo = [] ∧ ∃ w ∈ s.warps, w.core = 2 * (x.w.core / 2) + 1)

/-- The entries of a group (R333): in each active lane the bits of the value, low half first, and zero in the others. -/
def groupOf (x : Focus) (k : Fin 8) (t : Ty) : List (Lanes W32) :=
  let part : Nat → Lanes W32 := fun lo => Vector.ofFn fun l =>
    if active x none l then (image t (accOf t x.w k l)).extractLsb' lo 32 else 0
  if t.is64 then [part 0, part 32] else [part 0]

/-- A predicate with its bits in some lanes set or cleared. -/
def setBitsOf (w : Warp) (d : Fin 8) (m : Mask) (v : Bool) : Warp :=
  { w with p := w.p.set d (if v then w.p[d] ||| m else w.p[d] &&& ~~~m) }

/-- The warp after a pop (R336): the entries in the lanes of the fragment, present there. -/
def popped (x : Focus) (g : Fin 64) (es : List (Lanes W32)) : Warp :=
  let reg := fun (v : Vector (Lanes W32) 64) (r : Fin 64) (e : Lanes W32) => v.set r (gAfter v[r] (inMask x.f.lanes) fun l => e[l])
  let pr := fun (v : Vector Mask 64) (r : Fin 64) => v.set r (v[r] ||| x.f.lanes)
  match es with
  | [e0] => { x.w with g := reg x.w.g g e0, gPresent := pr x.w.gPresent g }
  | [e0, e1] => { x.w with g := reg (reg x.w.g g e0) (gPartner g) e1, gPresent := pr (pr x.w.gPresent g) (gPartner g) }
  | _ => x.w

/-- VX.STAT (R332). -/
def statWord (s : State) (x : Focus) (held : Bool) : W64 :=
  let p := pairAt s x
  let gate : BitVec 2 := match p.gate with
    | .on => 0
    | .pending => 1
    | .gated => 2
    | .waking => 3
  let n := p.fifo.length
  if held then 0#40 ++ gate ++ BitVec.ofBool (!p.waits.isEmpty) ++ BitVec.ofNat 5 n ++ 0#11 ++ BitVec.ofNat 5 (16 - n)
  else 0#40 ++ gate ++ 0#22

/-- The state with another gate; a change makes a placement pass due on every die (R376). -/
def withGate (s : State) (x : Focus) (g : Gate) : State :=
  let t := withPair s x { pairAt s x with gate := g }
  if (pairAt s x).gate = g then t else { t with dies := Vector.ofFn fun d => { s.dies[d] with passDue := true } }

/-- The table of PGREQ (R341): its four instructions with the gate before, whether the FIFO holds an entry or a push waits, the
gate after, and the status. -/
def gateRow (d : Fin 32) (g : Gate) (busy : Bool) : Instr → Option (Gate × W64)
  | .pgreqNow _ e => if e ≠ d then none else match g with
    | .on => some (if busy then (.on, 2) else (.pending, 1))
    | .pending => some (.pending, 1)
    | .gated => some (.gated, 0)
    | .waking => some (.waking, 3)
  | .pgreqDrain _ e => if e ≠ d then none else match g with
    | .on | .pending => some (.pending, 1)
    | .gated => some (.gated, 0)
    | .waking => some (.waking, 3)
  | .pgreqUngate _ e => if e ≠ d then none else match g with
    | .on | .pending => some (.on, 0)
    | .gated | .waking => some (.waking, 1)
  | .pgreqCancel _ e => if e ≠ d then none else match g with
    | .on | .pending => some (.on, 0)
    | .gated => some (.gated, 3)
    | .waking => some (.waking, 3)
  | _ => none

end Sys2Proof.Claims

/-- R333-R336, R339-R341, R343: a push that can be admitted appends its group to the FIFO and completes; otherwise VPUSHN pushes
nothing and clears its predicate's active lanes, and VPUSH waits with its group, the FIFO unchanged; a pop takes the oldest
entries into its lanes, and waits while the producing side may still push; VFREE reads VX.STAT; PGREQ follows its table, and
takes PRIVILEGE without PGOK.

What a push does while the gate is PENDING is the model's reading (log 10). -/
def Obligations.VerticalExchange : Prop :=
  ∀ (s : State) (x : Focus),
    (∀ i a t d, ((∃ b, i = .vpush b a t ∧ d = none) ∨ ∃ b e, i = .vpushn b a e t ∧ d = some e) →
      strandReady s x i none → x.w.acc[a].tile = none → x.f.handler = false → holdsPair s x → producing s x →
      let g := groupOf x a t
      (gateOpen s x → (pairAt s x).waits = [] → (pairAt s x).fifo.length + g.length ≤ 16 →
        exec i s = .next (finishStrand (withPair s x { pairAt s x with fifo := (pairAt s x).fifo ++ g }) x.c
          (match d with
            | none => x.w
            | some e => setBitsOf x.w e x.c.lanes true) x.f a)) ∧
      (gateOpen s x → (∀ v ∈ (pairAt s x).waits, v.frag ≠ ⟨x.w.core, x.w.slot, x.f.uid⟩) → partnerAlive s x →
        ((pairAt s x).waits ≠ [] ∨ (pairAt s x).fifo.length + g.length > 16) →
        (∀ e, d = some e → exec i s = .next (finishStrand s x.c (setBitsOf x.w e x.c.lanes false) x.f a)) ∧
        (d = none → ∃ u y, exec i s = .next u ∧ u.focus? = some y ∧ y.w.acc = x.w.acc ∧ y.w.g = x.w.g ∧
          y.f.fetchPC = x.f.fetchPC ∧ (pairAt u x).fifo = (pairAt s x).fifo ∧
          (pairAt u x).waits = (pairAt s x).waits ++
            [⟨⟨x.w.core, x.w.slot, x.f.uid⟩, x.c.pos, x.c.lanes, g⟩]))) ∧
    (∀ b g t es rest, meetReady s x (.vpop b g t) → x.f.handler = false → holdsPair s x → ¬ producing s x →
      (∀ w ∈ s.warps, ∀ f ∈ w.frags, ∀ o, f.status ≠ .waiting (.vertical o)) →
      (pairAt s x).fifo = es ++ rest → es.length = (if t.is64 then 2 else 1) →
      exec (.vpop b g t) s = .next (finishMeeting (withPair s x { pairAt s x with fifo := rest }) (popped x g es) x.f x.c.next)) ∧
    (∀ b g t, meetReady s x (.vpop b g t) → x.f.handler = false → holdsPair s x → ¬ producing s x →
      (pairAt s x).fifo = [] → partnerAlive s x →
      ∃ u y o, exec (.vpop b g t) s = .next u ∧ u.focus? = some y ∧ y.f.status = .waiting (.vertical o) ∧ y.w.g = x.w.g ∧
        u.pairs = s.pairs) ∧
    (∀ b d held, meetReady s x (.vfree b d) → (pairAt s x).fifo.length ≤ 16 → (held = true ↔ holdsPair s x) →
      exec (.vfree b d) s = .next (finishMeeting s (wroteS x.w d (statWord s x held)) x.f x.c.next)) ∧
    (∀ i d r ow, meetReady s x i → gateRow d (pairAt s x).gate (decide ((pairAt s x).fifo ≠ [] ∨ (pairAt s x).waits ≠ [])) i = some r →
      s.owner? x.w = some ow →
      ((recField ow.launch.record 7 1).testBit 6 = true →
        exec i s = .next (finishMeeting (withGate s x r.1) (wroteS x.w d r.2) x.f x.c.next)) ∧
      ((recField ow.launch.record 7 1).testBit 6 = false → mayTrap s x →
        ∃ u, exec i s = .next u ∧ enteredHandler s u x 29 0 fun _ => 0))

/-! ### The copy engine -/

namespace Sys2Proof.Claims

/-- COPY, COPYM, GATH, SCAT with their operands (R314-R316). -/
def copyRow (x : Focus) : Instr → Option (CopyOp × CopyKind)
  | .copy o => some (o, .copy)
  | .copym o => some (o, .copym)
  | .gath o => some (o, .gath (x.w.s[Fin.ofNat 32 (o.l.val + 1)]))
  | .scat o => some (o, .scat (x.w.s[Fin.ofNat 32 (o.l.val + 1)]))
  | _ => none

/-- A descriptor that keeps R313 to R316. -/
def goodDescriptor (kind : CopyKind) (bo : Bool) (d : W64) : Prop :=
  d.extractLsb' 62 2 = 0 ∧ (bo = false → d.extractLsb' 32 24 = 0) ∧ (bo = true → d.getLsbD 61 = true) ∧
    match kind with
    | .copy => d.extractLsb' 56 4 = 0
    | .copym => d.getLsbD 61 = true
    | .gath l | .scat l => d.extractLsb' 56 4 = 0 ∧ l.extractLsb' 40 24 = 0 ∧ l.extractLsb' 0 2 = 0 ∧
        1 ≤ (d.setWidth 32).toNat ∧ (d.setWidth 32).toNat ≤ 65536

/-- An operation that moves something (R314, R315). -/
def movesBytes (kind : CopyKind) (d : W64) : Prop :=
  match kind with
  | .copy => d.setWidth 32 ≠ 0#32
  | .copym => d.setWidth 32 ≠ 0#32 ∧ d.extractLsb' 56 4 ≠ 0
  | _ => True

/-- One more operation of a context, number n, is complete (R21): the counter stands below the first number that is not. -/
def countsOne (n counter : Nat) (done : List Nat) (counter' : Nat) (done' : List Nat) : Prop :=
  counter ≤ counter' ∧ (∀ m, (m ≤ counter' ∨ m ∈ done') ↔ (m ≤ counter ∨ m ∈ done ∨ m = n)) ∧ counter' + 1 ∉ done'

/-- The block of the executing warp holds tag k (R312). -/
def holdsTag (s : State) (x : Focus) (k : Fin 64) : Prop := ∃ b, s.block? x.w.block = some b ∧ k.val < b.tags

/-- CODE and ADDR of COPY.TAG (R327). -/
def tagWord (code : Nat) (addr : W64) : W64 := BitVec.ofNat 7 code ++ addr.setWidth 57

end Sys2Proof.Claims

/-- R312, R313, R319, R320: a copy instruction takes the next number of its gang's context, writes COPY.LASTOP, and its operation
stands submitted, counted by its tag; a refused descriptor, or one that moves nothing, completes at once, the first with code 9
and, in a form with objects, once they have taken ERR.
TAGWAIT gives the tag's error once its count is zero, and waits till then; TAGFIRST the lowest free tag of a mask; TAGCLR clears the
error. A tag that the block does not hold raises ILLSTATE with its number.

R317-R319, R322: the engine performs a COPY between banks by writing the source's bytes at the destination; an endpoint that
resolves nowhere gives code 6. Bytes that land count on the operation's object, with ERR where the operation stopped, and the
object's phase may complete. A performed operation
with nothing left to land completes: its tag counts one less and keeps the first error, its context's counter advances.

The address of error code 9 and the order of two errors are the model's choice (log 11), and so is what an operation writes that
breaks R317 (log 13). -/
def Obligations.CopiesByTheEngine : Prop :=
  (∀ (s : State) (x : Focus),
    (∀ i o kind blk c, copyRow x i = some (o, kind) → meetReady s x i → s.block? x.w.block = some blk → o.k.val < blk.tags →
      (s.copyOps.filter fun p => p.gang == blk.gang).length < 256 → releaseFree s x → s.copyCtx? blk.gang = some c →
      ∃ u c', exec i s = .next (finishMeeting u { x.w with copyLast := BitVec.ofNat 64 (c.submitted + 1) } x.f x.c.next) ∧
        u.copyCtx? blk.gang = some c' ∧ c'.submitted = c.submitted + 1 ∧ u.warps = s.warps ∧
        ((goodDescriptor kind o.bo x.w.s[o.l] ∨ o.bo = false) → u.mem = s.mem) ∧
        (goodDescriptor kind o.bo x.w.s[o.l] → movesBytes kind x.w.s[o.l] →
          (u.tag blk.id o.k).count = (s.tag blk.id o.k).count + 1 ∧ (u.tag blk.id o.k).err = (s.tag blk.id o.k).err ∧
          ∃ op rest, u.copyOps = rest ++ [op] ∧ op.free = s.breaches { op with free := false } ∧
            (rest.map fun p => { p with free := false }) = (s.copyOps.map fun p => { p with free := false }) ∧
            (op.free = false → rest = s.copyOps) ∧ op.gang = blk.gang ∧ op.block = blk.id ∧ op.num = c.submitted + 1 ∧ op.tag = o.k ∧
            op.kind = kind ∧ op.bo = o.bo ∧ op.dst = x.w.s[o.d] ∧ op.src = x.w.s[o.f] ∧ op.desc = x.w.s[o.l] ∧
            op.windows = blk.windows ∧ op.performed = false) ∧
        ((∀ p ∈ s.copyOps, p.id ≠ s.nextId) → (∀ d ∈ c.done, c.counter < d) →
          ((¬goodDescriptor kind o.bo x.w.s[o.l] ∧ o.bo = false) ∨
            (goodDescriptor kind o.bo x.w.s[o.l] ∧ ¬movesBytes kind x.w.s[o.l])) →
          u.copyOps = s.copyOps ∧ countsOne (c.submitted + 1) c.counter c.done c'.counter c'.done ∧
          (u.tag blk.id o.k).count = (s.tag blk.id o.k).count ∧
          (goodDescriptor kind o.bo x.w.s[o.l] → (u.tag blk.id o.k).err = (s.tag blk.id o.k).err) ∧
          (¬goodDescriptor kind o.bo x.w.s[o.l] → (s.tag blk.id o.k).err = 0 →
            ((u.tag blk.id o.k).err).extractLsb' 57 7 = 9#7)) ∧
        (¬goodDescriptor kind o.bo x.w.s[o.l] → (∀ p ∈ s.copyOps, p.id ≠ s.nextId) →
          ∀ p ∈ u.copyOps, p.id = s.nextId → p.code = 9 ∧ p.performed = true)) ∧
    (∀ b d k, meetReady s x (.tagwait b d k) → holdsTag s x k →
      ((s.tag x.w.block k).count = 0 →
        exec (.tagwait b d k) s = .next (finishMeeting s (wroteS x.w d (s.tag x.w.block k).err) x.f x.c.next)) ∧
      ((s.tag x.w.block k).count ≠ 0 → ∃ u y, exec (.tagwait b d k) s = .next u ∧ u.focus? = some y ∧ y.w.s = x.w.s ∧
        ∃ since out, y.f.status = .waiting (.retry since out))) ∧
    (∀ b d m blk n, meetReady s x (.tagfirst b d m) → s.block? x.w.block = some blk →
      let free := fun k : Fin 64 => k.val < blk.tags ∧ (x.w.s[m]).getLsbD k.val = true ∧ (s.tag x.w.block k).count = 0
      ((∃ k : Fin 64, n = k.val ∧ free k ∧ ∀ j : Fin 64, j < k → ¬free j) ∨ (n = 64 ∧ ∀ k, ¬free k)) →
        exec (.tagfirst b d m) s = .next (finishMeeting s (wroteS x.w d (BitVec.ofNat 64 n)) x.f x.c.next)) ∧
    (∀ b k, meetReady s x (.tagclr b k) → holdsTag s x k →
      ∃ u, exec (.tagclr b k) s = .next (finishMeeting u x.w x.f x.c.next) ∧ u.warps = s.warps ∧ u.mem = s.mem ∧
        u.tag x.w.block k = { s.tag x.w.block k with err := 0 } ∧
        ∀ b' k', (b' ≠ x.w.block ∨ k' ≠ k) → u.tag b' k' = s.tag b' k') ∧
    (∀ i k, ((∃ o kind, copyRow x i = some (o, kind) ∧ k = o.k) ∨ (∃ b d, i = .tagwait b d k) ∨ ∃ b, i = .tagclr b k) →
      meetReady s x i → ¬holdsTag s x k → mayTrap s x →
      ∃ u, exec i s = .next u ∧ enteredHandler s u x 19 0 fun _ => BitVec.ofNat 64 k.val)) ∧
  (∀ (s : State) (o : CopyOpn), s.copyOp? o.id = some o →
    (o.performed = false → o.kind = .copy → (s.copyOps.filter fun p => p.gang == o.gang && p.num < o.num).length < 8 →
      (∀ c b f c' b' d, s.endpoint o (o.desc.getLsbD 60) o.src.toNat (o.desc.setWidth 32).toNat = .ep (.bank c b f) →
        s.endpoint o (o.desc.getLsbD 61) o.dst.toNat (o.desc.setWidth 32).toNat = .ep (.bank c' b' d) → o.bo = false →
        let n := (o.desc.setWidth 32).toNat
        0 < n → f + n ≤ 65536 → d + n ≤ 65536 → (∀ k, k < n → s.badUnit (.bank c b (f + k)) = false) →
        let s0 := if o.free then { s with freeIndex := s.freeIndex + 1 } else s
        exec (.copyOpPerform o.id) s = .next ((s0.putBytes (s.copyAgent o).asid ((List.range n).map fun k => .bank c' b' (d + k))
          ((List.range n).map fun k =>
            if o.free then Config.freeByte s.freeIndex k else cellRead (s.bank c b).data (f + k))).setCopyOp
              { o with performed := true, land := [], since := none })) ∧
      (s.endpoint o (o.desc.getLsbD 60) o.src.toNat (o.desc.setWidth 32).toNat = .bad → o.bo = false →
        ∃ u, exec (.copyOpPerform o.id) s = .next u ∧ u.mem = s.mem ∧ u.cores = s.cores ∧
          u.copyOp? o.id = some { o with performed := true, code := 6, errAddr := o.src, land := [], since := none })) ∧
    (∀ k a n m ps y t, o.land[k]? = some (a, n) → 0 < m.toNat → (m : W32).toNat ≤ n → settledMemory s →
      s.objPlaces o (o.since.any fun q => s.time ≥ q + s.ackNs) a = .ok (ps, y) → ps.length = 8 →
      t = s.usePart (s.copyAgent o) .atom y →
      let w : W64 := BitVec.ofNat 64 (numberAt t ps)
      exec (.boLanding o.id k m) s = .next ((t.putBytes (s.copyAgent o).asid ps
        (leBytes 8 (objectAfter (w.extractLsb' 63 1) (w.extractLsb' 62 1 ||| BitVec.ofBool (o.code != 0)) (w.extractLsb' 47 15)
          (w.extractLsb' 32 15) (w.setWidth 32 - m)).toNat)).setCopyOp
            { o with land := if m.toNat = n then o.land.eraseIdx k else o.land.set k (a, n - m.toNat), since := none })) ∧
    (∀ blk c, o.performed = true → o.land = [] → s.block? o.block = some blk → blk.retiredWarps < blk.nWarps →
      s.copyCtx? o.gang = some c → (∀ d ∈ c.done, c.counter < d) →
      ∃ u c', exec (.copyOpComplete o.id) s = .next u ∧ u.copyOps = s.copyOps.filter (fun p => p.id != o.id) ∧
        u.mem = s.mem ∧ u.warps = s.warps ∧ u.copyCtx? o.gang = some c' ∧ c'.submitted = c.submitted ∧
        countsOne o.num c.counter c.done c'.counter c'.done ∧
        c'.err = (if o.code ≠ 0 ∧ c.err = 0 then tagWord o.code o.errAddr else c.err) ∧
        u.tag o.block o.tag = { s.tag o.block o.tag with
          count := (s.tag o.block o.tag).count - 1
          err := if o.code ≠ 0 ∧ (s.tag o.block o.tag).err = 0 then tagWord o.code o.errAddr else (s.tag o.block o.tag).err }))

/-! ### EXIT, FRESUME, FKILL -/

namespace Sys2Proof.Claims

/-- Nothing waits that a retirement on a core could set free beside joins and convergent waits: no barrier, no pair that gates or
waits, no matrix loop, no fragment without an entry or waiting at a barrier. -/
def quiet (s : State) (core : Nat) : Prop :=
  s.barriers = [] ∧ (s.pairs[pairOf core]).gate = .on ∧ (s.pairs[pairOf core]).waits = [] ∧ s.matrix = [] ∧
    ∀ v ∈ s.warps, ∀ g ∈ v.frags, g.entry ≠ noEntry ∧ ∀ k e p, g.status ≠ .waiting (.barrier k e p)

/-- A warp some of whose lanes have retired (R42): they have left every rejoin register; the registers are as before. -/
def lostLanes (w w' : Warp) (m : Mask) : Prop :=
  w'.retired = w.retired ||| m ∧ (∀ j : Fin 8, (w'.j[j]).member &&& m = 0 ∧ (w'.j[j]).arrived &&& m = 0) ∧
    w'.g = w.g ∧ w'.s = w.s ∧ w'.p = w.p ∧ w'.acc = w.acc

/-- EXIT has nothing to wait for and nothing to report (R219): no STNT of the lanes outstanding or faulted, no .E store of theirs on
its way, no acknowledgement lost; for the last lanes of a warp, none of the whole warp (R92, R94). -/
def exitsFreely (s : State) (x : Focus) : Prop :=
  x.f.stntFaults = [] ∧ (∀ l, inMask x.f.lanes l = true → x.f.lostAcks[l] = none) ∧
    ∀ r ∈ s.reqs, r.frag.core = x.w.core → r.frag.slot = x.w.slot →
      (inMask x.f.lanes r.lane = true ∨ x.w.retired ||| x.f.lanes = 0xFFFFFFFF#32) →
        r.kind ≠ .stnt ∧ ∀ f ∈ s.forwards, f.req ≠ r.id

/-- The reserved bits of a fragment descriptor are zero (R224). -/
def plainDescriptor (d : W64) : Prop := d.extractLsb' 32 32 = 0 ∧ d.extractLsb' 22 2 = 0 ∧ d.extractLsb' 9 7 = 0

/-- The warp and the fragment that a descriptor names (R224): CORE, SLOT, and an ENTRY that is no other slot's home entry; ENTRY 511
names a fragment without one, a parked one first (R170; log 23). -/
def namedBy (s : State) (d : W64) (w : Warp) (f : Fragment) : Prop :=
  s.warp? (d.extractLsb' 24 8).toNat (d.extractLsb' 16 6).toNat = some w ∧ w.preTaken = false ∧
    (256 ≤ (d.extractLsb' 0 9).toNat →
      (d.extractLsb' 0 9).toNat = 256 + (d.extractLsb' 16 6).toNat ∨ (d.extractLsb' 0 9).toNat = 511) ∧
    ((w.frags.find? fun g => g.entry == d.extractLsb' 0 9 && g.status == .parked)
      <|> w.frags.find? fun g => g.entry == d.extractLsb' 0 9) = some f

end Sys2Proof.Claims

/-- R42, R219: EXIT retires the lanes of its fragment: they leave the warp's live lanes and every rejoin register; with the last of
them the warp is gone and counts as retired in its block. -/
def Obligations.ExitRetires : Prop :=
  ∀ (s : State) (x : Focus) (b : Bool), meetReady s x (.exit b) → exitsFreely s x → quiet s x.w.core →
    (x.w.retired ||| x.f.lanes ≠ 0xFFFFFFFF#32 →
      ∃ t w', exec (.exit b) s = .next t ∧ t.warp? x.c.core x.c.slot = some w' ∧ lostLanes x.w w' x.f.lanes ∧
        t.mem = s.mem ∧ t.blocks = s.blocks) ∧
    (∀ blk, x.w.retired ||| x.f.lanes = 0xFFFFFFFF#32 → s.block? x.w.block = some blk → blk.retiredWarps + 1 < blk.nWarps →
      ∃ t, exec (.exit b) s = .next t ∧ t.warp? x.c.core x.c.slot = none ∧ (∀ a, t.mem.byte a = s.mem.byte a) ∧
        t.block? blk.id = some { blk with retiredWarps := blk.retiredWarps + 1 })

/-- R224-R226: FRESUME and FKILL take PRIVILEGE without the grant, write the first status that applies and change nothing else
where it is not 0; with status 0 the parked fragment named goes on at its fence without its recoverable causes, or its lanes
retire.

The status of a fragment whose record is due is the model's choice (log 23). -/
def Obligations.FragmentService : Prop :=
  ∀ (s : State) (x : Focus) (i : Instr) (r : Fin 32) (kill : Bool),
    ((∃ b, i = .fresume b r ∧ kill = false) ∨ ∃ b, i = .fkill b r ∧ kill = true) → meetReady s x i →
    let d := x.w.s[r]
    let answers : W64 → Prop := fun v => exec i s = .next (finishMeeting s (wroteS x.w r v) x.f x.c.next)
    (s.servesSpace x.w none = false → mayTrap s x → ∃ t, exec i s = .next t ∧ enteredHandler s t x 29 0 fun _ => 0) ∧
    (s.servesSpace x.w none = true → releaseFree s x →
      (¬plainDescriptor d → answers 2) ∧
      (plainDescriptor d → s.coreInVi x.w (d.extractLsb' 24 8).toNat = false → answers 3) ∧
      (plainDescriptor d → s.coreInVi x.w (d.extractLsb' 24 8).toNat = true → (∀ w f, ¬namedBy s d w f) → answers 2) ∧
      (∀ w f, plainDescriptor d → s.coreInVi x.w (d.extractLsb' 24 8).toNat = true → namedBy s d w f →
        (s.servesSpace x.w (some (s.asidOf w)) = false → answers 3) ∧
        (s.servesSpace x.w (some (s.asidOf w)) = true →
          (f.status ≠ .parked ∨ f.due ≠ [] ∨ f.ringSeq ≠ some x.w.s[Fin.ofNat 32 (r.val + 1)]) → answers 1) ∧
        (s.servesSpace x.w (some (s.asidOf w)) = true → f.status = .parked → f.due = [] →
          f.ringSeq = some x.w.s[Fin.ofNat 32 (r.val + 1)] → (w.core ≠ x.w.core ∨ w.slot ≠ x.w.slot) →
          (∀ g ∈ w.frags, g.uid = f.uid → g = f) →
          (kill = false → f.causes &&& ~~~0x100000007#64 = 0 → ∃ t y w' f', exec i s = .next t ∧ t.focus? = some y ∧
            y.w.s = x.w.s.set r 0 ∧ y.f.fetchPC = x.c.next ∧ t.warp? w.core w.slot = some w' ∧ w'.frag? f.uid = some f' ∧
            f'.status = .ready ∧ f'.fetchPC = f.fencePC ∧ f'.lanes = f.lanes ∧ f'.handler = f.handler ∧ f'.causes = 0 ∧
            w'.g = w.g ∧ w'.s = w.s ∧ w'.p = w.p ∧ w'.acc = w.acc) ∧
          (kill = true → quiet s w.core → w.retired ||| f.lanes ≠ 0xFFFFFFFF#32 → ∃ t y w', exec i s = .next t ∧
            t.focus? = some y ∧ y.w.s = x.w.s.set r 0 ∧ t.warp? w.core w.slot = some w' ∧ lostLanes w w' f.lanes))))

/-! ### Collectives -/

namespace Sys2Proof.Claims

/-- A group descriptor that CGRP accepts at a gang depth (R347, R348): SPAN DIE from depth DIE on, SPAN PACKAGE at depth GRID with a
COUNT that is not 0, the bits between SPAN and COUNT zero. -/
def groupFits (depth : Nat) (v : W64) : Prop :=
  v.extractLsb' 16 46 = 0 ∧ ((v.extractLsb' 62 2 = 0#2 ∧ 2 ≤ depth) ∨ (v.extractLsb' 62 2 = 1#2 ∧ depth = 3 ∧ v.extractLsb' 0 16 ≠ 0#16))

/-- The span of a descriptor's group on a die: the die, or none for the package. -/
def spanOf (g : W64) (die : Fin 4) : Option (Fin 4) := if g.extractLsb' 62 2 = 0#2 then some die else none

/-- A group whose episodes may take the arrival (R348): of a die, or of the package with one descriptor on every die of the grid and
nothing for the release to wait for; the open episode's operation and type are those of the arrival. -/
def mayArrive (s : State) (x : Focus) (o : Owner) (n : Fin 16) (g : W64) (op : RedOp) (t : Ty) : Prop :=
  (g.extractLsb' 62 2 = 0#2 ∨ (g.extractLsb' 62 2 = 1#2 ∧ releaseFree s x ∧
    ∀ l ∈ s.levels, l.launch = o.launch.id → l.groups[n] = g)) ∧
  (s.episode o.launch.id n (spanOf g o.level.die) op t).op = op ∧ (s.episode o.launch.id n (spanOf g o.level.die) op t).t = t

/-- The values of the lanes of an arrival. -/
def arrivalVals (t : Ty) (a : FragRef × Fin 32 × Mask × Lanes W64) : List (BitVec t.width) :=
  ((List.finRange 32).filter fun l => inMask a.2.2.1 l).map fun l => ((a.2.2.2)[l]).setWidth t.width

/-- The warp's own arrival. -/
def myArrival (x : Focus) (a : Fin 8) (d : Fin 32) : FragRef × Fin 32 × Mask × Lanes W64 :=
  (⟨x.w.core, x.w.slot, x.f.uid⟩, d, x.f.lanes, x.w.acc[a].val)

/-- An operation ends with a code and flags: STATUS takes them after its write has gone through, the operation is gone and its
context's counter counts its number (R356, R21). -/
def collEnds (i : Instr) (s v : State) (o : CollOpn) (code flags : Nat) : Prop :=
  ∀ (t : State) (c : CollCtx), o.addr.toNat % 64 = 0 → v.agWrite (s.collAgent o) true (o.addr.toNat + 56) (leBytes 8 (code + 256 * flags)) = .ok t →
    t.collCtx? o.launch o.die = some c → (∀ d ∈ c.done, c.counter < d) →
    ∃ u c', exec i s = .next u ∧ u.mem = t.mem ∧ u.collOp? o.id = none ∧ c' ∈ u.collCtxs ∧
      countsOne o.num c.counter c.done c'.counter c'.done

/-- Field of the 64-byte collective record, in bytes (R354). -/
def recordField (r : BitVec 512) (lo n : Nat) : Nat := (r.extractLsb' (8 * lo) (8 * n)).toNat

end Sys2Proof.Claims

/-- R347, R348, R353, R354: CGRP writes the group slot of the die level, unless an episode is open on another descriptor or SPAN PACKAGE
comes with COUNT 0. REDT gives the identity where COUNT is 0, ILLSTATE there with SPAN PACKAGE; an arrival before the last waits in the open episode; the last one leaves the reduction of every
value in each scalar, and the episode is counted. COLL submits the record at its address under the next number of the context.

R349, R355, R356, R357, R21: an operation with an outcome writes CODE and the flags to the record's STATUS, and its context's
counter counts it; a record of an unknown KIND ends with code 9; silence past COLL.TMO, which acts as at least 10, ends an operation
that cannot go on with code 11. Combining by ADD gives each element the sum modulo 2^32, whatever the order of the ranks. An episode
that can no longer be completed puts its warp into the handler with COLLTIMEOUT, its arrival withdrawn.

That all members of an operation move at once, and how they are matched, are the model's choice (log 16, log 17). -/
def Obligations.Collectives : Prop :=
  (∀ (s : State) (x : Focus) (o : Owner), s.owner? x.w = some o →
    (∀ b c n, meetReady s x (.cgrp b c n) →
      let v := x.w.s[c]
      (groupFits o.launch.depth v → (s.episodeOpen o.launch.id o.level.die n = false) →
        ∃ u, exec (.cgrp b c n) s = .next (finishMeeting u x.w x.f x.c.next) ∧ u.warps = s.warps ∧ u.mem = s.mem ∧
          (o.level.groups[n] ≠ v → u.levels = s.levels.map fun d => if d.id = o.level.id then { d with groups := d.groups.set n v } else d) ∧
          (o.level.groups[n] = v → u.levels = s.levels)) ∧
      (groupFits o.launch.depth v → o.level.groups[n] ≠ v → s.episodeOpen o.launch.id o.level.die n = true → mayTrap s x →
        ∃ u, exec (.cgrp b c n) s = .next u ∧ enteredHandler s u x 19 0 fun _ => v) ∧
      (v.extractLsb' 62 2 = 1#2 → o.launch.depth = 3 → v.extractLsb' 0 16 = 0#16 → mayTrap s x →
        ∃ u, exec (.cgrp b c n) s = .next u ∧ enteredHandler s u x 19 0 fun _ => v) ∧
      (((v.extractLsb' 62 2 = 0#2 ∧ o.launch.depth < 2) ∨ (v.extractLsb' 62 2 = 1#2 ∧ o.launch.depth ≠ 3)) → mayTrap s x →
        ∃ u, exec (.cgrp b c n) s = .next u ∧ enteredHandler s u x 20 0 fun _ => 0)) ∧
    (∀ b a n t d op, meetReady s x (.redt b a n t d op) → convergedAlone x → x.w.acc[a].tile = none →
      let g := o.level.groups[n]
      let e := s.episode o.launch.id n (spanOf g o.level.die) op t
      let count := (g.setWidth 16).toNat
      (g.extractLsb' 62 2 = 0#2 ∨ g.extractLsb' 62 2 = 1#2) → mayArrive s x o n g op t →
      (count = 0 → g.extractLsb' 62 2 = 1#2 → mayTrap s x →
        ∃ u, exec (.redt b a n t d op) s = .next u ∧ enteredHandler s u x 19 0 fun _ => 0) ∧
      (count = 0 → g.extractLsb' 62 2 = 0#2 → t.isFloat = false → ∃ q : BitVec t.width, reducesTo op t [] q ∧
        exec (.redt b a n t d op) s = .next (finishMeeting s (wroteS x.w d (image t q)) x.f x.c.next)) ∧
      (count ≠ 0 → e.arrivals.length + 1 < count →
        ∃ u y, exec (.redt b a n t d op) s = .next u ∧ u.focus? = some y ∧ y.f.status = .waiting (.episode e.id x.c.next) ∧
          y.w.s = x.w.s ∧ { e with arrivals := e.arrivals ++ [myArrival x a d] } ∈ u.episodes) ∧
      (count ≠ 0 → e.arrivals.length + 1 ≥ count → t.isFloat = false →
        (∀ r ∈ e.arrivals, r.1.core ≠ x.w.core ∨ r.1.slot ≠ x.w.slot) →
        ∃ u y q, exec (.redt b a n t d op) s = .next u ∧ u.focus? = some y ∧ goesOn s y.f x.c.next ∧
          reducesTo op t ((e.arrivals ++ [myArrival x a d]).flatMap (arrivalVals t)) q ∧ y.w.s = x.w.s.set d (image t q) ∧
          y.w.g = x.w.g ∧ { e with num := e.num + 1, arrivals := [] } ∈ u.episodes)) ∧
    (∀ b r c bs s2, meetReady s x (.coll b r) → releaseFree s x → s.collCtx? o.launch.id o.level.die = some c →
      (s.collOps.filter fun p => p.launch == o.launch.id && p.die == c.die).length < 64 →
      s.recordRead (s.agentOf x.w (firstLane x.f.lanes)) (lateWait s x) x.w.s[r] 64 = .ok (bs, s2) →
      ∃ u op c', exec (.coll b r) s = .next (finishMeeting u { x.w with collLast := BitVec.ofNat 64 (c.submitted + 1) } x.f x.c.next) ∧
        u.mem = s2.mem ∧ u.collOps = s2.collOps ++ [op] ∧ op.launch = o.launch.id ∧ op.die = o.level.die ∧ op.num = c.submitted + 1 ∧
        op.record = BitVec.ofNat 512 (leNat bs) ∧ op.addr = x.w.s[r] ∧ op.outcome = none ∧ op.out = none ∧
        op.nth = ((c.keys.find? fun k => k.1 == BitVec.ofNat 64 (recordField op.record 32 8)).map Prod.snd).getD 0 ∧
        c' ∈ u.collCtxs ∧ c'.submitted = c.submitted + 1 ∧ c'.counter = c.counter)) ∧
  ((∀ (s : State) (o : CollOpn), s.collOp? o.id = some o →
    (∀ code flags, o.outcome = some (code, flags) → collEnds (.collOpComplete o.id) s s o code flags) ∧
    (o.outcome = none → recordField o.record 0 1 > 3 →
      collEnds (.collOpComplete o.id) s (s.setOutcome o.id 9 0) o 9 0) ∧
    (o.outcome = none → s.collProgress o = none → recordField o.record 0 1 ≠ 2 →
      o.since + (max 10 (s.dies[o.die].collTmo).toNat) * 1000 ≤ s.time → collEnds (.collSilenceTimeout o.id) s s o 11 0)) ∧
  (∀ (r : BitVec 512) (srcs : List (Nat × List Nat)) (i : Nat), recordField r 0 1 = 0 → recordField r 1 1 = 0 →
    (Ty.ofCode (recordField r 2 1) = .i32 ∨ Ty.ofCode (recordField r 2 1) = .n32) → i < recordField r 24 8 →
    srcs ≠ [] → (∀ p ∈ srcs, ∀ v ∈ p.2, v < 2 ^ 32) →
    (collResult r srcs).1[i]? = some ((srcs.map fun p : Nat × List Nat => (BitVec.ofNat 32 (p.2.getD i 0))).foldl (· + ·) 0).toNat ∧
      (collResult r srcs).2 = 0) ∧
  (∀ (s : State) (e : Episode) (k : Fin 4) (a : FragRef × Fin 32 × Mask × Lanes W64) (w : Warp) (f : Fragment),
    (s.episodes.find? fun d => d.launch == e.launch && d.slot == e.slot && (d.span == some k || d.span == none) && s.episodeLost d)
      = some e →
    e.arrivals = [a] → s.warp? a.1.core a.1.slot = some w → w.frag? a.1.uid = some f →
    f.handler = false → f.pend = [] → w.trapVec ≠ 0 → f.lanes ≠ 0 → s.busy w.core = false →
    ∃ u w' f', exec (.collEpisodeLost e.launch e.slot k) s = .next u ∧ u.warp? w.core w.slot = some w' ∧ w'.frag? f.uid = some f' ∧
      f'.handler = true ∧ f'.status = .ready ∧ f'.fetchPC = atWord (w.trapVec.extractLsb' 2 55) ∧
      f'.causes = f.causes ||| (1#64 <<< 27) ∧ f'.frame.fence = f.fetchPC ∧ f'.frame.info.lanes = f.lanes ∧ f'.lanes = f.lanes ∧
      w'.s = w.s ∧ w'.g = w.g ∧ u.mem = s.mem ∧ { e with arrivals := [] } ∈ u.episodes))

/-! ### The matrix engine -/

namespace Sys2Proof.Claims

/-- A block's tile N is physical tile k of its core, free of loops under way; t is what it holds. -/
def holdsTile (s : State) (x : Focus) (b : Block) (n : Fin 16) (k : Fin 16) (t : Tile) : Prop :=
  s.block? x.w.block = some b ∧ b.tiles[n.val]? = some k ∧ (s.cores[coreFin b.core]).tiles[k] = t ∧ s.tilesBusy b [n.val] = false

/-- The state with another tile in a physical place. -/
def withTile (s : State) (b : Block) (k : Fin 16) (t : Tile) : State :=
  let c := coreFin b.core
  { s with cores := s.cores.set c { s.cores[c] with tiles := (s.cores[c]).tiles.set k t } }

/-- A value that TCFG accepts (R271, R273, R285). -/
def goodRecord (v : W64) : Prop :=
  let f := Ty.ofCode (v.extractLsb' 0 4).toNat
  let rows := (v.extractLsb' 4 5).toNat + 1
  let cols := (v.extractLsb' 9 9).toNat + 1
  let sblk := (v.extractLsb' 18 2).toNat
  let spn := (v.extractLsb' 26 2).toNat
  let blk := 32 * 2 ^ sblk
  v.extractLsb' 28 36 = 0 ∧ (f = .f32 ∨ f = .bf16 ∨ f = .e4m3 ∨ f = .e5m2 ∨ f = .si8 ∨ f = .t2) ∧ cols * f.width ≤ 1024 ∧
    (f = .t2 → cols % 4 = 0) ∧ (f = .f32 ∨ f = .bf16 → sblk = 0) ∧ (f = .si8 → sblk = 1) ∧ (f = .e4m3 ∨ f = .e5m2 → sblk ≤ 1) ∧
    (sblk ≠ 0 → rows * ((cols + blk - 1) / blk) ≤ 64) ∧
    (spn ≠ 0 → (f = .bf16 ∨ f = .e4m3 ∨ f = .e5m2) ∧ sblk = 0 ∧ cols = 48)

/-- Ranges are read one after another. -/
def readsEach (ag : Agent) (late : Bool) : List (Nat × Nat) → State → List (List Byte) → State → Prop
  | [], s, bss, t => bss = [] ∧ t = s
  | (a, n) :: ps, s, bss, t => ∃ bs u more, s.agRead ag late a n = .ok (bs, u) ∧ readsEach ag late ps u more t ∧ bss = bs :: more

/-- Ranges are written one after another, each of which would be accepted from the start. -/
def writesEach (ag : Agent) (late : Bool) (s0 : State) : List (Nat × List Byte) → State → State → Prop
  | [], s, t => t = s
  | (a, bs) :: ws, s, t => (∃ v, s0.agWrite ag late a bs = .ok v) ∧ ∃ u, s.agWrite ag late a bs = .ok u ∧ writesEach ag late s0 ws u t

/-- Bytes of a line in use (R287). -/
def usedBytes (t : Tile) : Nat :=
  if (t.ctl.extractLsb' 26 2).toNat ≠ 0 then 128
  else ((t.ctl.extractLsb' 9 9).toNat + 1) * (Ty.ofCode (t.ctl.extractLsb' 0 4).toNat).width / 8

/-- Where line j of an image stands, and its side area; the packed form, or the pitched one of s[B + 1] (R287). -/
def lineAt (w : Warp) (b : Fin 32) (pitched : Bool) (j : Nat) : W64 :=
  let p := w.s[Fin.ofNat 32 (b.val + 1)]
  w.s[b] + (if pitched then (p.extractLsb' 0 32).signExtend 64 else 128) * BitVec.ofNat 64 j
def sideAt (w : Warp) (b : Fin 32) (pitched : Bool) : W64 :=
  let p := w.s[Fin.ofNat 32 (b.val + 1)]
  w.s[b] + (if pitched then (p.extractLsb' 32 32).setWidth 64 else 4096)

/-- The alignment of an image. -/
def imageAligned (w : Warp) (b : Fin 32) (pitched : Bool) : Prop :=
  if pitched then w.s[b].toNat % 16 = 0 ∧ ((w.s[Fin.ofNat 32 (b.val + 1)].extractLsb' 0 32).signExtend 64).toNat % 16 = 0
  else w.s[b].toNat % 128 = 0

/-- The ranges of an image that a tile's record uses: line by line, then the side area where SBLK is not zero (R287). -/
def imageRanges (w : Warp) (b : Fin 32) (pitched : Bool) (t : Tile) : List (Nat × Nat) :=
  ((List.range ((t.ctl.extractLsb' 4 5).toNat + 1)).map fun j => ((lineAt w b pitched j).toNat, usedBytes t))
    ++ (if (t.ctl.extractLsb' 18 2).toNat ≠ 0 then [((sideAt w b pitched).toNat, 256)] else [])

/-- The bytes of those ranges; the device writes zero to bits 7:0 of a scale word (R52). -/
def imageBytes (t : Tile) : List (List Byte) :=
  ((List.range ((t.ctl.extractLsb' 4 5).toNat + 1)).map fun j => leBytes (usedBytes t) (t.content[Fin.ofNat 32 j]).toNat)
    ++ (if (t.ctl.extractLsb' 18 2).toNat ≠ 0 then [(List.finRange 64).flatMap fun k => leBytes 4 (0xFFFFFF00#32 &&& t.side[k]).toNat]
      else [])

/-- The sixteen slots of a cluster's tile-mode bank: slot n is the lowest free one (R152). -/
def slotFree (s : State) (w : Warp) (k : Fin 8) (n : Fin 16) : Prop :=
  ∀ u ∈ s.warps, u.core = w.core → ∀ t, u.acc[k].tile = some t → t.slot ≠ n
def lowestSlot (s : State) (w : Warp) (k : Fin 8) (n : Fin 16) : Prop :=
  slotFree s w k n ∧ ∀ j, j < n → ¬slotFree s w k j

/-- The accumulator of a warp with columns, in a slot; its row value as it was. -/
def withCols (w : Warp) (k : Fin 8) (slot : Fin 16) (cols : Vector (Lanes W32) 32) : Warp :=
  { w with acc := w.acc.set k { w.acc[k] with tile := some { slot := slot, cols := cols } } }

/-- Columns given by lane and column. -/
def columns (v : Fin 32 → Fin 32 → W32) : Vector (Lanes W32) 32 := Vector.ofFn fun c => Vector.ofFn fun l => v l c

/-- The slot that an instruction which needs tile mode uses: the accumulator's own, or the lowest free one. -/
def slotFor (s : State) (w : Warp) (k : Fin 8) (n : Fin 16) : Prop :=
  (∃ t, w.acc[k].tile = some t ∧ t.slot = n) ∨ (w.acc[k].tile = none ∧ lowestSlot s w k n)

/-- A convergent instruction of the strand engines in the whole warp. -/
def strandTogether (s : State) (x : Focus) (i : Instr) : Prop :=
  s.focus? = some x ∧ i.wf = true ∧ x.c.covered = false ∧ convergedAlone x

/-- Elements laid out from the low end, each in w bits. -/
def packed (w : Nat) : List Nat → Nat
  | [] => 0
  | v :: vs => v + 2 ^ w * packed w vs

/-- y is an ancestor of x, or x itself, under parents p, where 0xFF is no parent (R298). -/
def isAncestor (p : Nat → Nat) : Nat → Nat → Prop := Relation.ReflTransGen fun a b => p a ≠ 0xFF ∧ b = p a

/-- P[x] of the parent table in s[4 d] on (R298). -/
def parentByte (w : Warp) (d : Fin 8) (x : Nat) : Nat :=
  ((w.s[Fin.ofNat 32 (4 * d.val + x / 8)]).extractLsb' (8 * (x % 8)) 8).toNat

/-- The columns that a step starts from: zero where the accumulator enters tile mode or .Z says so (R289, R291). -/
def startCol (w : Warp) (k : Fin 8) (z : Bool) (l c : Fin 32) : W32 :=
  match w.acc[k].tile with
  | some t => if z then 0 else (t.cols[c])[l]
  | none => 0

/-- Element (l, c) of a step (R277): joined with its products, in one sum rounded once. -/
def stepElem (o : Operands) (idx : Nat) (from_ : Fin 32 → Fin 32 → W32) (l c : Fin 32) : FRes :=
  matrixSum (from_ l c).toNat (o.products idx l.val c.val)

/-- What a step leaves in a warp (R277, R303): the elements, their flags, RSV where a reserved code was read, the step
counted. -/
def steppedBy (o : Operands) (idx : Nat) (from_ : Fin 32 → Fin 32 → W32) (k : Fin 8) (n : Fin 16) (w : Warp) : Warp :=
  { withCols w k n (columns fun l c => BitVec.ofNat 32 (stepElem o idx from_ l c).bits) with
    fpstat := w.fpstat ||| BitVec.ofNat 32 (jointFlags (stepElem o idx from_))
    mxStat := if o.readsRsv then w.mxStat ||| 1 else w.mxStat
    mxSteps := w.mxSteps + 1 }

/-- The next step of the warp is not audited (R302). -/
def auditOff (w : Warp) : Prop :=
  w.mxAudCfg.extractLsb' 0 5 = 0 ∨ (w.mxSteps + 1).toNat % 2 ^ (w.mxAudCfg.extractLsb' 0 5).toNat ≠ 0

/-- Where the warp's next audit entry stands (R301). -/
def auditAt (w : Warp) : Nat :=
  w.mxAudRing.toNat + 16 * (w.mxAudSeq.toNat % 2 ^ (w.mxAudCfg.extractLsb' 8 5).toNat)

/-- The forms that a vector-mode accumulator refuses (R288, R298). -/
def vectorRefused (k : Fin 8) : Instr → Prop
  | .acctStore _ a _ | .acctRmax _ a | .acctRmin _ a | .acctRsum _ a | .acctRcol _ a _ | .acctWcol _ a _ | .tmask _ a _ _ => a = k
  | _ => False

/-- A parent table is legal for nodes 0 to n (R298). -/
def legalTree (w : Warp) (d : Fin 8) (n : Fin 32) : Prop := ∀ j ≤ n.val, parentByte w d j = 0xFF ∨ parentByte w d j < j

/-- TMASK masks element (l, c) (R298): a row of an active lane among the nodes, whose node has no ancestor c. -/
def treeMasked (x : Focus) (d : Fin 8) (n l c : Fin 32) : Bool :=
  active x none l && decide (l ≤ n) && !(decide (c ≤ n) && (ancestors (parentByte x.w d) 32 l.val).contains c.val)

/-- The audit configuration that MAUDIT accepts (R299). -/
def auditLegal (ring cfg : W64) : Prop :=
  let n := (cfg.extractLsb' 0 5).toNat
  ring.extractLsb' 57 7 = 0 ∧ ring.extractLsb' 0 4 = 0 ∧ (n = 0 ∨ (4 ≤ n ∧ n ≤ 16)) ∧ (cfg.extractLsb' 8 5).toNat ≤ 20 ∧
    cfg.extractLsb' 13 51 = 0 ∧ cfg.extractLsb' 5 3 = 0

end Sys2Proof.Claims

/-- R271, R285, R286, R287, R299, R303: TCFG writes the tile's record, or takes MATRIX with code 2 on a value it refuses; TZERO
clears content and side area; TLD reads the image's ranges into the lines in use, the others becoming zero; TST writes them; MAUDIT
sets the ring and MSTAT reads the status. -/
def Obligations.TileInstructions : Prop :=
  ∀ (s : State) (x : Focus) (blk : Block) (n k : Fin 16) (t : Tile), holdsTile s x blk n k t →
    (∀ b sr, meetReady s x (.tcfg b n sr) →
      (goodRecord x.w.s[sr] → exec (.tcfg b n sr) s
        = .next (finishMeeting (withTile s blk k { t with ctl := (x.w.s[sr]).setWidth 32 }) x.w x.f x.c.next)) ∧
      (¬goodRecord x.w.s[sr] → mayTrap s x → ∃ u, exec (.tcfg b n sr) s = .next u ∧ enteredHandler s u x 31 2 fun _ => 0)) ∧
    (∀ b, meetReady s x (.tzero b n) → exec (.tzero b n) s
      = .next (finishMeeting (withTile s blk k ⟨t.ctl, Vector.replicate 32 0, Vector.replicate 64 0⟩) x.w x.f x.c.next)) ∧
    (∀ b sr p bss u, meetReady s x (.tld b n sr p) → imageAligned x.w sr p →
      readsEach (s.agentOf x.w (firstLane x.f.lanes)) (lateWait s x) (imageRanges x.w sr p t) s bss u →
      ∃ t' : Tile, exec (.tld b n sr p) s = .next (finishMeeting (withTile u blk k t') x.w x.f x.c.next) ∧ t'.ctl = t.ctl ∧
        (∀ j : Fin 32, t'.content[j] = if j.val ≤ (t.ctl.extractLsb' 4 5).toNat
          then BitVec.ofNat 1024 (leNat ((bss[j.val]?).getD [])) else 0) ∧
        ((t.ctl.extractLsb' 18 2).toNat = 0 → t'.side = t.side) ∧
        ((t.ctl.extractLsb' 18 2).toNat ≠ 0 → ∀ j : Fin 64, t'.side[j] = 0xFFFFFF00#32 &&& BitVec.ofNat 32 (leNat
          ((((bss[(t.ctl.extractLsb' 4 5).toNat + 1]?).getD []).drop (4 * j.val)).take 4)))) ∧
    (∀ b sr p u, meetReady s x (.tst b n sr p) → imageAligned x.w sr p →
      writesEach (s.agentOf x.w (firstLane x.f.lanes)) (lateWait s x) s (((imageRanges x.w sr p t).map Prod.fst).zip (imageBytes t)) s u →
      exec (.tst b n sr p) s = .next (finishMeeting u x.w x.f x.c.next)) ∧
    (∀ b d, meetReady s x (.maudit b d) → s.matrixPending x.w = false →
      let ring := x.w.s[Fin.ofNat 32 (2 * d.val)]
      let cfg := x.w.s[Fin.ofNat 32 (2 * d.val + 1)]
      (auditLegal ring cfg → exec (.maudit b d) s
        = .next (finishMeeting s { x.w with mxAudRing := ring, mxAudCfg := cfg, mxAudSeq := 0 } x.f x.c.next)) ∧
      (¬auditLegal ring cfg → mayTrap s x → ∃ u, exec (.maudit b d) s = .next u ∧ enteredHandler s u x 31 10 fun _ => 0)) ∧
    (∀ b d clr, meetReady s x (.mstat b d clr) → s.matrixPending x.w = false →
      exec (.mstat b d clr) s = .next (finishMeeting s { wroteS x.w d (x.w.mxStat.setWidth 64) with
        mxStat := if clr then 0 else x.w.mxStat } x.f x.c.next))

/-- R152, R278, R288, R298: the forms of ACCT, and TMASK, on an accumulator: the next state each leaves, with the tile it reads or
writes, the flags it sets and nothing else; ACCMODE where the form needs tile mode and the accumulator has none. -/
def Obligations.AccumulatorForms : Prop :=
  ∀ (s : State) (x : Focus) (k : Fin 8),
    (∀ b n, strandTogether s x (.acctTile b k) → slotFor s x.w k n →
      exec (.acctTile b k) s = .next (finishStrand s x.c (withCols x.w k n (columns fun _ _ => 0)) x.f k)) ∧
    (∀ b, strandTogether s x (.acctTile b k) → x.w.acc[k].tile = none → (∀ n, ¬slotFree s x.w k n) →
      exec (.acctTile b k) s = .next (raisePlain s x (.strand k) 23)) ∧
    (∀ b, strandTogether s x (.acctVec b k) →
      exec (.acctVec b k) s = .next (finishStrand s x.c { x.w with acc := x.w.acc.set k { x.w.acc[k] with tile := none } } x.f k)) ∧
    (∀ b n q slot blk t, strandTogether s x (.acctLoad b k n) → holdsTile s x blk n q t →
      (Ty.ofCode (t.ctl.extractLsb' 0 4).toNat = .f32 ∨ Ty.ofCode (t.ctl.extractLsb' 0 4).toNat = .bf16) → slotFor s x.w k slot →
      exec (.acctLoad b k n) s = .next (finishStrand s x.c
        { withCols x.w k slot (columns fun l c => BitVec.ofNat 32 (roundV fmtF32 .rne false (t.elem l.val c.val)).bits) with
          fpstat := x.w.fpstat ||| BitVec.ofNat 32 (jointFlags fun l c =>
            (roundV fmtF32 .rne false (t.elem l.val c.val)).orFlags (sigFlag [t.elem l.val c.val])) } x.f k)) ∧
    (∀ b n q blk t tl, strandTogether s x (.acctStore b k n) → holdsTile s x blk n q t → x.w.acc[k].tile = some tl →
      let f := Ty.ofCode (t.ctl.extractLsb' 0 4).toNat
      (f = .f32 ∨ f = .bf16 ∨ f = .e4m3 ∨ f = .e5m2) →
      let r := fun l c : Fin 32 => storeRes f ((tl.cols[c])[l]).toNat
      let line := fun l : Fin 32 => BitVec.ofNat 1024 (packed f.width ((List.finRange 32).map fun c => (r l c).bits))
      exec (.acctStore b k n) s = .next (finishStrand (withTile s blk q { t with content := Vector.ofFn line }) x.c
        { x.w with fpstat := x.w.fpstat ||| BitVec.ofNat 32 (jointFlags r) } x.f k)) ∧
    (∀ i, vectorRefused k i → (strandTogether s x i ∨ strandReady s x i none ∧ ∀ b n, i ≠ .acctStore b k n) →
      x.w.acc[k].tile = none → exec i s = .next (raisePlain s x (.strand k) 22)) ∧
    (∀ tl, x.w.acc[k].tile = some tl →
      (∀ b i f, (i = .acctRmax b k ∧ f = foldRes (maxR .f32) ∨ i = .acctRmin b k ∧ f = foldRes (minR .f32) ∨
          i = .acctRsum b k ∧ f = fsum .f32) → strandReady s x i none →
        let r := fun l : Fin 32 => f ((List.finRange 32).map fun c => ((tl.cols[c])[l]).toNat)
        exec i s = .next (finishStrand s x.c { wroteAcc x.w k .f32 (active x none) (fun l => BitVec.ofNat 32 (r l).bits) with
          fpstat := x.w.fpstat ||| flagsOf (active x none) fun l => (r l).flags } x.f k)) ∧
      (∀ b c, strandReady s x (.acctRcol b k c) none → exec (.acctRcol b k c) s
        = .next (finishStrand s x.c (wroteAcc x.w k .f32 (active x none) fun l => (tl.cols[c])[l]) x.f k)) ∧
      (∀ b c, strandReady s x (.acctWcol b k c) none → exec (.acctWcol b k c) s
        = .next (finishStrand s x.c (withCols x.w k tl.slot (columns fun l d => if d = c ∧ active x none l = true
            then ((x.w.acc[k].val)[l]).setWidth 32 else (tl.cols[d])[l])) x.f k)) ∧
      (∀ b d n, strandReady s x (.tmask b k d n) none →
        legalTree x.w d n → exec (.tmask b k d n) s = .next (finishStrand s x.c (withCols x.w k tl.slot
          (columns fun l c => if treeMasked x d n l c then 0xFF800000#32 else (tl.cols[c])[l])) x.f k)) ∧
      (∀ d n, legalTree x.w d n → ∀ l c : Fin 32, l ≤ n → (c.val ∈ ancestors (parentByte x.w d) 32 l.val ↔
        isAncestor (parentByte x.w d) l.val c.val)) ∧
      (∀ b d n, strandReady s x (.tmask b k d n) none → ¬legalTree x.w d n →
        exec (.tmask b k d n) s = .next (raiseAll s x (.strand k) 31 (fun _ => 0) { RaiseInfo.plain with code := 8 })))

/-- R277, R289, R290, R291: MMA is one step on its accumulator, its audit entry written where one is due; MLOOP and MPAIR write the
warp's record from the descriptor, or go on from the record that stands for them, done at once where no step is left, else under way;
a half of an MPAIR waits for its bond. -/
def Obligations.MatrixSteps : Prop :=
  ∀ (s : State) (x : Focus) (blk : Block) (o : Operands) (ta tb : Fin 16) (k : Fin 8) (n : Fin 16),
    s.block? x.w.block = some blk → s.operands blk ta.val tb.val = .ok o → s.warpLoops x.w = false →
    s.tilesBusy blk (s.spans blk ta.val tb.val) = false → slotFor s x.w k n →
    (∀ b z, strandTogether s x (.mma b k ta tb z) → o.masksOk = true → s.engineTaken x = false →
      let w' := steppedBy o s.freeIndex (startCol x.w k z) k n x.w
      let entry := auditEntry o s.freeIndex w'.mxSteps.toNat k false ⟨n, columns (startCol x.w k z)⟩
        ⟨n, columns fun l c => BitVec.ofNat 32 (stepElem o s.freeIndex (startCol x.w k z) l c).bits⟩
      let wrote := s.agWrite (s.agentOf x.w 0) true (auditAt x.w) entry
      (auditOff x.w → exec (.mma b k ta tb z) s
        = .next (finishStrand { s with freeIndex := s.freeIndex + 1 } x.c w' x.f k)) ∧
      (∀ u, ¬auditOff x.w → wrote = .ok u → exec (.mma b k ta tb z) s
        = .next (finishStrand { u with freeIndex := u.freeIndex + 1 } x.c { w' with mxAudSeq := w'.mxAudSeq + 1 } x.f k)) ∧
      (∀ e, ¬auditOff x.w → wrote = .error e → exec (.mma b k ta tb z) s
        = .next (finishStrand { s with freeIndex := s.freeIndex + 1 } x.c
          { w' with mxAudSeq := w'.mxAudSeq + 1, mxStat := w'.mxStat ||| 2 } x.f k))) ∧
    (∀ b d z pair i ow w1, (i = .mloop b k ta tb d z ∧ pair = false ∨ i = .mpair b k ta tb d z ∧ pair = true) →
      strandTogether s x i → s.owner? x.w = some ow → ow.block = blk → (pair = true → ow.launch.depth ≠ 0) →
      let sc := fun j : Nat => x.w.s[Fin.ofNat 32 (4 * d.val + j)]
      (x.w.resumes x.c.pos k = true ∧ w1 = x.w ∨ x.w.resumes x.c.pos k = false ∧ (sc 3).extractLsb' 48 16 = 0 ∧
        (pair = false → (sc 3).extractLsb' 32 16 = 0) ∧
        w1 = { withCols x.w k n (columns (startCol x.w k z)) with loop := ⟨true, pair, k, 0, x.c.pos, sc 0, sc 1, sc 2, sc 3, none⟩ }) →
      let left := (w1.loop.cnt.extractLsb' 0 32).toNat - w1.loop.step
      let m : MatrixOp := ⟨⟨x.w.core, x.w.slot, x.f.uid⟩, x.c.pos, x.c.next, k, ta, tb, pair, none, s.time, none⟩
      let f := x.f.setPend { x.f.pendAt x.c i with flight := BitVec.allOnes 32 }
      let u := put { s with matrix := s.matrix ++ [m] } w1 { f with status := .waiting .bond }
      (left = 0 → exec i s = .next (finishStrand s x.c { w1 with loop := { w1.loop with valid := false } } x.f k)) ∧
      (left ≠ 0 → pair = false → exec i s = .next (put { s with matrix := s.matrix ++ [m] } w1 f)) ∧
      (left ≠ 0 → pair = true → exec i s = .next u.settlePairs) ∧
      ((∀ q ∈ u.matrix, ∀ v, u.loopView q = some v → u.partnerLost v = false) → u.settlePairs = u))

/-- R277, R291, R294, R295, R297: the engine's step of a loop that runs alone reads both spans, performs the step and writes the
record; the last step clears VALID and the loop is no longer under way; a bonded pair steps together, the base core reading B for
both; two matching halves bond; a fresh half that has waited past MX.BONDTO takes MATRIX with code 7. -/
def Obligations.MatrixEvents : Prop :=
  (∀ (s : State) (core : Fin 256) (m : MatrixOp) (v : LoopView) (tl : TileAcc) (a b : List Tile) (s1 : State),
    s.matrix = [m] → m.frag.core = core.val → m.pair = false → m.bond = none → s.loopView m = some v →
    s.loopReads v true = .ok (a, b, s1) → ({ v.o with a := a } : Operands).masksOk = true →
    v.w.acc[m.acc].tile = some tl → auditOff v.w →
    let o : Operands := { v.o with a := a, b := b }
    let u := { (s1.setSpan v.blk m.ta.val a).setSpan v.blk m.tb.val b with freeIndex := s1.freeIndex + 1 }
    let r := v.w.loop
    let r' : LoopRec := { r with
      step := r.step + 1, aAddr := r.aAddr + (r.inc.extractLsb' 0 32).signExtend 64
      bAddr := r.bAddr + (r.inc.extractLsb' 32 32).signExtend 64 }
    let w' := { steppedBy o s1.freeIndex (fun l c => (tl.cols[c])[l]) m.acc tl.slot v.w with loop := r' }
    (r.step + 1 < (r.cnt.extractLsb' 0 32).toNat → exec (.matrixStep core) s
      = .next (put { u with matrix := [{ m with since := s.time, out := none }] } w' v.f)) ∧
    (r.step + 1 ≥ (r.cnt.extractLsb' 0 32).toNat → exec (.matrixStep core) s
      = .next (finishStrand { u with matrix := [], cursor := some v.cursor } v.cursor { w' with loop := { r' with valid := false } }
        v.f m.acc))) ∧
  (∀ (s : State) (m q : MatrixOp) (v u : LoopView) (a1 b1 a2 own : List Tile) (s1 s2 : State), s.matrix = [m, q] →
    ∀ core : Fin 256, m.frag.core = core.val → core.val % 2 = 0 → q.frag.core = core.val + 1 → m.bond = some q.frag →
    q.bond = some m.frag → s.loopView m = some v → s.loopView q = some u →
    s.loopReads v true = .ok (a1, b1, s1) → (∃ p, s.loopReads u false = .ok p) → s1.loopReads u false = .ok (a2, own, s2) →
    ({ v.o with a := a1 } : Operands).masksOk = true → ({ u.o with a := a2 } : Operands).masksOk = true →
    exec (.matrixStep core) s = .next ((s2.loopStep m a1 b1).loopStep q a2 (crownTiles own b1))) ∧
  (∀ (s : State) (pair : Fin 128) (m q : MatrixOp) (v u : LoopView), s.matrix = [m, q] →
    m.frag.core = 2 * pair.val → q.frag.core = 2 * pair.val + 1 → m.pair = true → q.pair = true → m.bond = none → q.bond = none →
    s.loopView m = some v → s.loopView q = some u → v.blk.gang = u.blk.gang →
    v.w.loop.cnt.extractLsb' 32 16 = u.w.loop.cnt.extractLsb' 32 16 → v.w.loop.cnt.extractLsb' 0 32 = u.w.loop.cnt.extractLsb' 0 32 →
    v.w.loop.step = u.w.loop.step → v.o.b.map (fun t => t.ctl) = u.o.b.map (fun t => t.ctl) →
    let s1 := put s { v.w with loop := { v.w.loop with partner := some (u.blk.inGang, u.w.inBlock) } }
      { v.f with status := .ready, age := s.clock }
    let s2 := put s1 { u.w with loop := { u.w.loop with partner := some (v.blk.inGang, v.w.inBlock) } }
      { u.f with status := .ready, age := s.clock }
    exec (.mpairBond pair) s = .next { s2 with matrix :=
      [{ m with bond := some q.frag, since := s.time }, { q with bond := some m.frag, since := s.time }] }) ∧
  (∀ (s : State) (w : WarpRef) (m : MatrixOp) (v : LoopView), s.matrix = [m] → m.frag.core = w.core → m.frag.slot = w.slot →
    m.pair = true → m.bond = none → s.loopView m = some v → v.w.loop.step = 0 →
    (s.cgs[cgOfCore w.core].bondTo).toNat ≠ 0 → m.since + (s.cgs[cgOfCore w.core].bondTo).toNat * 1000 < s.time →
    exec (.mpairBondTimeout w) s = .next (s.loopStop v 31 0 7))

/-! ### Requests in flight and what a core does by itself -/

namespace Sys2Proof.Claims

/-- The state without a request: neither it, nor its forwarded value, nor what its loss would have left. -/
def withoutReq (s : State) (id : Nat) : State :=
  { s with reqs := s.reqs.filter fun r => r.id ≠ id, forwards := s.forwards.filter fun f => f.req ≠ id
           mem := { s.mem with watch := s.mem.watch.filter fun d => d.1 ≠ id } }

/-- MEM.ACKTO in nanoseconds (R97). -/
def ackTime (s : State) : Nat := max 10 s.mgmt.ackTo * 1000

/-- Nothing in flight has to be performed before a request, and nothing is performed with it (R86, R249, R253). -/
def reqAlone (s : State) (r : Req) : Prop := (∀ q ∈ s.reqs, s.precedes r q = false) ∧ s.together r = [r]

/-- What a lost write that was never performed leaves to be read besides what its location holds (R98). -/
def unsentAlts (s : State) (r : Req) : List Alt :=
  ((s.reqPas r).zip (leBytes r.size r.data.toNat)).map fun x => ⟨x.1, x.2, r.id⟩

/-- The state with a request replaced. -/
def withReq (s : State) (r : Req) : State := { s with reqs := s.reqs.map fun q => if q.id = r.id then r else q }

/-- The home of a request serves the die it came from. -/
def reachable (s : State) (r : Req) : Prop :=
  s.serves (s.reqAgent r).die.val (s.homeDie (s.reqAgent r) (.glob r.va.toNat)) = true

/-- The ring record number n is written at its slot, then TAIL and DONE (R170, R360, R455): base at 0, LOG2N at 8, HEAD at 16, TAIL
at 24, DONE at 32 of the ring's control block. -/
def ringWritten (s : State) (asid : Nat) (ring : W64) (n size : Nat) (bs : List Byte) (t : State) : Prop :=
  ∃ base log2n head u v, s.readNum asid ring.toNat 8 = some base ∧ s.readNum asid (ring.toNat + 8) 1 = some log2n ∧
    s.readNum asid (ring.toNat + 16) 8 = some head ∧ n < head + 2 ^ log2n ∧
    s.writeVa asid (base + size * (n % 2 ^ log2n)) bs = .ok u ∧
    u.writeVa asid (ring.toNat + 24) (leBytes 8 (n + 1)) = .ok v ∧ v.writeVa asid (ring.toNat + 32) (leBytes 8 (n + 1)) = .ok t

/-- The bytes of a fault record (R170): VADDR, LANES, DONE, CAUSE, STRAND, core, entry, slot, FLAGS, SEQ. -/
def faultBytes (r : DueRecord) (core slot : Nat) (entry : BitVec 9) (seq : Nat) : List Byte :=
  leBytes 8 r.vaddr.toNat ++ leBytes 4 r.lanes.toNat ++ leBytes 4 r.done.toNat ++ [r.cause, r.strand]
    ++ leBytes 2 core ++ leBytes 2 entry.toNat ++ [BitVec.ofNat 8 slot, r.flags] ++ leBytes 8 seq

end Sys2Proof.Claims

/-- R83, R84, R85, R92, R97, R98, R100, R263, R415: a request is performed at its home; the value of a load or ATOM reaches its lane; a
remote .E store is accepted, passes its global point after those that precede it, and is acknowledged, or its lane notes the lost
acknowledgement; a .G store completes with its acknowledgement; past MEM.ACKTO a request without a response gives its lane ACKLOST, and
the location of a store is indeterminate. No response counts after that.

Which fragment notes a lost acknowledgement is the model's choice (log 41). -/
def Obligations.RequestEvents : Prop :=
  ∀ (s : State) (r : Req), s.req? r.id = some r →
    (r.phase = .issued → r.lost = false → reachable s r → reqAlone s r →
      ∀ u a, s.performAt (s.reqAgent r) r.kind (.glob r.va.toNat) r.base r.size r.data s.choice.stale = (u, a) →
        let v := u.watching (if r.remote = true ∧ r.kind ≠ .load then s.mem.alts r.id (s.reqPas r) else [])
        (r.kind = .load ∨ (∃ o t, r.kind = .atom o t) ∨ r.remote = true ∧ r.kind = .store →
          exec (.homeAccess r.id) s = .next (withReq v { r with phase := .performed a })) ∧
        (r.remote = false → r.kind = .store ∨ r.kind = .storeE →
          exec (.homeAccess r.id) s = .next ((withoutReq v r.id).answerReq r a)) ∧
        (∀ x n, r.kind = .stnt → a = .value x n → exec (.homeAccess r.id) s = .next (withoutReq v r.id))) ∧
    (r.phase = .accepted → r.lost = false → reachable s r → s.mem.wf = true →
      ∃ u, exec (.homeAccess r.id) s = .next u ∧ u.warps = s.warps ∧ (u.req? r.id).map (fun q => q.phase) = some .global ∧
        (∀ f ∈ u.forwards, f ∈ s.forwards ∧ f.req ≠ r.id) ∧
        (∀ l1 f l2, s.forwards = l1 ++ f :: l2 → (∀ h ∈ l1, h.req ≠ r.id) → f.req ≠ r.id → (s.req? f.req).isSome = true →
          f.die = dieOfCore r.frag.core → (∃ g ∈ l2, g.req = r.id ∧ g.die = f.die ∧ g.pa = f.pa) → ∀ h ∈ u.forwards, h.req ≠ f.req) ∧
        ((∀ f ∈ s.forwards, f.req ≠ r.id → ∀ g ∈ s.forwards, g.req = r.id → f.pa ≠ g.pa) →
          u.forwards = s.forwards.filter (fun f => f.req ≠ r.id) ∧
          (∀ f ∈ s.forwards, f.req = r.id → (∀ g ∈ s.forwards, g.req = r.id → g.pa = f.pa → g.byte = f.byte) →
            u.mem.byte f.pa = f.byte) ∧
          ∀ a, (∀ f ∈ s.forwards, f.req = r.id → f.pa ≠ a) → u.mem.byte a = s.mem.byte a)) ∧
    (∀ u a, r.count = 1 → State.answerReq u r a = u.answerLane r.frag r.pos [(r.lane, a)]) ∧
    (∀ a, r.phase = .performed a → r.lost = false → (r.remote = true → s.time < r.issuedAt + ackTime s) →
      (r.kind = .load ∨ (∃ o t, r.kind = .atom o t) → exec (.loadResponse r.id) s = .next ((withoutReq s r.id).answerReq r a)) ∧
      (r.kind = .store → exec (.globalAcknowledgement r.id) s = .next ((withoutReq s r.id).answerReq r a))) ∧
    (∀ v n, r.phase = .performed (.value v n) → r.lost = false → r.remote = true → s.time < r.issuedAt + ackTime s →
      r.kind = .storeE → r.answered = false →
      let ph : ReqPhase := if s.forwards.any (fun f => f.req == r.id) then .accepted else .global
      exec (.storeAcceptance r.id) s = .next ((withReq s { r with phase := ph, answered := true, acceptedAt := s.time }).answerReq r
        (.value v n))) ∧
    (r.phase = .global → r.lost = false → (r.remote = true → s.time < r.acceptedAt + ackTime s) →
      exec (.globalAcknowledgement r.id) s = .next (withoutReq s r.id)) ∧
    (r.remote = true → r.answered = false → r.issuedAt + ackTime s ≤ s.time →
      (r.kind = .load → exec (.acklostTimeout r.id) s = .next ((withoutReq s r.id).answerReq r (.cause 15 r.base))) ∧
      (r.kind = .store → r.phase = .issued →
        let u := { s with mem := { s.mem with indet := unsentAlts s r ++ s.mem.indet } }
        exec (.acklostTimeout r.id) s = .next ((withoutReq u r.id).answerReq r (.cause 15 r.base)))) ∧
    (∀ w f, (r.phase = .accepted ∨ r.phase = .global) → r.acceptedAt + ackTime s ≤ s.time →
      s.warp? r.frag.core r.frag.slot = some w → w.frags.find? (fun g => inMask g.lanes r.lane) = some f → f.lostAcks[r.lane] = none →
      ∃ u w' f', exec (.globalAckLoss r.id) s = .next u ∧ u.warp? r.frag.core r.frag.slot = some w' ∧
        w'.frags.find? (fun g => inMask g.lanes r.lane) = some f' ∧ f'.lostAcks[r.lane] = some r.base ∧ u.req? r.id = none)

/-- R141, R161, R162, R165, R170, R171, R247, R333, R340: what a core, a core group and a vertical pair do by themselves.

When the gate of a crown takes effect and when a change of the LCLK ratio has drained are the model's readings (log 9, log
22). -/
def Obligations.CoreEvents : Prop :=
  ∀ (s : State),
    (∀ (r : FragRef) w f, s.warp? r.core r.slot = some w → w.frag? r.uid = some f → f.trapPending = true → s.busy w.core = false →
      w.preTaken = false → (∀ v ∈ s.warps, cgOfCore v.core = cgOfCore w.core → ∀ g ∈ v.frags, g.trapPending = true → f.arrivedAt ≤ g.arrivedAt) →
      w.trapVec ≠ 0 → ∃ u w' f', exec (.handlerEntry r) s = .next u ∧ u.warp? r.core r.slot = some w' ∧ w'.frag? r.uid = some f' ∧
        f'.handler = true ∧ f'.trapPending = false ∧ f'.status = .ready ∧ f'.fetchPC = atWord (w.trapVec.extractLsb' 2 55) ∧
        f'.frame.fence = f.fencePC ∧ w'.s = w.s ∧ w'.g = w.g ∧ u.mem = s.mem) ∧
    (∀ (q : WarpRef) w d rest e, s.warp? q.core q.slot = some w → w.deferred = d :: rest → w.preTaken = false →
      s.entryless q.core = none → (∀ v ∈ s.warps, v.core = q.core → v.slot < q.slot → v.deferred = []) → s.freeEntry? q.core = some e →
      ∃ w' f', exec (.deferredPop q) s = .next (s.setWarp w') ∧ w'.deferred = rest ∧ w'.frags = w.frags ++ [f'] ∧
        f'.lanes = d.lanes ∧ f'.fetchPC = d.pc ∧ f'.fencePC = d.pc ∧ f'.entry = e ∧ f'.status = .ready ∧ f'.lostAcks = d.lostAcks ∧
        f'.stntFaults = d.stntFaults ∧ w'.s = w.s ∧ w'.g = w.g) ∧
    (∀ (q : WarpRef) w d rest, s.warp? q.core q.slot = some w → w.deferred = d :: rest → w.preTaken = false → s.freeEntry? q.core = none →
      (∀ f ∈ w.frags, s.isReady w f = false) →
      ∃ w' f', exec (.deferredPop q) s = .next (s.setWarp w') ∧ w'.deferred = rest ∧ w'.frags = w.frags ++ [f'] ∧
        f'.lanes = d.lanes ∧ f'.fetchPC = d.pc ∧ f'.entry = 511#9 ∧ f'.status = .ready ∧ w'.s = w.s ∧ w'.g = w.g) ∧
    (∀ (asid : BitVec 16) a w f r rest t, s.space? asid.toNat = some a → s.nextDue asid.toNat = some (w, f) → f.due = r :: rest →
      ringWritten s asid.toNat a.ring a.ringSeq 32 (faultBytes r w.core w.slot f.entry a.ringSeq) t →
      ∃ u, exec (.faultRingRecord asid) s = .next u ∧ u.mem = t.mem ∧
        u.warps = (put t w { f with due := rest, ringSeq := some (BitVec.ofNat 64 a.ringSeq) }).warps ∧
        u.spaces = t.spaces.map fun b => if b.asid = asid.toNat then { b with ringSeq := b.ringSeq + 1 } else b) ∧
    (∀ (r : FragRef) w f wa x bs t, s.warp? r.core r.slot = some w → w.frag? r.uid = some f → f.status = .ready →
      s.fetchOf w f = .missing wa → s.executable (s.asidOf w) (wa * 4) = true →
      s.serves (dieOfCore w.core).val ((s.homeOf (some (cgOfCore w.core)) (s.asidOf w) (wa * 4)).getD (dieOfCore w.core).val) = true →
      s.fetchXlate (cgOfCore w.core) (s.asidOf w) (wa * 4) = .ok x →
      let u := (s.noteRegion (some (cgOfCore w.core)) (s.asidOf w) (wa * 4)).useXlate (s.asidOf w) (wa * 4) .fetch x
      u.mem.poisoned x.pa 4 = false → u.bytesFor (some (dieOfCore w.core)) x.pa 4 = (bs, t) →
      let g := t.cgs[cgOfCore w.core]
      let e : CodeWord := ⟨s.asidOf w, wa, BitVec.ofNat 32 (leNat bs)⟩
      exec (.codeStoreFill r) s = .next { t with cgs := t.cgs.set (cgOfCore w.core) { g with store := e :: g.store } }) ∧
    (∀ (r : FragRef) w f wa, s.warp? r.core r.slot = some w → w.frag? r.uid = some f → s.fetchOf w f = .missing wa →
      s.executable (s.asidOf w) (wa * 4) = false → exec (.codeStoreFill r) s = .next s) ∧
    (∀ (cg : Fin 64), (s.cgs[cg]).phase = some .drain → s.drained cg = true →
      let ph := if (s.cgs[cg]).req = (s.cgs[cg]).cur then none else some (.relock (s.time + cyclesNs 2048))
      exec (.lratioSwitch cg) s = .next { s with cgs := s.cgs.set cg { s.cgs[cg] with phase := ph } }) ∧
    (∀ (cg : Fin 64) due, (s.cgs[cg]).phase = some (.relock due) → due ≤ s.time →
      exec (.lratioResume cg) s = .next { s with cgs := s.cgs.set cg { s.cgs[cg] with cur := (s.cgs[cg]).req, phase := none } }) ∧
    (∀ (core : Fin 256) (b : Fin 12) (p : FifoWait), let k := (s.cores[core]).banks[b]
      (∀ rest ws, k.pushes = p :: rest → p.push = some ws → k.fifo.length + ws.length ≤ 16384 →
        let done := s.setBank core.val b { k with fifo := k.fifo ++ ws, pushes := rest }
        exec (.fifoBankServe core b) s = .next (((done.answerLane p.frag p.pos ((lanesOf p.lanes).map fun l => (l, .value 0 0)))).serveBank
          core.val b 63)) ∧
      (∀ rest, k.pushes = [] → k.pops = p :: rest → (lanesOf p.lanes).length ≤ k.fifo.length →
        let n := (lanesOf p.lanes).length
        let done := s.setBank core.val b { k with fifo := k.fifo.drop n, head := (k.head + n) % 16384, pops := rest }
        exec (.fifoBankServe core b) s = .next ((done.answerLane p.frag p.pos (s.popAnswers core.val b k.head p (k.fifo.take n))).serveBank
          core.val b 63) ∧
        ((∀ j < n, s.badUnit (.bank core.val b (4 * ((k.head + j) % 16384))) = false) → p.addrs.length = n →
          s.popAnswers core.val b k.head p (k.fifo.take n)
            = (lanesOf p.lanes).zip ((k.fifo.take n).map fun v => .value (v.setWidth 64) 0))) ∧
      (k.pushes = [] → k.pops = [] → exec (.fifoBankServe core b) s = .next s)) ∧
    (∀ (pair : Fin 128) v rest, (s.pairs[pair]).waits = v :: rest → s.admits (2 * pair.val) v.entries.length = true →
      let p : Pair := { s.pairs[pair] with waits := rest, fifo := (s.pairs[pair]).fifo ++ v.entries }
      ∃ u, exec (.vxPushAdmit pair) s = .next u ∧ u.pairs = s.pairs.set pair p ∧ u.mem = s.mem) ∧
    (∀ (pair : Fin 128), (s.pairs[pair]).gate = .pending → (s.pairs[pair]).fifo = [] → (∀ w ∈ s.warps, w.core ≠ 2 * pair.val + 1) →
      (s.pairs[pair]).waits = [] → s.matrix = [] → (∀ k : Fin 12, let b := (s.cores[coreFin (2 * pair.val + 1)]).banks[k]
        b.pushes = [] ∧ b.pops = []) →
      ∃ u, exec (.crownGateEffect pair) s = .next u ∧ u.pairs = s.pairs.set pair { s.pairs[pair] with gate := .gated } ∧
        u.cores = s.cores.set (coreFin (2 * pair.val + 1)) Core.reset ∧ u.warps = s.warps) ∧
    (∀ (pair : Fin 128), (s.pairs[pair]).gate = .waking → (∀ k : Fin 12, let b := (s.cores[coreFin (2 * pair.val + 1)]).banks[k]
        b.pushes = [] ∧ b.pops = []) →
      ∃ u, exec (.crownWake pair) s = .next u ∧ u.pairs = s.pairs.set pair { s.pairs[pair] with gate := .on } ∧
        u.cores = s.cores.set (coreFin (2 * pair.val + 1)) Core.reset ∧ u.warps = s.warps)

/-! ### Queue records -/

namespace Sys2Proof.Claims

/-- A record stands at the head of a queue, and the device can read it; some die is ready (R19, R361, R362). The records up to the
last TAIL are taken before TAIL is looked at again. -/
def headIs (s : State) (q : Queue) (tail : Nat) (r : Rec256) (t : State) : Prop :=
  s.queue? q.vi q.q = some q ∧ q.err = false ∧ (∃ d : Fin 4, (s.dies[d]).ready = true) ∧
    (if q.head < q.seen then tail = q.seen else s.tailOf q = some tail) ∧ q.head < tail ∧ tail ≤ q.head + 2 ^ q.log2n ∧
    ∃ bs, s.readVa none q.asid (q.ring.toNat + 256 * (q.head % 2 ^ q.log2n)) 256 = .ok (bs, t) ∧ r = recOfBytes bs

/-- The record has been taken: HEAD is one higher in the device, and in the control block once it was the last up to TAIL (R361); a
number has been given out. -/
def headMoved (t : State) (q : Queue) (tail : Nat) : State :=
  let k : Queue := { q with head := q.head + 1, seen := tail }
  let u : State := { t with queues := t.queues.map fun x => if x.vi = q.vi ∧ x.q = q.q then k else x }
  { if q.head + 1 < tail then u else u.tryWriteVa q.asid (q.block.toNat + 16) (leBytes 8 (q.head + 1)) with nextId := t.nextId + 1 }

/-- The operation of the record is complete with a status, and the queue's counter has advanced over it where no earlier operation is
incomplete (R360). -/
def opEnded (u : State) (q : Queue) (tail status : Nat) (kernel : Bool) : Prop :=
  ∃ n, u.queue? q.vi q.q =
      some { q with head := q.head + 1, seen := tail, statuses := q.statuses ++ [⟨q.head + 1, status, kernel⟩], counter := n } ∧
    (q.counter = q.head → (∀ x ∈ q.statuses, x.op ≤ q.head) → n = q.head + 1) ∧
    (q.counter < q.head → (∀ x ∈ q.statuses, x.op ≠ q.counter + 1) → n = q.counter)

/-- The record names no dependence. -/
def noDeps (r : Rec256) : Prop :=
  recField r 1 1 % 4 = 0 ∧ ∀ n, n < 3 → bits (BitVec.ofNat 64 (recField r (64 + 16 * n) 8)) 63 60 = 0

/-- The operation of an ADMIT or WITHDRAW record. -/
def opOf (t : State) (q : Queue) (kind : PendingRecord) (r : Rec256) : PendingOp :=
  { id := t.nextId, queue := ⟨q.vi, q.q⟩, op := q.head + 1, kind := kind, deps := [none, none, none, none]
    base := BitVec.ofNat 64 (recField r 16 8), status := BitVec.ofNat 64 (recField r 40 8), started := false }

end Sys2Proof.Claims

/-- R139-R141, R361-R365: what each record at the head of a queue does when it is taken. An operation without a dependence acts at
once; a record of an unknown KIND and a kernel record that fails a check complete with their status. A second withdrawal of an
object waits until the first is complete.

R141: a withdrawal completes once no launch of the object is left: the object and every code-store copy of its words are gone, and
the operation ends.

That a withdrawal with nothing left completes at once is the model's choice (log 29). -/
def Obligations.QueueRecords : Prop :=
  (∀ (s t : State) (q : Queue) (tail : Nat) (r : Rec256), headIs s q tail r t →
    (recField r 0 1 = 0 → noDeps r → (∀ o ∈ s.pendingOps, o.id ≠ s.nextId) →
      ∃ u, exec (.nopRecord ⟨q.vi, q.q⟩) s = .next u ∧ opEnded u q tail 0 false ∧ u.warps = s.warps ∧ u.launches = s.launches ∧
        u.pendingOps = s.pendingOps) ∧
    (recField r 0 1 = 2 → ∀ d, minBy id (admitFaults r) = some d →
      exec (.admitRecord ⟨q.vi, q.q⟩) s = .next (((headMoved t q tail).tryWriteVa q.asid (recField r 40 8) (Verdict.whole 0x10 d).bytes).completeOp
        ⟨q.vi, q.q⟩ (q.head + 1) 0 false)) ∧
    (recField r 0 1 = 2 → admitFaults r = [] → noDeps r → ∀ a v,
      let o := opOf t q .admission r
      State.admitObject { headMoved t q tail with pendingOps := s.pendingOps ++ [o] } q.asid (recField r 16 8) = (a, v) →
      ∃ u, exec (.admitRecord ⟨q.vi, q.q⟩) s = .next u ∧ u.objects = a.objects ∧
        u.pendingOps = a.pendingOps.filter (fun p => p.id ≠ o.id)) ∧
    (recField r 0 1 = 3 → admitFaults r = [] → noDeps r → (∀ o ∈ s.pendingOps, o.id ≠ s.nextId) →
      ((∀ c ∈ s.objects, ¬(c.asid = q.asid ∧ c.base = recField r 16 8)) →
        ∃ u, exec (.withdrawRecord ⟨q.vi, q.q⟩) s = .next u ∧ opEnded u q tail 0 false ∧ u.objects = s.objects) ∧
      ((∃ c ∈ s.objects, c.asid = q.asid ∧ c.base = recField r 16 8 ∧ c.withdrawing ≠ none) →
        ∃ u, exec (.withdrawRecord ⟨q.vi, q.q⟩) s = .next u ∧ u.objects = s.objects ∧
          u.pendingOps = s.pendingOps ++ [opOf t q .withdraw r]) ∧
      (∀ c, s.objects = [c] → c.asid = q.asid → c.base = recField r 16 8 → c.withdrawing = none →
        (∃ l ∈ s.launches, l.asid = c.asid ∧ l.obj = c.base) →
        ∃ u, exec (.withdrawRecord ⟨q.vi, q.q⟩) s = .next u ∧ u.objects = [{ c with withdrawing := some s.nextId }] ∧
          u.pendingOps = s.pendingOps ++ [{ opOf t q .withdraw r with started := true }])) ∧
    (4 ≤ recField r 0 1 → ∃ u, exec (.unknownRecord ⟨q.vi, q.q⟩) s = .next u ∧ opEnded u q tail 1 false ∧ u.launches = s.launches) ∧
    (recField r 0 1 = 1 →
      let l := launchOf s.nextId q (q.head + 1) r
      (∀ d, minBy id (recordFaults r) = some d → ∃ u, exec (.kernelRecord ⟨q.vi, q.q⟩) s = .next u ∧ opEnded u q tail 1 true ∧
        u.launches = s.launches) ∧
      (recordFaults r = [] → (∀ c ∈ s.objects, ¬(c.asid = q.asid ∧ c.base = recField r 16 8 ∧ c.withdrawing = none)) →
        ∃ u, exec (.kernelRecord ⟨q.vi, q.q⟩) s = .next u ∧ opEnded u q tail 2 true ∧ u.launches = s.launches) ∧
      ∀ k, (headMoved t q tail).checkKernel { q with seen := tail } l = .ok k →
        exec (.kernelRecord ⟨q.vi, q.q⟩) s = .next { headMoved t q tail with launches := s.launches ++ [k] })) ∧
  (∀ (s : State) (op : Nat) (o : PendingOp) (c : CodeObject),
    s.pendingOps.find? (fun p => p.id == op && p.started) = some o → s.objects.find? (fun d => d.withdrawing == some op) = some c →
    (∀ l ∈ s.launches, ¬(l.asid = c.asid ∧ l.obj = c.base)) →
    ∃ u, exec (.withdrawalComplete op) s = .next u ∧
      u.objects = s.objects.filter (fun d => ¬(d.asid = c.asid ∧ d.base = c.base)) ∧
      u.pendingOps = s.pendingOps.filter (fun p => p.id ≠ op) ∧
      (∀ g : Fin 64, (u.cgs[g]).store = (s.cgs[g]).store.filter fun e =>
        ¬(e.asid = c.asid ∧ c.code / 4 ≤ e.wa ∧ e.wa < c.code / 4 + c.codeLen / 4)) ∧ u.warps = s.warps)

/-! ### The device's own events -/

namespace Sys2Proof.Claims

/-- Mult of a temperature: the code of its multiplier (R434). -/
def multFor (t : Nat) : Nat := if t ≤ 85 then 0 else if t ≤ 95 then 1 else if t ≤ 105 then 2 else 3

/-- Thr of the level below a multiplier's (R434). -/
def thrBelow (m : Nat) : Nat := if m = 1 then 85 else if m = 2 then 95 else 105

/-- MULT after one governor step at a sampled temperature (R434). -/
def governed (mult t : Nat) : Nat :=
  if multFor t > mult then multFor t else if multFor t < mult ∧ t ≤ thrBelow mult - 3 then mult - 1 else mult

/-- The bytes of a window on one direction of one link that some launches carried (R380). -/
def carried (cs : List LinkCount) (p : LinkCount → Bool) (k : Fin 4) (dir : Bool) : Nat :=
  ((cs.filter fun c => p c && c.link == k && c.dir == dir).map fun c => c.last).sum

/-- One direction of one link carried more than a share of it, in per cent; a share of 0 sets no limit (R380, R381). -/
def exceeded (share : Nat) (cs : List LinkCount) (p : LinkCount → Bool) : Prop :=
  share ≠ 0 ∧ ∃ k : Fin 4, ∃ dir : Bool, share * 600000 < carried cs p k dir

/-- The only launch of the device is one gang, not placed yet, that a pass of the die considers (R376). -/
def oneWaits (s : State) (die : Fin 4) (l : Launch) (i : Iface) (p : Partition) (k : Kernel) (d : Nat) : Prop :=
  s.launches = [l] ∧ s.saved = [] ∧ l.eligibleAt ≠ none ∧ l.ending = none ∧ l.heldBack = false ∧ i.held = false ∧
    s.placeEnv l = some (i, p, k) ∧ (∀ c ∈ s.objects, c.asid = l.asid → c.base = l.obj → c.withdrawing = none) ∧
    l.depth = 1 ∧ l.nGangs = 1 ∧ l.placed = 0 ∧ l.reserved = [] ∧ i.logicalDie die.val = some d ∧ d ∈ l.dieList ∧
    (s.dies[die]).ready = true

/-- The die has run its pass of this microsecond. -/
def passedNow (s : State) (die : Fin 4) : State :=
  { s with dies := s.dies.set die { s.dies[die] with passed := s.time / 1000 + 1, passDue := false } }

end Sys2Proof.Claims

/-- R376: a placement pass with nothing pending changes nothing but the device's note of the pass; a pending gang that fits on a core
group is placed there, and one that fits on none is refused, which adds one to REFUSALS.

R375, R380, R381, R384, R396, R401, R402, R424, R434: what happens at the end of a window, a governor sample, a forced save, a save,
and the scrub's report.

When a pass happens and the choice among equal places (log 29), the fields of an event (log 21) and what a save keeps (log
25) are the model's choices. -/
def Obligations.PassesAndDeviceEvents : Prop :=
  (∀ (s : State) (die : Fin 4),
    (s.launches = [] → exec (.placementPass die) s = .next (passedNow s die)) ∧
    ∀ l i p k d, oneWaits s die l i p k d →
      (∀ t g h, (passedNow s die).placeAmong l p k ⟨[], []⟩ 0 ((passedNow s die).cgsOn i p d) = some (t, g, h) →
        let u : State := { t with
          units := t.units ++ [{ id := t.nextId, launch := l.id, kind := 0, gangs := [g], requested := none, restores := 0 }]
          nextId := t.nextId + 1
          launches := [{ l with placed := 1, tFirst := some (l.tFirst.getD t.time) }] }
        exec (.placementPass die) s = .next (u.active l)) ∧
      ((passedNow s die).placeAmong l p k ⟨[], []⟩ 0 ((passedNow s die).cgsOn i p d) = none → l.refusals + 1 < bits (s.dies[die]).ageCfg 15 0 →
        exec (.placementPass die) s = .next { passedNow s die with launches := [{ l with refusals := l.refusals + 1 }] })) ∧
  (∀ (s : State) (die : Fin 4),
    (s.linkWindow < s.time / 10000 → ∃ u, exec .linkWindowEnd s = .next u ∧ u.linkWindow = s.linkWindow + 1 ∧ u.warps = s.warps ∧
      u.mem = s.mem ∧ (∀ l' ∈ u.launches, ∃ l ∈ s.launches, l'.id = l.id ∧ l'.placed = l.placed ∧ l'.refusals = l.refusals ∧
        (l'.heldBack = true ↔ exceeded (l.lshare) u.linkCounts (fun c => c.launch == l.id) ∨
          ∃ i ∈ s.ifaces, i.vi = l.queue.vi ∧ exceeded i.linkShare u.linkCounts fun c => c.vi == i.vi) ∧
        l'.held = l.held + if l'.heldBack then 1 else 0) ∧
      (∀ c ∈ u.linkCounts, ∃ a ∈ s.linkActive, c.launch = a.1 ∧ c.vi = a.2) ∧
      ∀ l ∈ s.launches, (∃ x ∈ s.units, x.launch = l.id) → (l.id, l.queue.vi) ∈ u.linkActive) ∧
    (∀ core : Fin 256, exec (.runShareWindowEnd core) s =
      .next { s with runCounts := s.runCounts.filter fun r => ¬(r.core = core.val ∧ r.window < s.time / 10000) }) ∧
    ((s.dies[die]).charged < s.time / 10000 → (s.dies[die]).ready = true → ∀ l, s.launches = [l] → s.residents (16 * die.val) = [l] →
      (∀ v, 0 < v → v < 16 → s.residents (16 * die.val + v) = []) → s.heatOn l (16 * die.val) = 0 →
      ∃ u l', exec (.refreshCharge die) s = .next u ∧ u.launches = [l'] ∧ (u.dies[die]).charged = (s.dies[die]).charged + 1 ∧
        (l.refDen ≠ 0 → (l'.refNum : ℚ) / l'.refDen = (l.refNum : ℚ) / l.refDen + 100 * 2 ^ (((s.dies[die]).vaults[0]).mult.val + 1))) ∧
    ((s.dies[die]).governed < s.time / 10000 → (s.dies[die]).governed < (s.dies[die]).charged → (s.dies[die]).ready = true →
      ∃ u, exec (.governorSample die) s = .next u ∧ ∀ v : Fin 16, let a := (s.dies[die]).vaults[v]; let b := (u.dies[die]).vaults[v]
        b.mult.val = governed a.mult.val a.now ∧ (b.hot = true ↔ 115 < a.now ∨ (a.hot = true ∧ 112 < a.now))) ∧
    (∀ (n : Nat) u t w f, s.units.find? (fun x => x.id == n) = some u → u.requested = some t → s.warpsOf u = [w] → w.preTaken = false →
      s.busy w.core = false → t + 1000 * max 10 (s.dies[dieOfCore w.core]).preTmo.toNat ≤ s.time → s.warp? w.core w.slot = some w →
      w.frags = [f] → f.pend = [] → f.status = .ready →
      ∃ x w' g, exec (.forcedSave n) s = .next x ∧ x.warp? w.core w.slot = some w' ∧ w'.preTaken = true ∧ w'.preMaps = none ∧
        w'.frags = [g] ∧ g.fetchPC = f.fencePC ∧ g.fencePC = f.fencePC ∧ g.lanes = f.lanes ∧ g.status = .ready ∧ w'.g = w.g ∧ w'.s = w.s) ∧
    (∀ (n : Nat) u l, s.units.find? (fun x => x.id == n) = some u → s.launch? u.launch = some l →
      let p := s.partsOf u l
      s.saveReady p = true →
      (s.recordBad p = true → exec (.contextSave n) s = .next (s.terminateSpace l.asid)) ∧
      (s.recordBad p = false → exec (.contextSave n) s = .next (p.cores.foldl State.settleCore { (s.vacate p).wakeDispatch with
        saved := s.saved ++ [(s.recordOf p).withHeader l], freeIndex := (s.vacate p).freeIndex + 1 })) ∧
        (s.vacate p).units = s.units.filter (fun x => x.id ≠ u.id) ∧
        (∀ b ∈ (s.vacate p).blocks, b.gang ∉ u.gangs) ∧ (∀ g ∈ (s.vacate p).gangs, g.id ∉ u.gangs)) ∧
    (∀ v : Fin 16, exec (.vaultScrubError die v) s = .next { s with mgmt := { s.mgmt with scrubbed := s.mgmt.scrubbed ++ [16 * die.val + v.val] } }))

/-- R439-R444, R451: a die, a link and a scale-up port come up and go down. A link that goes down or comes back drops every forwarded
value; the count of failures goes up; the change is reported.

What a reset keeps (log 38), which messages a failing link loses (log 31) and where an event goes (log 21) are the model's
choices. -/
def Obligations.LinksAndDies : Prop :=
  ∀ (s : State) (die k : Fin 4),
    ((s.dies[die]).ready = false → (s.mgmt.boot = .running ∨ s.mgmt.boot = .recovered) →
      ∃ u, exec (.dieReady die) s = .next u ∧ (u.dies[die]).ready = true ∧ (∀ v : Fin 16, ((u.dies[die]).vaults[v]).ready = true) ∧
        (∀ d : Fin 4, d ≠ die → (u.dies[d]).ready = (s.dies[d]).ready) ∧ u.mem = s.mem ∧ u.warps = s.warps) ∧
    ((s.links[k]).up = true → (∀ r ∈ s.reqs, r.kind ≠ .storeE) →
      ∃ u, exec (.linkDown k) s = .next u ∧ u.links = s.links.set k ⟨false, (s.links[k]).downs + 1⟩ ∧ u.warps = s.warps ∧ u.mem = s.mem ∧
        ∀ q ∈ u.reqs, ∃ r ∈ s.reqs, q = r ∨ (q = { r with lost := true } ∧ r.remote = true ∧ s.onLink k.val r = true)) ∧
    ((s.links[k]).up = false → (∀ r ∈ s.reqs, r.kind ≠ .storeE) →
      exec (.linkUp k) s = .next { s with links := s.links.set k ⟨true, (s.links[k]).downs⟩ }) ∧
    (∀ r, s.reqs = [r] → r.kind = .storeE → r.phase = .global → (s.links[k]).up = true →
      ∃ u, exec (.linkDown k) s = .next u ∧ u.links = s.links.set k ⟨false, (s.links[k]).downs + 1⟩ ∧ u.reqs = [] ∧
        ∀ f ∈ u.forwards, f.req ≠ r.id) ∧
    (∀ n : Fin 32, ((s.dies[die]).ports[n]).up = true →
      ∃ u, exec (.scaleupPortDown die n) s = .next u ∧ ((u.dies[die]).ports[n]) = { (s.dies[die]).ports[n] with up := false } ∧
        (∀ m : Fin 32, m ≠ n → (u.dies[die]).ports[m] = (s.dies[die]).ports[m]) ∧ u.collOps = s.collOps) ∧
    (∀ (n : Fin 32) pkg port rev, (s.dies[die]).ready = true →
      ∃ u, exec (.scaleupPortUp die n pkg port rev) s = .next u ∧ (u.dies[die]).ports[n] = ⟨true, pkg, port, rev⟩ ∧
        (∀ m : Fin 32, m ≠ n → (u.dies[die]).ports[m] = (s.dies[die]).ports[m]) ∧ u.collOps = s.collOps)

/-! ### Host and management -/

namespace Sys2Proof.Claims

/-- Management is ready (R451, R452). -/
def managed (s : State) : Prop := s.mgmt.boot = .running ∨ s.mgmt.boot = .recovered

/-- The two ranges of the recovery descriptor of a function's root page (R450). -/
def recoveryParts (s : State) (fn : Fin 65) : List Byte × List Byte :=
  let d := (s.funcs[fn]).root + 192
  (s.hostRead (s.hostNum d 8) (s.hostNum (d + 8) 8), s.hostRead (s.hostNum (d + 16) 8) (s.hostNum (d + 24) 8))

/-- The image verifies, and the record verifies under it and keeps R13. -/
def accepted (image record : List Byte) : Prop :=
  Config.imageVerifies image = true ∧ Config.recordVerifies image record = true ∧
    ∀ a b : Fin 4, a ≠ b → Config.recordIndex record a ≠ Config.recordIndex record b ∧
      Config.recordOrient record a ≠ Config.recordOrient record b

/-- ABOVE after a sample (R457). -/
def aboveAfter (b : Subscription) (v : Nat) : Bool :=
  if b.above then !decide (v + b.hyst ≤ b.threshold) else decide (b.threshold < v)

/-- A subscription of a function replaced. -/
def withSub (s : State) (fn : Fin 65) (b : Subscription) : State :=
  let f := s.funcs[fn]
  { s with funcs := s.funcs.set fn { f with subs := b :: f.subs.filter fun x => x.slot ≠ b.slot } }

/-- The marker of a checkpoint (R460). -/
def markerOf (full : Bool) (count time : Nat) (digest : BitVec 256) : List Byte :=
  leBytes 4 0x4B43574B ++ leBytes 4 (if full then 1 else 0) ++ leBytes 8 count ++ leBytes 8 time ++ leBytes 32 digest.toNat ++ leBytes 8 0

end Sys2Proof.Claims

/-- R448-R452, R456-R458, R460, R461: the host's accesses through a BAR, its writes of capability fields, a recovery push, the reset of
the package, a notify sample, the supply-loss checkpoint and the PCI Express link.

What a package reset keeps (log 38), where an event goes (log 21), when a notify word is first sampled, the order of the
checkpoint and where the answer of a BAR read stands (log 40) are the model's choices. -/
def Obligations.HostEvents : Prop :=
  ∀ (s : State),
    (∀ (vi : Fin 64) off n i a, s.iface? vi.val = some i → i.barAsid = some a →
      (∀ bs t, s.readVa none a off.toNat n = .ok (bs, t) → exec (.barRead vi off n) s = .next { t with barAnswer := bs }) ∧
      (∀ e, s.readVa none a off.toNat n = .error e → exec (.barRead vi off n) s = .next
        { (s.readTouch a off.toNat n).postEvent (Fin.ofNat 65 (vi.val + 1)) 7 none (some (off.toNat / 256)) with
          barAnswer := List.replicate n 0xFF#8 }) ∧
      (∀ bs t, s.writeVa a off.toNat bs = .ok t → exec (.barWrite vi off bs) s = .next t) ∧
      (∀ bs e, s.writeVa a off.toNat bs = .error e → exec (.barWrite vi off bs) s =
        .next (s.postEvent (Fin.ofNat 65 (vi.val + 1)) 7 none (some (off.toNat / 256))))) ∧
    (∀ (vi : Fin 64) off n bs, (s.iface? vi.val = none ∨ ∃ i, s.iface? vi.val = some i ∧ i.barAsid = none) →
      let t := s.postEvent (Fin.ofNat 65 (vi.val + 1)) 7 none (some (off.toNat / 256))
      exec (.barRead vi off n) s = .next { t with barAnswer := List.replicate n 0xFF#8 } ∧ exec (.barWrite vi off bs) s = .next t) ∧
    (∀ (fn : Fin 65) v, exec (.capabilityWrite fn .doorbell v) s = .next s ∧
      ∃ u, exec (.capabilityWrite fn .rootAddr v) s = .next u ∧ (u.funcs[fn]).root = v.toNat / 4096 * 4096 ∧
        (u.funcs[fn]).mqHead = (s.funcs[fn]).mqHead ∧ u.mem = s.mem ∧ u.warps = s.warps) ∧
    (∀ (fn : Fin 65), (s.mgmt.boot = .imageRefused ∨ s.mgmt.boot = .recordRefused ∨ s.mgmt.boot = .recoveryRefused) →
      (s.funcs[fn]).root ≠ 0 → let p := recoveryParts s fn
      let r := if p.2 = [] then s.mgmt.flashRecord else p.2
      (accepted p.1 r → ∃ u, exec (.recover fn) s = .next u ∧ u.mgmt.boot = .recovered ∧ u.mgmt.image = p.1 ∧ u.mgmt.record = r ∧
        u.mgmt.flashImage = s.mgmt.flashImage ∧ u.mgmt.flashRecord = s.mgmt.flashRecord) ∧
      (¬accepted p.1 r → ∃ u, exec (.recover fn) s = .next u ∧ u.mgmt = { s.mgmt with boot := .recoveryRefused } ∧ u.dies = s.dies)) ∧
    (∃ u, exec .packageReset s = .next u ∧ u.time = 0 ∧ u.warps = [] ∧ u.launches = [] ∧ u.spaces = [] ∧ u.queues = [] ∧ u.ifaces = [] ∧
      (∀ d : Fin 4, (u.dies[d]).ready = false) ∧ u.mgmt.flashImage = s.mgmt.flashImage ∧ u.mgmt.flashRecord = s.mgmt.flashRecord ∧
      u.mem.cells = (s.mem.loseDirty fun _ => true).1.cells ∧
      (accepted s.mgmt.flashImage s.mgmt.flashRecord → u.mgmt.boot = .running ∧ u.mgmt.image = s.mgmt.flashImage) ∧
      (Config.imageVerifies s.mgmt.flashImage = false → u.mgmt.boot = .imageRefused) ∧
      (Config.imageVerifies s.mgmt.flashImage = true → ¬accepted s.mgmt.flashImage s.mgmt.flashRecord → u.mgmt.boot = .recordRefused)) ∧
    (∀ (slot : Fin 64) (fn : Fin 65) b, (s.funcs[fn]).subs.find? (fun x => x.slot == slot.val) = some b →
      b.sampled < s.time / (if b.metric = 2 then 100000 else 10000) →
      let v := s.sample b.metric b.object
      let c : Subscription := { b with above := aboveAfter b v, sampled := b.sampled + 1 }
      (aboveAfter b v = b.above → exec (.notifySample slot fn) s = .next (withSub s fn c)) ∧
      (∀ t, aboveAfter b v ≠ b.above → b.word.toNat % 8 = 0 → b.word.toNat < 2 ^ 57 →
        s.writeVa b.asid b.word.toNat (leBytes 8 (2 ^ 48 * (if c.above then 1 else 0) + 2 ^ 32 * (v % 2 ^ 16) + b.seq % 2 ^ 32)) = .ok t →
        exec (.notifySample slot fn) s = .next (withSub t fn { c with seq := b.seq + 1 }))) ∧
    (s.mgmt.boot ≠ .halted → ∃ c, exec .supplyLossWarning s = .next (State.refreshReady c) ∧ c.mgmt.boot = .halted ∧
      (∀ d : Fin 4, (c.dies[d]).ready = false) ∧ c.mem = s.mem ∧ c.warps = s.warps ∧
      (s.mgmt.ckptSize = 0 → c.hostMem = s.hostMem) ∧
      (s.mgmt.ckptSize ≠ 0 → cellsWf s.hostMem = true → let recs := s.checkpointRecords
        let kept := recs.take ((s.mgmt.ckptSize - 64) / 144)
        c.hostRead s.mgmt.ckptBase 64 = markerOf (decide (kept.length < recs.length)) kept.length s.time (Config.sm3 kept.flatten))) ∧
    (s.mgmt.pciUp = false → exec .pciExpressLinkUp s = .next { s with mgmt := { s.mgmt with pciUp := true } }.refreshReady) ∧
    (s.mgmt.pciUp = true → exec .pciExpressLinkDown s = .next { s with mgmt := { s.mgmt with pciUp := false } }.refreshReady)

/-! ### Management records -/

namespace Sys2Proof.Claims

/-- A management record is answered (R450, R454): STATUS, and for some records one more byte, into the ring slot; HEAD and DONE move
on. The queue's control block stands at 64 of the root page. -/
def recAnswered (fn : Fin 65) (u : State) (status : Nat) (back : Option (Nat × Nat)) : State :=
  let f := u.funcs[fn]
  let head := f.mqHead
  let cb := f.root + 64
  let v : State := { u with funcs := u.funcs.set fn { f with mqHead := head + 1 } }
  if f.root = 0 then v
  else
    let slot := v.hostNum cb 8 + 256 * (head % 2 ^ (v.hostNum (cb + 8) 1 % 32))
    let v1 := v.hostWrite (slot + 4) (leBytes 4 status)
    let v2 := match back with
      | some b => v1.hostWrite (slot + b.1) (leBytes 1 b.2)
      | none => v1
    (v2.hostWrite (cb + 16) (leBytes 8 (head + 1))).hostWrite (cb + 32) (leBytes 8 (head + 1))

/-- The records of R454: the step that carries one out, KIND, whether only the physical function may issue it, and the bytes from 8 up
that its row names. -/
inductive RecordForm (fn : Fin 65) (r : Rec256) : Instr → Nat → Bool → List (Nat × Nat) → Prop where
  | viconfig : RecordForm fn r (.viconfig fn r) 0x10 true [(8, 9), (16, 40), (48, 63)]
  | partition : RecordForm fn r (.partition fn r) 0x11 true [(8, 13), (16, 31)]
  | ascreate : RecordForm fn r (.ascreate fn r) 0x12 false [(8, 12), (16, 31)]
  | asdestroy : RecordForm fn r (.asdestroy fn r) 0x13 false [(8, 9), (12, 12)]
  | qreg : RecordForm fn r (.qreg fn r) 0x14 false [(8, 12), (16, 23)]
  | qunreg : RecordForm fn r (.qunreg fn r) 0x15 false [(8, 8), (12, 12)]
  | setreg : RecordForm fn r (.setreg fn r) 0x16 true [(8, 13), (16, 23)]
  | fifogrant : RecordForm fn r (.fifogrant fn r) 0x17 true [(8, 14)]
  | save : RecordForm fn r (.save fn r) 0x18 false [(8, 24), (28, 31)]
  | kill : RecordForm fn r (.kill fn r) 0x19 false [(8, 23)]
  | diereset : RecordForm fn r (.diereset fn r) 0x1A true [(8, 9)]
  | gate : RecordForm fn r (.gate fn r) 0x1B false [(8, 12)]
  | subscribe : RecordForm fn r (.subscribe fn r) 0x1C false [(8, 26)]
  | attest : RecordForm fn r (.attest fn r) 0x1D false [(8, 8), (16, 55)]
  | debug : RecordForm fn r (.debug fn r) 0x1E false [(8, 9), (16, 31)]
  | ckptwin : RecordForm fn r (.ckptwin fn r) 0x1F true [(8, 23)]
  | fabric : RecordForm fn r (.fabric fn r) 0x20 true [(8, 27)]
  | update : RecordForm fn r (.update fn r) 0x21 true [(8, 24)]

/-- The record has its KIND, and every byte that R454 leaves unnamed is zero. -/
def wellFormedRec (r : Rec256) (kind : Nat) (named : List (Nat × Nat)) : Prop :=
  recField r 0 1 = kind ∧ recField r 1 3 = 0 ∧
    ∀ b, 8 ≤ b → b < 256 → (∀ x ∈ named, ¬(x.1 ≤ b ∧ b ≤ x.2)) → recField r b 1 = 0

/-- The function may issue records: the physical function, or that of an enabled interface. -/
def mayIssue (s : State) (fn : Fin 65) : Prop :=
  fn = 0 ∨ ∃ vi i, fn.val = vi + 1 ∧ s.iface? vi = some i ∧ i.enabled = true

/-- A record whose form and right are good: its effect is what counts. -/
def takenRec (s : State) (fn : Fin 65) (r : Rec256) (kind : Nat) (pf : Bool) (named : List (Nat × Nat)) : Prop :=
  managed s ∧ wellFormedRec r kind named ∧ mayIssue s fn ∧ (pf = true → fn = 0)

/-- The interface that a record acts for: byte 12 names it from the physical function; it is zero from an interface's own. -/
def actsFor (s : State) (fn : Fin 65) (r : Rec256) (i : Iface) : Prop :=
  (fn = 0 ∧ s.iface? (recField r 12 1) = some i) ∨
    ∃ vi, fn.val = vi + 1 ∧ recField r 12 1 = 0 ∧ s.iface? vi = some i

/-- A queue as its control block describes it (R360): nothing has been taken from it. -/
def freshQueue (vi q part asid block ring n flags : Nat) (err : Bool) : Queue :=
  { vi := vi, q := q, part := part, asid := asid, block := BitVec.ofNat 64 block, ring := BitVec.ofNat 64 ring, log2n := n
    dev := flags.testBit 0, head := 0, tail := 0, seen := 0, counter := 0, err := err, statuses := [] }

end Sys2Proof.Claims

/-- R450, R454: the forms of every management record. One that is malformed answers BADRECORD, one that the issuer has no right to
answers DENIED, neither with an effect; while management is not ready none is taken; the write of MQTAIL takes the record in the
slot at the head.

The order of the answers and the state of a disabled interface are the model's choices (log 39). -/
def Obligations.RecordForms : Prop :=
  ∀ (s : State) (fn : Fin 65) (r : Rec256), ∀ i kind pf named, RecordForm fn r i kind pf named →
    (managed s → ¬wellFormedRec r kind named → exec i s = .next (recAnswered fn s 1 none)) ∧
    (managed s → wellFormedRec r kind named → (¬mayIssue s fn ∨ (pf = true ∧ fn ≠ 0)) →
      exec i s = .next (recAnswered fn s 2 none)) ∧
    (¬managed s → exec i s = .next s) ∧
    (∀ v : W64, let f := s.funcs[fn]
      let t : State := { s with funcs := s.funcs.set fn { f with mqTail := v } }
      f.root ≠ 0 → v.toNat = f.mqHead + 1 → managed s →
      r = recOfBytes (t.hostRead (t.hostNum (f.root + 64) 8 + 256 * (f.mqHead % 2 ^ (t.hostNum (f.root + 72) 1 % 32))) 256) →
      recField r 0 1 = kind → exec (.mqtail fn v) s = exec i t)

/-- R359, R360, R385, R396, R413, R449, R453-R455, R465: the records that set up interfaces, partitions, address spaces and queues, and
those that act on launches.

The answers to records with a value out of range and the numbering of core groups are the model's choices (log 39). -/
def Obligations.RecordsOfInterfaces : Prop :=
  ∀ (s : State) (fn : Fin 65) (r : Rec256), let f := recField r
    (takenRec s fn r 0x10 true [(8, 9), (16, 40), (48, 63)] → f 8 1 < 64 → f 9 1 < 2 → f 24 8 % 2 ^ 16 = 0 → f 32 8 % 2 ^ 16 = 0 →
      (s.viBusy (f 8 1) = true → exec (.viconfig fn r) s = .next (recAnswered fn s 3 none)) ∧
      (s.viBusy (f 8 1) = false → s.viNoSpace (BitVec.ofNat 64 (f 16 8)) (f 24 8) (f 32 8) (f 48 8) (f 56 8) = false →
        ∃ u i, exec (.viconfig fn r) s = .next (recAnswered fn u 0 none) ∧ u.iface? (f 8 1) = some i ∧ i.enabled = (f 9 1 == 1) ∧
          i.cgs = BitVec.ofNat 64 (f 16 8) ∧ i.vaultBase = f 24 8 ∧ i.vaultSize = f 32 8 ∧ i.linkShare = f 40 1 ∧
          i.tierBase = f 48 8 ∧ i.tierSize = f 56 8 ∧ u.warps = s.warps ∧ u.mem = s.mem)) ∧
    (∀ i, takenRec s fn r 0x11 true [(8, 13), (16, 31)] → s.iface? (f 8 1) = some i → f 9 1 < 8 → f 10 1 < 8 → f 12 1 < 8 →
      (∀ d g, d < 4 → g < 16 → (BitVec.ofNat 64 (f 16 8)).getLsbD (16 * d + g) = true → i.cgs.getLsbD (16 * d + g) = true) →
      ∃ u p, exec (.partition fn r) s = .next (recAnswered fn u 0 none) ∧ u.part? i.vi (f 9 1) = some p ∧ p.prioCap = f 10 1 ∧
        p.share = f 11 1 ∧ p.preempt = (f 12 1).testBit 0 ∧ p.lrGrant = (f 12 1).testBit 1 ∧ p.debug = (f 12 1).testBit 2 ∧
        p.poolMax = f 13 1 ∧ p.saveBytes = f 24 8) ∧
    (∀ i, takenRec s fn r 0x12 false [(8, 12), (16, 31)] → actsFor s fn r i → f 10 1 < 8 → f 11 1 < 2 →
      (s.space? (f 8 2) ≠ none → exec (.ascreate fn r) s = .next (recAnswered fn s 3 none)) ∧
      (s.space? (f 8 2) = none → ∃ u, exec (.ascreate fn r) s = .next (recAnswered fn u 0 none) ∧
        u.spaces = s.spaces ++ [⟨f 8 2, i.vi, f 16 8, BitVec.ofNat 64 (f 24 8), f 10 1, 0, false⟩] ∧
        u.iface? i.vi = some (if f 11 1 = 1 then { i with barAsid := some (f 8 2) } else i) ∧ u.warps = s.warps)) ∧
    (∀ i a, takenRec s fn r 0x13 false [(8, 9), (12, 12)] → actsFor s fn r i → s.space? (f 8 2) = some a → a.vi = i.vi →
      ∃ u, exec (.asdestroy fn r) s = .next (recAnswered fn u 0 none) ∧ (∀ b ∈ u.spaces, b.asid ≠ f 8 2) ∧
        (∀ o ∈ u.objects, o.asid ≠ f 8 2) ∧ (∀ t ∈ u.tcache, t.asid ≠ f 8 2)) ∧
    (∀ i, takenRec s fn r 0x13 false [(8, 9), (12, 12)] → actsFor s fn r i → s.space? (f 8 2) = none →
      exec (.asdestroy fn r) s = .next (recAnswered fn s 1 none)) ∧
    (∀ i a ring n fl, takenRec s fn r 0x14 false [(8, 12), (16, 23)] → actsFor s fn r i → f 8 1 < 16 → f 9 1 < 8 →
      s.space? (f 10 2) = some a → a.vi = i.vi → s.part? i.vi (f 9 1) ≠ none →
      (s.queue? i.vi (f 8 1) ≠ none → exec (.qreg fn r) s = .next (recAnswered fn s 3 none)) ∧
      (s.queue? i.vi (f 8 1) = none → f 16 8 % 64 = 0 → s.readNum a.asid (f 16 8) 8 = some ring →
        s.readNum a.asid (f 16 8 + 8) 1 = some n → s.readNum a.asid (f 16 8 + 9) 1 = some fl → ring % 256 = 0 → 4 ≤ n → n ≤ 16 →
        exec (.qreg fn r) s = .next (recAnswered fn { s with queues := s.queues ++ [freshQueue i.vi (f 8 1) (f 9 1) a.asid (f 16 8) ring n fl a.terminated] } 0 none))) ∧
    (∀ i q, takenRec s fn r 0x15 false [(8, 8), (12, 12)] → actsFor s fn r i → s.queue? i.vi (f 8 1) = some q →
      ((∃ l ∈ s.launches, l.queue = ⟨q.vi, q.q⟩) → exec (.qunreg fn r) s = .next (recAnswered fn s 3 none)) ∧
      ((∀ l ∈ s.launches, l.queue ≠ ⟨q.vi, q.q⟩) → ∃ u, exec (.qunreg fn r) s = .next (recAnswered fn u 0 none) ∧
        u.queue? q.vi q.q = none)) ∧
    (∀ q l u, takenRec s fn r 0x18 false [(8, 24), (28, 31)] → queueOfHandle (f 8 8) = some q → (fn = 0 ∨ fn.val = q.vi + 1) →
      s.launches.find? (fun x => x.queue == q && x.op == f 16 8) = some l →
      s.units.find? (fun x => x.launch == l.id && x.kind == f 24 1 && x.gangs.any fun n => (s.gang? n).any fun g => g.index == f 28 4) = some u →
      exec (.save fn r) s = .next (recAnswered fn { s with units := s.units.map fun x =>
        if x.id = u.id ∧ x.requested = none then { x with requested := some s.time } else x } 0 none)) ∧
    (∀ q, takenRec s fn r 0x19 false [(8, 23)] → queueOfHandle (f 8 8) = some q → (fn = 0 ∨ fn.val = q.vi + 1) →
      (∀ l, s.launches.find? (fun x => x.queue == q && x.op == f 16 8) = some l →
        exec (.kill fn r) s = .next (recAnswered fn (s.killLaunch l 7 0) 0 none)) ∧
      (s.launches.find? (fun x => x.queue == q && x.op == f 16 8) = none →
        (∀ k x, s.queue? q.vi q.q = some k → x ∈ k.statuses → x.op = f 16 8 → x.kernel = true →
          exec (.kill fn r) s = .next (recAnswered fn s 0 none)) ∧
        (∀ k, s.queue? q.vi q.q = some k → (∀ x ∈ k.statuses, x.op = f 16 8 → x.kernel = false) →
          exec (.kill fn r) s = .next (recAnswered fn s 1 none))))

/-- R161, R221, R224, R238, R245, R341, R426, R444, R452, R457-R459, R461: the records that act on the device itself.

The layout of SETREG's value (log 39), the first sample of a subscription (log 40), what a die reset keeps (log 38) and the
opaque signature and digest (log 3) are the model's choices. -/
def Obligations.RecordsOfTheDevice : Prop :=
  ∀ (s : State) (fn : Fin 65) (r : Rec256), let f := recField r
    (takenRec s fn r 0x16 true [(8, 13), (16, 23)] →
      (∀ u, s.setRegister (f 8 4) (f 12 2) (BitVec.ofNat 64 (f 16 8)) = some u → exec (.setreg fn r) s = .next (recAnswered fn u 0 none)) ∧
      (s.setRegister (f 8 4) (f 12 2) (BitVec.ofNat 64 (f 16 8)) = none → exec (.setreg fn r) s = .next (recAnswered fn s 1 none)) ∧
      (f 8 4 = 0x403 → f 12 2 < 16 → ∃ u, exec (.setreg fn r) s = .next (recAnswered fn u 0 none) ∧ ∀ d : Fin 4,
        (u.dies[d]).collTmo = if (f 12 2).testBit d.val then BitVec.ofNat 32 (f 16 8) else (s.dies[d]).collTmo)) ∧
    (∀ i d g, takenRec s fn r 0x17 true [(8, 14)] → s.iface? (f 8 1) = some i → f 9 1 < 64 → f 12 1 < 4 → f 13 1 < 12 → f 14 1 = 1 →
      i.packageDie (f 10 1) = some d → i.packageCg d (f 11 1) = some g →
      let core := 64 * d + 4 * g + f 12 1
      let k : Fin 12 := Fin.ofNat 12 (f 13 1)
      (s.bank core k).holder = none → (s.bank core k).switching = none → (∀ x ∈ i.grants, x.index ≠ f 9 1) → (s.bank core k).mode ≠ .fifo →
      ∃ u b, exec (.fifogrant fn r) s = .next (recAnswered fn u 0 none) ∧ u.bank core k = b ∧ b.mode = .fifo ∧ b.fifo = [] ∧
        b.holder = some (.grant i.vi (f 9 1)) ∧ u.iface? i.vi = some { i with grants := i.grants ++ [⟨f 9 1, core, k⟩] }) ∧
    (takenRec s fn r 0x1A true [(8, 9)] → f 8 1 < 4 → f 9 1 < 2 →
      exec (.diereset fn r) s = .next (recAnswered fn (s.dieReset (Fin.ofNat 4 (f 8 1)) (f 9 1 == 1)) 0 none) ∧
        ((s.dieReset (Fin.ofNat 4 (f 8 1)) (f 9 1 == 1)).dies[Fin.ofNat 4 (f 8 1)]).ready = false) ∧
    (takenRec s fn r 0x1B false [(8, 12)] → fn = 0 → f 8 1 < 4 → f 9 1 < 16 → f 10 1 < 2 → f 11 1 < 4 →
      let core := 4 * (16 * f 8 1 + f 9 1) + 2 * f 10 1
      let g := (s.pair core).request (gateForm (f 11 1))
      let u := s.setPair core { s.pair core with gate := g.1 }
      exec (.gate fn r) s = .next (recAnswered fn (if (s.pair core).gate = g.1 then u else u.wakeDispatch) 0 (some (12, g.2)))) ∧
    (takenRec s fn r 0x1C false [(8, 26)] → f 8 1 < 64 → f 26 1 = 0 →
      ∃ u, exec (.subscribe fn r) s = .next (recAnswered fn u 0 none) ∧ ∀ b ∈ (u.funcs[fn]).subs, b.slot ≠ f 8 1) ∧
    (∀ o a t, takenRec s fn r 0x1C false [(8, 26)] → f 8 1 < 64 → f 26 1 = 1 → s.metricObject fn (f 9 1) (f 10 2) = .ok o →
      s.space? (f 24 2) = some a → (fn = 0 ∨ fn.val = a.vi + 1) → f 16 8 % 8 = 0 → f 16 8 < 2 ^ 57 →
      let v := s.sample (f 9 1) o
      let b : Subscription := { slot := f 8 1, metric := f 9 1, object := o, threshold := f 12 2, hyst := f 14 2
                                word := BitVec.ofNat 64 (f 16 8), asid := f 24 2, above := decide (f 12 2 < v), seq := 0
                                sampled := s.time / (if f 9 1 = 2 then 100000 else 10000) }
      (withSub s fn b).writeVa (f 24 2) (f 16 8) (leBytes 8 (2 ^ 48 * (if b.above then 1 else 0) + 2 ^ 32 * (v % 2 ^ 16))) = .ok t →
      exec (.subscribe fn r) s = .next (recAnswered fn (withSub t fn { b with seq := 1 }) 0 none)) ∧
    (takenRec s fn r 0x1D false [(8, 8), (16, 55)] → f 8 1 = 0 → ∃ sig : List Byte, sig.length = 64 ∧
      let vi := if fn = 0 then 0xFFFFFFFF else fn.val - 1
      let head := leBytes 4 0x5441574B ++ leBytes 4 vi ++ leBytes 32 (f 24 32) ++ leBytes 32 (Config.sm3 s.mgmt.image).toNat
        ++ leBytes 32 (Config.sm3 s.mgmt.record).toNat ++ leBytes 64 Config.identityKey.toNat ++ leBytes 8 s.time
      exec (.attest fn r) s = .next (recAnswered fn (({ s with freeIndex := s.freeIndex + 1 } : State).hostWrite (f 16 8)
        (head ++ sig ++ List.replicate 16 0)) 0 none)) ∧
    (takenRec s fn r 0x1E false [(8, 9), (16, 31)] → fn = 0 → f 8 1 < 2 →
      (∀ w g, s.namedFrag .stopped (BitVec.ofNat 64 (f 16 8)) (BitVec.ofNat 64 (f 24 8)) (fun _ => true) (fun _ => true) = .ok (w, g) →
        let s1 : State := { s with debugSignals := s.debugSignals.filter fun d => ¬(d.core = w.core ∧ d.slot = w.slot ∧ d.entry = g.entry) }
        let h : Fragment := { g with status := .ready, due := [], ringSeq := none, fetchPC := g.fencePC, covIdx := 0, runLen := 0, age := s.clock }
        exec (.debug fn r) s = .next (recAnswered fn (if f 8 1 = 0 then put s1 w h else s1.killFrag w g) 0 (some (9, 0)))) ∧
      (∀ c, s.namedFrag .stopped (BitVec.ofNat 64 (f 16 8)) (BitVec.ofNat 64 (f 24 8)) (fun _ => true) (fun _ => true) = .error c →
        exec (.debug fn r) s = .next (recAnswered fn s 0 (some (9, c))))) ∧
    (takenRec s fn r 0x1F true [(8, 23)] → f 8 8 % 4096 = 0 →
      exec (.ckptwin fn r) s = .next (recAnswered fn (({ s with mgmt := { s.mgmt with ckptBase := f 8 8, ckptSize := f 16 8 } } : State).hostWrite
        (f 8 8) (leBytes 4 0)) 0 none)) ∧
    (takenRec s fn r 0x20 true [(8, 27)] → f 8 2 < 4096 → f 10 2 < 4096 →
      exec (.fabric fn r) s = .next (recAnswered fn { s with mgmt := { s.mgmt with
        fabId := BitVec.ofNat 12 (f 8 2)
        routes := (f 10 2, BitVec.ofNat 64 (f 12 8), BitVec.ofNat 64 (f 20 8)) :: s.mgmt.routes.filter fun x => x.1 ≠ f 10 2 } } 0 none)) ∧
    (takenRec s fn r 0x21 true [(8, 24)] → let bs := s.hostRead (f 8 8) (f 16 8)
      (f 24 1 = 0 → Config.imageVerifies bs = true →
        exec (.update fn r) s = .next (recAnswered fn { s with mgmt := { s.mgmt with flashImage := bs } } 0 none)) ∧
      (f 24 1 = 1 → Config.imageVerifies s.mgmt.flashImage = true → accepted s.mgmt.flashImage bs →
        exec (.update fn r) s = .next (recAnswered fn { s with mgmt := { s.mgmt with flashRecord := bs } } 0 none)) ∧
      (f 24 1 = 0 → Config.imageVerifies bs = false → exec (.update fn r) s = .next (recAnswered fn s 1 none)))

/-! ### Encoding, fetch and the step; the whole machine -/

namespace Sys2Proof.Claims

/-- The words of an instruction stand in the code store that a fragment fetches from, at its fetch PC, in the slot where it
stands; `next` is the position after it (R102-R104). -/
def standsAt (s : State) (w : Warp) (f : Fragment) (i : Instr) (next : Pos) : Prop :=
  ∃ w0 more, (∀ k (h : k < (w0 :: more).length), s.codeWord? (cgOfCore w.core) (s.asidOf w)
      ((wordHolding f.fetchPC).toNat + k) = some (w0 :: more)[k]) ∧
    (wordHolding f.fetchPC).toNat + more.length < 2 ^ 55 ∧
    decodeWords (f.fetchPC.getLsbD 0) w0 more = .ok (i, more.length + 1) ∧
    next = (if tagOf w0 = 1 ∧ f.fetchPC.getLsbD 0 = false then f.fetchPC + 1#56
      else atWord (wordHolding f.fetchPC + BitVec.ofNat 55 (more.length + 1)))

/-- Core c moves in the next step: the agenda says so, or the agenda is empty, it is the fragments' turn and no other core holds
a warp. `rest` is the agenda after the step and ch the choice that it gives. -/
def coreMoves (s : State) (w : Warp) (ch : Choice) (rest : List Move) : Prop :=
  (∃ c : Fin 256, w.core = c.val ∧ s.agenda = .core c ch :: rest) ∨
    (s.agenda = [] ∧ rest = [] ∧ ch = ⟨false, false⟩ ∧ s.clock % 2 = 0 ∧ s.warps = [w])

/-- A fragment that is alone on its core, ready, with nothing dispatched before. -/
def aloneReady (s : State) (w : Warp) (f : Fragment) : Prop :=
  s.mgmt.boot ≠ .halted ∧ s.warps.filter (fun v => v.core == w.core) = [w] ∧
    (∀ v ∈ s.warps, v.block = w.block → v.core = w.core) ∧ w.frags = [f] ∧
    f.status = .ready ∧ f.trapPending = false ∧ w.preTaken = false ∧ f.pend = []

/-- What a step has done before the instruction executes: the clock has advanced and the move is taken. -/
def stepped (s : State) (ch : Choice) (rest : List Move) : State := { s with clock := s.clock + 1, agenda := rest, choice := ch }

/-- The instruction at the cursor, in a run that counts it (R105). -/
def atInstr (s : State) (w : Warp) (f : Fragment) (next : Pos) (lanes : Mask) : State :=
  { s with cursor := some ⟨w.core, w.slot, f.uid, f.fetchPC, next, lanes, f.covered⟩ }

/-- Once some die is ready (R19), a launch no longer waits for its dependences, or waits for one of them that is not met nor released
early (R367). -/
def launchesNoted (s : State) : Prop :=
  (∃ d : Fin 4, (s.dies[d]).ready = true) → ∀ l ∈ s.launches, l.eligibleAt = none → l.ending = none → s.depsOk l.deps = false

end Sys2Proof.Claims

/-- When the words at a fragment's fetch PC decode to an instruction, and the fragment is alone on its core and may issue, a step
executes exactly that instruction, in the state in which the run has counted it: a meeting instruction at the cursor; SNOP and a
hint word with the fetch PC moved past them; a strand instruction, where its strand has not begun and no change of the LCLK ratio is
under way, as it has been dispatched. Where the words there are no instruction, a step executes illegalEncoding. Around the
execution a step advances the clock, takes its move off the agenda, notes what has become eligible (log 2) and pops the records that
may pop (R165). -/
def Obligations.StepRunsDecoded : Prop :=
  ∀ (s : State) (w : Warp) (f : Fragment) (ch : Choice) (rest : List Move), coreMoves s w ch rest → aloneReady s w f →
    let s1 := stepped s ch rest
    (∀ i next, standsAt s w f i next →
      (i.place = .meeting → step s = settleOut (exec i (atInstr (s1.countRun w f i f.fetchPC) w f next f.lanes))) ∧
      (i.place = .silent → step s = settleOut (exec i (atInstr
        (s1.countRun w { f with fetchPC := next, covIdx := f.covIdx + 1 } i f.fetchPC) w f next f.lanes))) ∧
      (∀ k, i.place = .strand k → f.strands[k].live = false → (s.cgs[cgOfCore w.core]).phase = none →
        step s = settleOut (exec i (atInstr (s1.dispatch w f i k next).1 w f next f.coverLanes)))) ∧
    (∀ e k, s.fetchOf w f = .bad e k → step s = settleOut (exec .illegalEncoding (atInstr s1 w f f.fetchPC f.lanes)))

/-- Decode and encode agree: the words that the spec's encoding tables give a well-formed instruction decode, in the slot where it
stands, to that instruction, with every operand, and the words that follow it do not matter. -/
def Obligations.EncodingRoundTrip : Prop :=
  ∀ (i : Instr) (w0 : W32) (more after : List W32), i.wf = true → encode i = w0 :: more →
    decodeWords i.slot w0 (more ++ after) = .ok (i, more.length + 1)

/-- Every word has one meaning: an instruction that the decoder reads is encoded by exactly the words read. PHINT alone is
written with B = 1 (R397) and read whatever B holds (R105), so a word of it with B = 0 differs from its encoding in that bit. -/
def Obligations.DecodingIsFaithful : Prop :=
  ∀ (slot : Bool) (w0 : W32) (more : List W32) (i : Instr) (n : Nat), decodeWords slot w0 more = .ok (i, n) →
    i.slot = slot ∧ n ≤ more.length + 1 ∧
    ((i = .phintAll ∨ ∃ g m, i = .phint g m) → n = 1 ∧ encode i = [w0 ||| 0x20000000#32]) ∧
    (i ≠ .phintAll → (∀ g m, i ≠ .phint g m) → encode i = w0 :: more.take (n - 1))

/-- Words of the spec's worked encodings decode to their instructions. -/
def Obligations.DecodedWords : Prop :=
  decodeWords false 0x01889405#32 [] = .ok (.mac ⟨false, 1, 4, .f32, .rne, 2⟩, 1) ∧
  decodeWords false 0x0340B412#32 [] = .ok (.cmp ⟨false, 0, 5, .f32, 2, .lt⟩, 1) ∧
  decodeWords false 0x094B0005#32 [] = .ok (.shlLi ⟨false, 1, .n32, 5⟩, 1) ∧
  decodeWords false 0x83D01828#32 [0xC1200000#32] =
    .ok (.cvtExt ⟨false, 2, .g 0, .e4m3, .rne, .f32, .dflt, some 2, none⟩, 2) ∧
  decodeWords false 0x81881405#32 [0xC0080000#32, 0xFF000000#32] =
    .ok (.macExt ⟨false, 1, .imm 0x3F000000#32, .f32, .rne, 2, none⟩, 3) ∧
  decodeWords false 0x18410181#32 [] = .ok (.tld false 2 6 true, 1) ∧
  decodeWords false 0x39C01201#32 [] = .ok (.mpair true 0 0 2 2 true, 1) ∧
  decodeWords false 0x1B087200#32 [] = .ok (.vpushn false 1 3 .bf16, 1)

/-- R38: a warp is created as one fragment in its home entry with all lanes, at the kernel's entry point; accumulators are vectors
of zeros, registers are zero but s0, which holds the argument address, everything is present and no rejoin register is armed. -/
def Obligations.NewWarps : Prop :=
  ∀ (core slot block k uid clock : Nat) (entry : Pos) (args trapVec : W64) (ctl : W32),
    let w := newWarp core slot block k entry args ctl trapVec uid clock
    (∃ f, w.frags = [f] ∧ f.entry = BitVec.ofNat 9 (256 + slot) ∧ f.lanes = 0xFFFFFFFF#32 ∧ f.fetchPC = entry ∧ f.fencePC = entry) ∧
    (∀ (a : Fin 8) (l : Fin 32), (w.acc[a]).tile = none ∧ (w.acc[a]).val[l] = 0) ∧
    (∀ (r : Fin 64) (l : Fin 32), (w.g[r])[l] = 0) ∧ (∀ p : Fin 8, w.p[p] = 0) ∧
    (∀ r : Fin 32, w.s[r] = if r = 0 then args else 0) ∧
    (∀ r : Fin 64, w.gPresent[r] = 0xFFFFFFFF#32) ∧ (∀ p : Fin 8, w.pPresent[p] = 0xFFFFFFFF#32) ∧
    w.sPresent = 0xFFFFFFFF#32 ∧ (∀ j : Fin 8, (w.j[j]).member = 0)

/-- The state at package reset: DISP.TIME is 0, the package boots with no die ready (R452), each die has the index and the
orientation of its place (R13), every ratio of a core group is 1 (R160), every bank is in CACHE mode without content, every tile
zero (R342), and launches, queues, memory and links hold nothing. That memory reads zero where nothing is listed, and the values of
the registers that management sets, are the model's choice (log 1, log 4). -/
def Obligations.ResetState : Prop :=
  let s := State.reset
  s.time = 0 ∧ s.mgmt.boot = .booting ∧ s.warps = [] ∧ s.launches = [] ∧ s.queues = [] ∧ s.ifaces = [] ∧ s.spaces = [] ∧
  s.mem.cells = [] ∧ s.hostMem = [] ∧ launchesNoted s ∧
  (∀ d : Fin 4, (s.dies[d]).ready = false ∧ (s.dies[d]).index.toNat = d.val ∧ (s.dies[d]).orient.toNat = d.val) ∧
  (∀ g : Fin 64, (s.cgs[g]).req = 1 ∧ (s.cgs[g]).cur = 1 ∧ (s.cgs[g]).phase = none) ∧
  (∀ (c : Fin 256) (b : Fin 12), ((s.cores[c]).banks[b]).mode = .cache ∧ ((s.cores[c]).banks[b]).data = []) ∧
  (∀ (c : Fin 256) (t : Fin 16) (r : Fin 32), ((s.cores[c]).tiles[t]).content[r] = 0) ∧
  (∀ l : Fin 4, (s.links[l]).up = false)

/-- R367: whatever a step does, it leaves no launch unnoted whose dependences are all met or released early: every launch that is
neither eligible nor told to end waits for a dependence, as long as some die is ready to note it (R19).

That eligibility is noted with every step is the model's choice (log 2). -/
def Obligations.EligibleLaunchesNoted : Prop :=
  ∀ (s t : State), launchesNoted s → step s = .next t → launchesNoted t

/-- R460: once the device has halted, nothing happens but the passing of time, what the host and the sensors do from outside, and a
package reset: any other step only passes.

That time, the host and the sensors go on is the model's choice (log 8). -/
def Obligations.HaltedDeviceRests : Prop :=
  ∀ (s : State), s.mgmt.boot = .halted →
    (s.agenda = [] → step s = settleOut (.next { s with clock := s.clock + 1 })) ∧
    (∀ (m : Move) (rest : List Move), s.agenda = m :: rest → (∀ ns, m ≠ .tick ns) → (∀ a bs, m ≠ .hostStore a bs) →
      (∀ n o v, m ≠ .sense n o v) → m ≠ .event .packageReset →
        step s = settleOut (.next { s with clock := s.clock + 1, agenda := rest })) ∧
    (∀ (ns : Nat) (rest : List Move), s.agenda = .tick ns :: rest →
      step s = settleOut (.next { s with clock := s.clock + 1, agenda := rest, time := s.time + ns })) ∧
    (∀ (rest : List Move), s.agenda = .event .packageReset :: rest →
      step s = settleOut (exec .packageReset { s with clock := s.clock + 1, agenda := rest, cursor := none }))

/-- R105, R106: the position executed counts towards the run; the run ends after a word with B = 1 (its second op, for a pair),
after a blocking instruction and after its 24th position, and otherwise goes on in the same fragment.

The bound of 24 and the end of a run are R105's and R106's; which fragment issues next is the model's choice (log 7). -/
def Obligations.RunsEnd : Prop :=
  ∀ (s : State) (w : Warp) (f : Fragment) (i : Instr) (p : Pos) (word : W32), s.warp? w.core w.slot = some w →
    w.frag? f.uid = some f → s.codeWord? (cgOfCore w.core) (s.asidOf w) (wordHolding p).toNat = some word →
    ∃ v g, (s.countRun w f i p).warp? w.core w.slot = some v ∧ v.frag? f.uid = some g ∧
      (if (word.getLsbD 29 = true ∧ (tagOf word ≠ 1 ∨ p.getLsbD 0 = true)) ∨ i.blocking = true ∨ f.runLen + 1 ≥ 24 then
        g.runLen = 0 ∧ ((s.countRun w f i p).cores[coreFin w.core]).running = none
      else g.runLen = f.runLen + 1 ∧ ((s.countRun w f i p).cores[coreFin w.core]).running = some (w.slot, f.uid))

/-- Memory at its homes: a write leaves the canonical form, its bytes read as written, and every other byte reads as before;
likewise host memory. -/
def Obligations.MemoryWrites : Prop :=
  ∀ (s : State) (asid pa : Nat) (bs : List Byte), s.mem.wf = true → cellsWf s.hostMem = true →
    (s.memWrite asid pa bs).mem.wf = true ∧
    (∀ n (h : n < bs.length), (s.memWrite asid pa bs).mem.byte (pa + n) = bs[n]) ∧
    (∀ a, (a < pa ∨ pa + bs.length ≤ a) → (s.memWrite asid pa bs).mem.byte a = s.mem.byte a) ∧
    cellsWf (s.hostWrite pa bs).hostMem = true ∧
    (∀ n (h : n < bs.length), cellRead (s.hostWrite pa bs).hostMem (pa + n) = bs[n]) ∧
    (∀ a, (a < pa ∨ pa + bs.length ≤ a) → cellRead (s.hostWrite pa bs).hostMem a = cellRead s.hostMem a)
end

