-- ==== Sys2Proof/Tests/Slice0.lean ====
section
/-!
SUPPORT. Tests of the model: words written out from the encodings of the spec with the instructions they stand for, terms that
WellFormed refuses, and for every statement about the model states and operands that meet its hypotheses, one theorem for each
shape of hypotheses (their names begin with `meets_`).
-/

namespace Sys2Proof.Tests

set_option Elab.async false

open Sys2Proof Sys2Proof.Machine Sys2Proof.Claims


/-- Every row's words decode to the row's instruction, and to all of its words. -/
def decodesAs : List ((Bool × W32 × List W32) × Instr) → Prop
  | [] => True
  | r :: rest => decodeWords r.1.1 r.1.2.1 r.1.2.2 = .ok (r.2, r.1.2.2.length + 1) ∧ decodesAs rest

theorem test_decode_arith : decodesAs
  [((false, 0x206D5480#32, []), .add ⟨true, 5, .g 42, .f32, .rup⟩),
   ((false, 0x80681727#32, [0xF6000000#32]), .addExt ⟨false, 5, .s 19, .f64, .odd, some ⟨3, true⟩⟩),
   ((false, 0x20AD5480#32, []), .sub ⟨true, 5, .g 42, .f32, .rup⟩),
   ((false, 0x80A81727#32, [0xF6000000#32]), .subExt ⟨false, 5, .s 19, .f64, .odd, some ⟨3, true⟩⟩),
   ((false, 0x20ED5480#32, []), .mul ⟨true, 5, .g 42, .f32, .rup⟩),
   ((false, 0x80E81727#32, [0xF6000000#32]), .mulExt ⟨false, 5, .s 19, .f64, .odd, some ⟨3, true⟩⟩),
   ((false, 0x232D5480#32, []), .fdiv ⟨true, 5, .g 42, .f32, .rup⟩),
   ((false, 0x83281727#32, [0xF6000000#32]), .fdivExt ⟨false, 5, .s 19, .f64, .odd, some ⟨3, true⟩⟩),
   ((false, 0x01300A3F#32, []), .min ⟨false, 6, .s 31, .n16⟩),
   ((false, 0xA1306600#32, [0xC0080000#32, 0xC0000005#32]), .minExt ⟨true, 6, .imm 0xC0000005#32, .i64, none⟩),
   ((false, 0x01700A3F#32, []), .max ⟨false, 6, .s 31, .n16⟩),
   ((false, 0xA1706600#32, [0xC0080000#32, 0xC0000005#32]), .maxExt ⟨true, 6, .imm 0xC0000005#32, .i64, none⟩),
   ((false, 0x02300A3F#32, []), .mov ⟨false, 6, .s 31, .n16⟩),
   ((false, 0xA2306600#32, [0xC0080000#32, 0xC0000005#32]), .movExt ⟨true, 6, .imm 0xC0000005#32, .i64, none⟩),
   ((false, 0x01889405#32, []), .mac ⟨false, 1, 4, .f32, .rne, 2⟩),
   ((false, 0x81881445#32, [0xC0080000#32, 0xFF000000#32]), .macExt ⟨false, 1, .imm 0x3F000000#32, .f32, .rtz, 2, none⟩),
   ((false, 0x01C89405#32, []), .madd ⟨false, 1, 4, .f32, .rne, 2⟩),
   ((false, 0x81C81445#32, [0xC0080000#32, 0xFF000000#32]), .maddExt ⟨false, 1, .imm 0x3F000000#32, .f32, .rtz, 2, none⟩)] :=
  ⟨rfl, rfl, rfl, rfl, rfl, rfl, rfl, rfl, rfl, rfl, rfl, rfl, rfl, rfl, rfl, rfl, rfl, rfl, trivial⟩

theorem test_decode_unary : decodesAs
  [((false, 0x0257E400#32, []), .neg ⟨false, 2, 63, .i32⟩),
   ((false, 0x8257CE00#32, [0xEE000000#32]), .negExt ⟨false, 2, .g 62, .n64, some ⟨7, false⟩⟩),
   ((false, 0x0257E401#32, []), .abs ⟨false, 2, 63, .i32⟩),
   ((false, 0x8257CE01#32, [0xEE000000#32]), .absExt ⟨false, 2, .g 62, .n64, some ⟨7, false⟩⟩),
   ((false, 0x0257E402#32, []), .not ⟨false, 2, 63, .i32⟩),
   ((false, 0x8257CE02#32, [0xEE000000#32]), .notExt ⟨false, 2, .g 62, .n64, some ⟨7, false⟩⟩),
   ((false, 0x0257E403#32, []), .popc ⟨false, 2, 63, .i32⟩),
   ((false, 0x8257CE03#32, [0xEE000000#32]), .popcExt ⟨false, 2, .g 62, .n64, some ⟨7, false⟩⟩),
   ((false, 0x0257E404#32, []), .clz ⟨false, 2, 63, .i32⟩),
   ((false, 0x8257CE04#32, [0xEE000000#32]), .clzExt ⟨false, 2, .g 62, .n64, some ⟨7, false⟩⟩),
   ((false, 0x0257E405#32, []), .brev ⟨false, 2, 63, .i32⟩),
   ((false, 0x8257CE05#32, [0xEE000000#32]), .brevExt ⟨false, 2, .g 62, .n64, some ⟨7, false⟩⟩)] :=
  ⟨rfl, rfl, rfl, rfl, rfl, rfl, rfl, rfl, rfl, rfl, rfl, rfl, trivial⟩

theorem test_decode_logic : decodesAs
  [((false, 0x02B94400#32, []), .div ⟨false, 7, .g 10, .i32⟩),
   ((false, 0x82B80803#32, [0xC0000000#32]), .divExt ⟨false, 7, .s 1, .n8, none⟩),
   ((false, 0x02F94400#32, []), .rem ⟨false, 7, .g 10, .i32⟩),
   ((false, 0x82F80803#32, [0xC0000000#32]), .remExt ⟨false, 7, .s 1, .n8, none⟩),
   ((false, 0x04394400#32, []), .and ⟨false, 7, .g 10, .i32⟩),
   ((false, 0x84380803#32, [0xC0000000#32]), .andExt ⟨false, 7, .s 1, .n8, none⟩),
   ((false, 0x04794400#32, []), .or ⟨false, 7, .g 10, .i32⟩),
   ((false, 0x84780803#32, [0xC0000000#32]), .orExt ⟨false, 7, .s 1, .n8, none⟩),
   ((false, 0x04B94400#32, []), .xor ⟨false, 7, .g 10, .i32⟩),
   ((false, 0x84B80803#32, [0xC0000000#32]), .xorExt ⟨false, 7, .s 1, .n8, none⟩),
   ((false, 0x04F94400#32, []), .andn ⟨false, 7, .g 10, .i32⟩),
   ((false, 0x84F80803#32, [0xC0000000#32]), .andnExt ⟨false, 7, .s 1, .n8, none⟩),
   ((false, 0x05394400#32, []), .shl ⟨false, 7, .g 10, .i32⟩),
   ((false, 0x85380803#32, [0xC0000000#32]), .shlExt ⟨false, 7, .s 1, .n8, none⟩),
   ((false, 0x05794400#32, []), .shr ⟨false, 7, .g 10, .i32⟩),
   ((false, 0x85780803#32, [0xC0000000#32]), .shrExt ⟨false, 7, .s 1, .n8, none⟩),
   ((false, 0x05B94400#32, []), .sar ⟨false, 7, .g 10, .i32⟩),
   ((false, 0x85B80803#32, [0xC0000000#32]), .sarExt ⟨false, 7, .s 1, .n8, none⟩),
   ((false, 0x05F94400#32, []), .bfe ⟨false, 7, .g 10, .i32⟩),
   ((false, 0x85F80803#32, [0xC0000000#32]), .bfeExt ⟨false, 7, .s 1, .n8, none⟩)] :=
  ⟨rfl, rfl, rfl, rfl, rfl, rfl, rfl, rfl, rfl, rfl, rfl, rfl, rfl, rfl, rfl, rfl, rfl, rfl, rfl, rfl, trivial⟩

theorem test_decode_immediate : decodesAs
  [((false, 0x081B7FFE#32, []), .addLi ⟨false, 3, .n32, 0x7FFE#15⟩),
   ((false, 0x085B7FFE#32, []), .movLi ⟨false, 3, .n32, 0x7FFE#15⟩),
   ((false, 0x089B7FFE#32, []), .andLi ⟨false, 3, .n32, 0x7FFE#15⟩),
   ((false, 0x08DB7FFE#32, []), .orLi ⟨false, 3, .n32, 0x7FFE#15⟩),
   ((false, 0x091B7FFE#32, []), .xorLi ⟨false, 3, .n32, 0x7FFE#15⟩),
   ((false, 0x2959803F#32, []), .shlLi ⟨true, 3, .i64, 63#6⟩),
   ((false, 0x2999803F#32, []), .shrLi ⟨true, 3, .i64, 63#6⟩),
   ((false, 0x29D9803F#32, []), .sarLi ⟨true, 3, .i64, 63#6⟩)] :=
  ⟨rfl, rfl, rfl, rfl, rfl, rfl, rfl, rfl, trivial⟩

theorem test_decode_select : decodesAs
  [((false, 0x06212C11#32, []), .bfi ⟨false, 4, 9, .n32, 8⟩),
   ((false, 0x86204C11#32, [0xC0080000#32, 0xC0000001#32]), .bfiExt ⟨false, 4, .imm 0x80000001#32, .n32, 8, none⟩),
   ((false, 0x0340B412#32, []), .cmp ⟨false, 0, 5, .f32, 2, .lt⟩),
   ((false, 0x8340B43F#32, [0xF6000000#32]), .cmpExt ⟨false, 0, .g 5, .f32, 7, .unord, some ⟨3, true⟩⟩),
   ((false, 0x03A0541C#32, []), .sel ⟨false, 4, 2, .f32, 3, true⟩),
   ((false, 0x83A05618#32, [0xC0000000#32]), .selExt ⟨false, 4, .g 2, .f64, 3, false, none⟩),
   ((false, 0x03D01228#32, []), .cvt ⟨false, 2, 0, .bf16, .rne, .f32, .dflt⟩),
   ((false, 0x83D0182A#32, [0xC1200000#32]), .cvtExt ⟨false, 2, .g 0, .e4m3, .rne, .f32, .nsat, some 2, none⟩),
   ((false, 0x06701403#32, []), .xfn ⟨false, 6, .f32, .rne, .exp2⟩),
   ((false, 0x867014C8#32, [0xE2000000#32]), .xfnExt ⟨false, 6, .f32, .rdn, .tos24, some ⟨1, false⟩⟩),
   ((false, 0x068C2C00#32, []), .emit ⟨false, 1, 33, .n32⟩),
   ((false, 0x868C0600#32, [0xE2000000#32]), .emitExt ⟨false, 1, 32, .i64, some ⟨1, false⟩⟩),
   ((false, 0x06C80E30#32, []), .emitp ⟨false, 1, .n64, 6⟩),
   ((false, 0x86C80C30#32, [0xE2000000#32]), .emitpExt ⟨false, 1, .n32, 6, some ⟨1, false⟩⟩),
   ((false, 0x07180E0C#32, []), .emits ⟨false, 3, .n64, 12⟩),
   ((false, 0x8718141F#32, [0xE2000000#32]), .emitsExt ⟨false, 3, .f32, 31, some ⟨1, false⟩⟩)] :=
  ⟨rfl, rfl, rfl, rfl, rfl, rfl, rfl, rfl, rfl, rfl, rfl, rfl, rfl, rfl, rfl, rfl, trivial⟩

theorem test_decode_pair0 : decodesAs
  [((false, 0x61630C84#32, []), .shortAddF32 ⟨true, false, 0x642#14, 3, 6⟩),
   ((true, 0x4163898C#32, []), .shortSubF32 ⟨false, true, 0x2C7#14, 3, 6⟩),
   ((false, 0x63630C84#32, []), .shortMulF32 ⟨true, false, 0x642#14, 3, 6⟩),
   ((true, 0x4163918C#32, []), .shortMinF32 ⟨false, true, 0x2C7#14, 3, 6⟩),
   ((false, 0x65630C84#32, []), .shortMaxF32 ⟨true, false, 0x642#14, 3, 6⟩),
   ((true, 0x4163998C#32, []), .shortMovF32 ⟨false, true, 0x2C7#14, 3, 6⟩),
   ((false, 0x67630C84#32, []), .shortNegF32 ⟨true, false, 0x642#14, 3, 6⟩),
   ((true, 0x4163A18C#32, []), .shortAddI32 ⟨false, true, 0x2C7#14, 3, 6⟩),
   ((false, 0x69630C84#32, []), .shortSubI32 ⟨true, false, 0x642#14, 3, 6⟩),
   ((true, 0x4163A98C#32, []), .shortMulI32 ⟨false, true, 0x2C7#14, 3, 6⟩),
   ((false, 0x6B630C84#32, []), .shortMinI32 ⟨true, false, 0x642#14, 3, 6⟩),
   ((true, 0x4163B18C#32, []), .shortMaxI32 ⟨false, true, 0x2C7#14, 3, 6⟩),
   ((false, 0x6D630C84#32, []), .shortMinN32 ⟨true, false, 0x642#14, 3, 6⟩),
   ((true, 0x4163B98C#32, []), .shortMaxN32 ⟨false, true, 0x2C7#14, 3, 6⟩)] :=
  ⟨rfl, rfl, rfl, rfl, rfl, rfl, rfl, rfl, rfl, rfl, rfl, rfl, rfl, rfl, trivial⟩

theorem test_decode_pair1 : decodesAs
  [((false, 0x6F630C84#32, []), .shortAndN32 ⟨true, false, 0x642#14, 3, 6⟩),
   ((true, 0x4163C18C#32, []), .shortOrN32 ⟨false, true, 0x2C7#14, 3, 6⟩),
   ((false, 0x71630C84#32, []), .shortXorN32 ⟨true, false, 0x642#14, 3, 6⟩),
   ((true, 0x4163C98C#32, []), .shortAndnN32 ⟨false, true, 0x2C7#14, 3, 6⟩),
   ((false, 0x73630C84#32, []), .shortShlN32 ⟨true, false, 0x642#14, 3, 6⟩),
   ((true, 0x4163D18C#32, []), .shortShrN32 ⟨false, true, 0x2C7#14, 3, 6⟩),
   ((false, 0x75630C84#32, []), .shortSarI32 ⟨true, false, 0x642#14, 3, 6⟩),
   ((true, 0x4163D98C#32, []), .shortPopcN32 ⟨false, true, 0x2C7#14, 3, 6⟩),
   ((false, 0x77630C84#32, []), .shortClzN32 ⟨true, false, 0x642#14, 3, 6⟩),
   ((true, 0x4163E18C#32, []), .shortAddF64 ⟨false, true, 0x2C7#14, 3, 6⟩),
   ((false, 0x79630C84#32, []), .shortMulF64 ⟨true, false, 0x642#14, 3, 6⟩),
   ((true, 0x4163E98C#32, []), .shortAddI64 ⟨false, true, 0x2C7#14, 3, 6⟩),
   ((false, 0x7B630C84#32, []), .shortEmit ⟨true, false, 0x642#14, 3, 6⟩),
   ((true, 0x4163F18C#32, []), .shortEmitN64 ⟨false, true, 0x2C7#14, 3, 6⟩),
   ((true, 0x61638000#32, []), .snop ⟨true, true, 0x2C7#14⟩)] :=
  ⟨rfl, rfl, rfl, rfl, rfl, rfl, rfl, rfl, rfl, rfl, rfl, rfl, rfl, rfl, rfl, trivial⟩

theorem test_decode_system : decodesAs
  [((false, 0x0A008000#32, []), .sysr ⟨false, .g 1, 0x000#12⟩),
   ((false, 0x0A638041#32, []), .sysw ⟨false, .s 7, 0x041#12⟩),
   ((false, 0x2A885000#32, []), .phint 4 5),
   ((false, 0x2A800001#32, []), .phintAll),
   ((false, 0x0A885000#32, []), .phint 4 5),
   ((false, 0x0AC85001#32, []), .boexp false 4 5 true),
   ((false, 0x2B085001#32, []), .bowait true 4 5 true),
   ((false, 0x2B485300#32, []), .tlwait true 4 5 6),
   ((false, 0x0B885000#32, []), .tlread false 4 5),
   ((false, 0x0BC8000F#32, []), .cgrp false 4 15),
   ((false, 0x1DC85000#32, []), .boinit false 4 5),
   ((false, 0x0E880009#32, []), .spmap false 4 9),
   ((false, 0x0E40000B#32, []), .bankmodeCache false 11),
   ((false, 0x0E40001B#32, []), .bankmodeScratch false 11),
   ((false, 0x0E40002B#32, []), .bankmodeFifo false 11)] :=
  ⟨rfl, rfl, rfl, rfl, rfl, rfl, rfl, rfl, rfl, rfl, rfl, rfl, rfl, rfl, rfl, trivial⟩

theorem test_decode_memory : decodesAs
  [((false, 0x0C003419#32, []), .ld ⟨false, 0, .f32, ⟨1, some (1, 2), false⟩⟩),
   ((false, 0x8C000EA2#32, [0xE513FFF8#32]), .ldExt ⟨false, 0, .n64, ⟨10, none, true⟩, 0x3FFF8#18, .acq, .package, false, some ⟨2, false⟩⟩),
   ((false, 0x0C403419#32, []), .st ⟨false, 0, .f32, ⟨1, some (1, 2), false⟩⟩),
   ((false, 0x8C400EA2#32, [0xE513FFF8#32]), .stExt ⟨false, 0, .n64, ⟨10, none, true⟩, 0x3FFF8#18, .acq, .package, false, some ⟨2, false⟩⟩),
   ((false, 0x0C803419#32, []), .ldnt ⟨false, 0, .f32, ⟨1, some (1, 2), false⟩⟩),
   ((false, 0x8C800EA2#32, [0xE513FFF8#32]), .ldntExt ⟨false, 0, .n64, ⟨10, none, true⟩, 0x3FFF8#18, .acq, .package, false, some ⟨2, false⟩⟩),
   ((false, 0x0CC03419#32, []), .stnt ⟨false, 0, .f32, ⟨1, some (1, 2), false⟩⟩),
   ((false, 0x8CC00EA2#32, [0xE513FFF8#32]), .stntExt ⟨false, 0, .n64, ⟨10, none, true⟩, 0x3FFF8#18, .acq, .package, false, some ⟨2, false⟩⟩),
   ((false, 0x8C4034A9#32, [0xC1280040#32]), .stExt ⟨false, 0, .f32, ⟨10, some (1, 2), false⟩, 0x40#18, .rel, .package, true, none⟩),
   ((false, 0x8D100C30#32, [0xC177FFFC#32]), .atom ⟨false, 2, .n32, ⟨3, none, false⟩, 0xFFFC#16, .ar, .system, 7#4, none⟩),
   ((false, 0xAD500C30#32, [0xC0450010#32]), .waita ⟨true, 2, .n32, ⟨3, none, false⟩, 16#16, .rlx, .block, 5#4, none⟩),
   ((false, 0x2DA00000#32, []), .drain true .package),
   ((false, 0x2DE80000#32, []), .fence true .system)] :=
  ⟨rfl, rfl, rfl, rfl, rfl, rfl, rfl, rfl, rfl, rfl, rfl, rfl, rfl, trivial⟩

theorem test_decode_barrier : decodesAs
  [((false, 0x2E000000#32, []), .bar true),
   ((false, 0x2E000001#32, []), .barArrive true),
   ((false, 0x2E000002#32, []), .barWait true),
   ((false, 0x2E000004#32, []), .barGang true),
   ((false, 0x2E000005#32, []), .barArriveGang true),
   ((false, 0x2E000006#32, []), .barWaitGang true),
   ((false, 0x2E011008#32, []), .barLvl true 17),
   ((false, 0x2E011009#32, []), .barArriveLvl true 17),
   ((false, 0x2E01100A#32, []), .barWaitLvl true 17),
   ((false, 0xAE00000C#32, [0xC000107F#32]), .barNamed true 127 16),
   ((false, 0xAE00000D#32, [0xC000107F#32]), .barArriveNamed true 127 16),
   ((false, 0xAE00000E#32, [0xC000107F#32]), .barWaitNamed true 127 16),
   ((false, 0x37800000#32, []), .dbar true),
   ((false, 0x37864029#32, []), .dbarValue true 3 4 .f64 .min),
   ((false, 0x37C00000#32, []), .xbar true),
   ((false, 0x37C6401D#32, []), .xbarValue true 3 4 .n64 .xor),
   ((false, 0x3770AC92#32, []), .redt true 6 5 .n32 9 .max),
   ((false, 0x27500000#32, []), .coll true 8)] :=
  ⟨rfl, rfl, rfl, rfl, rfl, rfl, rfl, rfl, rfl, rfl, rfl, rfl, rfl, rfl, rfl, rfl, rfl, rfl, trivial⟩

theorem test_decode_warpwide : decodesAs
  [((false, 0x0EC5C000#32, []), .voteAll false 5 6),
   ((false, 0x0EC5C001#32, []), .voteAny false 5 6),
   ((false, 0x0EC0C1E2#32, []), .voteBallot false 30 6),
   ((false, 0x0EFD1403#32, []), .voteEq false 7 .f32 5),
   ((false, 0x0F092C01#32, []), .shfl false 1 (.g 9) .n32 .up),
   ((false, 0x0F080E97#32, []), .shfl false 1 (.s 9) .n64 .xor),
   ((false, 0x0F4C8497#32, []), .reduce ⟨false, 1, .i32, some 4, some 9, .maxi⟩),
   ((false, 0x0F481408#32, []), .reduce ⟨false, 1, .f32, none, none, .add⟩),
   ((false, 0x0F880E0C#32, []), .scan ⟨false, 1, .n64, none, true, .or⟩)] :=
  ⟨rfl, rfl, rfl, rfl, rfl, rfl, rfl, rfl, rfl, trivial⟩

theorem test_decode_control : decodesAs
  [((false, 0x1021FFFF#32, []), .bra false .always 0x1FFFF#17),
   ((false, 0x900E0000#32, [0xFFFFFFFC#32]), .braExt false (.pred 3 true) 0x3FFFFFFC#30),
   ((false, 0x30618000#32, []), .brx true (.s 3)),
   ((false, 0x109E0005#32, []), .brd false 7 true 5#17),
   ((false, 0x909C0000#32, [0xC0000009#32]), .brdExt false 7 false 9#30),
   ((false, 0x30C06000#32, []), .join true 6),
   ((false, 0x11200007#32, []), .call false 7#17),
   ((false, 0x91200000#32, [0xC0000007#32]), .callExt false 7#30),
   ((false, 0x31400000#32, []), .ret true),
   ((false, 0x31800000#32, []), .exit true),
   ((false, 0x11DD2F00#32, []), .pblk false 3 0xA5#8 7),
   ((false, 0x32000ABC#32, []), .brk true 0xABC#12),
   ((false, 0x32400123#32, []), .trap true 0x123#12),
   ((false, 0x32800000#32, []), .reth true),
   ((false, 0x32800001#32, []), .rethSkip true),
   ((false, 0x12E30000#32, []), .fresume false 6),
   ((false, 0x132F0000#32, []), .fkill false 30),
   ((false, 0x13422000#32, []), .icinv false 1 2),
   ((false, 0x13822000#32, []), .vinv false 1 2),
   ((false, 0x13822181#32, []), .vinvAs false 1 2 3),
   ((false, 0x13C22000#32, []), .cflush false 1 2),
   ((false, 0x13C22001#32, []), .cflushInv false 1 2)] :=
  ⟨rfl, rfl, rfl, rfl, rfl, rfl, rfl, rfl, rfl, rfl, rfl, rfl, rfl, rfl, rfl, rfl, rfl, rfl, rfl, rfl, rfl, rfl, trivial⟩

theorem test_decode_scalar0 : decodesAs
  [((false, 0x14022FFF#32, []), .sadd ⟨false, 1, 2, .imm 0x7FF#11⟩),
   ((false, 0x94022800#32, [0xFFFFFFFE#32]), .saddExt ⟨false, 1, 2, 0x3FFFFFFE#30⟩),
   ((false, 0x14422FFF#32, []), .ssub ⟨false, 1, 2, .imm 0x7FF#11⟩),
   ((false, 0x94422800#32, [0xFFFFFFFE#32]), .ssubExt ⟨false, 1, 2, 0x3FFFFFFE#30⟩),
   ((false, 0x14822FFF#32, []), .smul ⟨false, 1, 2, .imm 0x7FF#11⟩),
   ((false, 0x94822800#32, [0xFFFFFFFE#32]), .smulExt ⟨false, 1, 2, 0x3FFFFFFE#30⟩),
   ((false, 0x14C22FFF#32, []), .sand ⟨false, 1, 2, .imm 0x7FF#11⟩),
   ((false, 0x94C22800#32, [0xFFFFFFFE#32]), .sandExt ⟨false, 1, 2, 0x3FFFFFFE#30⟩),
   ((false, 0x15022FFF#32, []), .sor ⟨false, 1, 2, .imm 0x7FF#11⟩),
   ((false, 0x95022800#32, [0xFFFFFFFE#32]), .sorExt ⟨false, 1, 2, 0x3FFFFFFE#30⟩),
   ((false, 0x15422FFF#32, []), .sshl ⟨false, 1, 2, .imm 0x7FF#11⟩),
   ((false, 0x95422800#32, [0xFFFFFFFE#32]), .sshlExt ⟨false, 1, 2, 0x3FFFFFFE#30⟩),
   ((false, 0x15822FFF#32, []), .sshr ⟨false, 1, 2, .imm 0x7FF#11⟩),
   ((false, 0x95822800#32, [0xFFFFFFFE#32]), .sshrExt ⟨false, 1, 2, 0x3FFFFFFE#30⟩),
   ((false, 0x15D2001F#32, []), .smov false 9 (.s 31)),
   ((false, 0x95D20800#32, [0xC0000005#32]), .smovExt false 9 5#30),
   ((false, 0x16371FFF#32, []), .scmp false 6 .geu 3 (.imm 0x3FF#10)),
   ((false, 0x36440808#32, []), .sld true 2 0 8#11),
   ((false, 0xB6440800#32, [0xC0001000#32]), .sldExt true 2 0 4096#30),
   ((false, 0x16822180#32, []), .launch false 1 2 3),
   ((false, 0x16C00000#32, []), .succ false),
   ((false, 0x37020003#32, []), .pwait true 1 3)] :=
  ⟨rfl, rfl, rfl, rfl, rfl, rfl, rfl, rfl, rfl, rfl, rfl, rfl, rfl, rfl, rfl, rfl, rfl, rfl, rfl, rfl, rfl, rfl, trivial⟩

theorem test_decode_scalar1 : decodesAs
  [((false, 0x37020004#32, []), .pwaitAll true 1)] :=
  ⟨rfl, trivial⟩

theorem test_decode_matrix : decodesAs
  [((false, 0x18018100#32, []), .tcfg false 3 4),
   ((false, 0x18410180#32, []), .tld false 2 6 false),
   ((false, 0x18410181#32, []), .tld false 2 6 true),
   ((false, 0x18810180#32, []), .tst false 2 6 false),
   ((false, 0x18C28000#32, []), .tzero false 5),
   ((false, 0x19100000#32, []), .acctTile false 2),
   ((false, 0x19020003#32, []), .acctStore false 0 4),
   ((false, 0x19080147#32, []), .acctRcol false 1 5),
   ((false, 0x19400800#32, []), .mma false 0 0 1 false),
   ((false, 0x19491801#32, []), .mma false 1 2 3 true),
   ((false, 0x19801201#32, []), .mloop false 0 0 2 2 true),
   ((false, 0x39C01201#32, []), .mpair true 0 0 2 2 true),
   ((false, 0x1A000307#32, []), .tmask false 0 3 7),
   ((false, 0x1A400500#32, []), .maudit false 10),
   ((false, 0x19180001#32, []), .acctVec false 3),
   ((false, 0x19180004#32, []), .acctRmax false 3),
   ((false, 0x19180005#32, []), .acctRmin false 3),
   ((false, 0x19180006#32, []), .acctRsum false 3),
   ((false, 0x191C8002#32, []), .acctLoad false 3 9),
   ((false, 0x191807C8#32, []), .acctWcol false 3 31),
   ((false, 0x1A800501#32, []), .mstat false 20 true)] :=
  ⟨rfl, rfl, rfl, rfl, rfl, rfl, rfl, rfl, rfl, rfl, rfl, rfl, rfl, rfl, rfl, rfl, rfl, rfl, rfl, rfl, rfl, trivial⟩

theorem test_decode_engines : decodesAs
  [((false, 0x3AC81200#32, []), .vpush true 1 .bf16),
   ((false, 0x1B087200#32, []), .vpushn false 1 3 .bf16),
   ((false, 0x3B405200#32, []), .vpop true 2 .bf16),
   ((false, 0x1B8A0000#32, []), .vfree false 5),
   ((false, 0x1BCC0000#32, []), .pgreqNow false 6),
   ((false, 0x1BCC0001#32, []), .pgreqDrain false 6),
   ((false, 0x1BCC0002#32, []), .pgreqUngate false 6),
   ((false, 0x1BCC0003#32, []), .pgreqCancel false 6),
   ((false, 0x1C02227F#32, []), .copy ⟨false, 1, 2, 4, true, 63⟩),
   ((false, 0x1C42227F#32, []), .copym ⟨false, 1, 2, 4, true, 63⟩),
   ((false, 0x1C82227F#32, []), .gath ⟨false, 1, 2, 4, true, 63⟩),
   ((false, 0x1CC2227F#32, []), .scat ⟨false, 1, 2, 4, true, 63⟩),
   ((false, 0x3D020021#32, []), .tagwait true 1 33),
   ((false, 0x1D422000#32, []), .tagfirst false 1 2),
   ((false, 0x1D800021#32, []), .tagclr false 33),
   ((false, 0x1E3FFFFF#32, []), .nop false 0x3FFFFF#22),
   ((false, 0x1EC00155#32, []), .hint false 3 0x155#22),
   ((false, 0x9FC00001#32, [0xC0000002#32]), .hintExt false 7 1#22 2#30)] :=
  ⟨rfl, rfl, rfl, rfl, rfl, rfl, rfl, rfl, rfl, rfl, rfl, rfl, rfl, rfl, rfl, rfl, rfl, rfl, trivial⟩


/-! ### Well-formedness: an ill-formed term for each check, refused -/

/-- Every term of a list is refused. -/
def refusesAll (l : List Instr) : Bool := l.all fun i => !i.wf

theorem test_wf_types_arithmetic : refusesAll
  [.add ⟨false, 0, .g 0, .e4m3, .rne⟩, .subExt ⟨false, 0, .g 0, .si8, .rne, none⟩, .mul ⟨false, 0, .g 0, .t2, .rne⟩,
   .min ⟨false, 0, .g 0, .e5m2⟩, .maxExt ⟨false, 0, .g 0, .e4m3, none⟩, .mov ⟨false, 0, .g 0, .si8⟩, .movExt ⟨false, 0, .g 0, .t2, none⟩,
   .fdiv ⟨false, 0, .g 0, .i32, .rne⟩, .fdivExt ⟨false, 0, .g 0, .n64, .rne, none⟩, .div ⟨false, 0, .g 0, .i16⟩,
   .remExt ⟨false, 0, .g 0, .f32, none⟩, .and ⟨false, 0, .g 0, .f32⟩, .xorExt ⟨false, 0, .g 0, .bf16, none⟩, .shl ⟨false, 0, .g 0, .f32⟩,
   .bfeExt ⟨false, 0, .g 0, .f16, none⟩, .mac ⟨false, 0, 0, .i16, .rne, 0⟩, .maddExt ⟨false, 0, .g 0, .n8, .rne, 0, none⟩,
   .addLi ⟨false, 0, .e4m3, 0⟩, .movLi ⟨false, 0, .t2, 0⟩, .andLi ⟨false, 0, .f32, 0⟩, .shrLi ⟨false, 0, .f64, 0⟩] = true := by decide

theorem test_wf_types_other : refusesAll
  [.neg ⟨false, 0, 0, .si8⟩, .negExt ⟨false, 0, .g 0, .e4m3, none⟩, .abs ⟨false, 0, 0, .n32⟩, .absExt ⟨false, 0, .g 0, .n8, none⟩,
   .not ⟨false, 0, 0, .f32⟩, .brevExt ⟨false, 0, .g 0, .f16, none⟩, .bfi ⟨false, 0, 0, .f32, 0⟩, .bfiExt ⟨false, 0, .g 0, .bf16, 0, none⟩,
   .cmp ⟨false, 0, 0, .i32, 0, .ord⟩, .cmpExt ⟨false, 0, .g 0, .n32, 0, .unord, none⟩, .cmp ⟨false, 0, 0, .si8, 0, .eq⟩,
   .sel ⟨false, 0, 0, .i16, 0, false⟩, .selExt ⟨false, 0, .g 0, .f16, 0, false, none⟩, .emit ⟨false, 0, 0, .si8⟩,
   .emitp ⟨false, 0, .i32, 0⟩, .emits ⟨false, 0, .t2, 0⟩, .xfn ⟨false, 0, .f64, .rne, .exp2⟩, .xfnExt ⟨false, 0, .bf16, .rne, .tos24, none⟩,
   .xfn ⟨false, 0, .i32, .rne, .rcp⟩, .voteEq false 0 .t2 0, .shfl false 0 (.g 0) .si8 .idx, .vpush false 0 .si8,
   .vpushn false 0 0 .t2, .vpop false 0 .si8, .ld ⟨false, 0, .t2, ⟨0, none, false⟩⟩] = true := by decide

theorem test_wf_rounding : refusesAll
  [.add ⟨false, 0, .g 0, .i32, .rtz⟩, .mulExt ⟨false, 0, .g 0, .n8, .odd, none⟩, .mac ⟨false, 0, 0, .i32, .rup, 0⟩] = true := by decide

theorem test_wf_pairs : refusesAll
  [.add ⟨false, 0, .g 1, .f64, .rne⟩, .addExt ⟨false, 0, .g 63, .i64, .rne, none⟩, .mac ⟨false, 0, 3, .n64, .rne, 0⟩,
   .neg ⟨false, 0, 5, .i64⟩, .bfi ⟨false, 0, 1, .n64, 0⟩, .cmp ⟨false, 0, 1, .f64, 0, .eq⟩, .sel ⟨false, 0, 1, .i64, 0, false⟩,
   .emit ⟨false, 0, 1, .f64⟩, .shortAddF64 ⟨false, false, 0, 0, 1⟩, .shortEmitN64 ⟨false, true, 0, 0, 63⟩, .vpop false 7 .i64,
   .sysr ⟨false, .g 1, 0x041#12⟩, .gath ⟨false, 0, 0, 1, false, 0⟩, .scat ⟨false, 0, 0, 31, false, 0⟩, .fresume false 1, .fkill false 31,
   .tld false 0 1 true, .tst false 0 3 true] = true := by decide

theorem test_wf_conversion : refusesAll
  [.cvt ⟨false, 0, 0, .t2, .rne, .f32, .dflt⟩, .cvt ⟨false, 0, 0, .f32, .rne, .f32, .dflt⟩, .cvt ⟨false, 0, 0, .i8, .rne, .f32, .nsat⟩,
   .cvt ⟨false, 0, 1, .f16, .rne, .f32, .dflt⟩, .cvtExt ⟨false, 0, .g 0, .i32, .rne, .f32, .dflt, some 0, none⟩] = true := by decide

theorem test_wf_memory : refusesAll
  [.ldExt ⟨false, 0, .n32, ⟨0, none, false⟩, 0, .rel, .gang, false, none⟩, .ldExt ⟨false, 0, .n32, ⟨0, none, false⟩, 0, .rlx, .gang, true, none⟩,
   .stExt ⟨false, 0, .n32, ⟨0, none, false⟩, 0, .acq, .gang, false, none⟩, .ldntExt ⟨false, 0, .n32, ⟨0, none, false⟩, 0, .acq, .gang, false, none⟩,
   .stntExt ⟨false, 0, .n32, ⟨0, none, false⟩, 0, .rlx, .gang, true, none⟩, .atom ⟨false, 0, .f64, ⟨0, none, false⟩, 0, .rlx, .gang, 0, none⟩,
   .atom ⟨false, 0, .n64, ⟨0, none, false⟩, 0, .rlx, .gang, 7, none⟩, .atom ⟨false, 0, .i32, ⟨0, none, false⟩, 0, .rlx, .gang, 8, none⟩,
   .atom ⟨false, 0, .n32, ⟨0, none, false⟩, 0, .rlx, .gang, 9, none⟩, .waita ⟨false, 0, .f32, ⟨0, none, false⟩, 0, .rlx, .gang, 0, none⟩,
   .waita ⟨false, 0, .n32, ⟨0, none, false⟩, 0, .rel, .gang, 0, none⟩, .waita ⟨false, 0, .n32, ⟨0, none, false⟩, 0, .acq, .gang, 6, none⟩] = true := by
  decide

theorem test_wf_warpwide : refusesAll
  [.reduce ⟨false, 0, .f32, none, none, .and⟩, .reduce ⟨false, 0, .n16, none, none, .add⟩, .reduce ⟨false, 0, .i64, none, none, .mini⟩,
   .reduce ⟨false, 0, .f64, none, some 1, .maxi⟩, .scan ⟨false, 0, .n32, none, false, .mini⟩, .scan ⟨false, 0, .f64, none, true, .xor⟩,
   .redt false 0 0 .f16 0 .add, .redt false 0 0 .f32 0 .or, .redt false 0 0 .n32 0 .mini, .dbarValue false 0 0 .n64 .maxi,
   .xbarValue false 0 0 .f64 .and] = true := by decide

theorem test_wf_system : refusesAll
  [.sysr ⟨false, .s 0, 0x000#12⟩, .sysr ⟨false, .g 0, 0x00D#12⟩, .sysw ⟨false, .g 0, 0x001#12⟩, .sysw ⟨false, .s 0, 0x802#12⟩,
   .pblk false 0 4 1, .pblk false 0 255 6, .hint false 0 0] = true := by decide

/-! ### The worked examples of the spec -/

/-- R60's three conversions of 1 + 2^−8 + 2^−40 to BF16: direct, through F32 by RNE, and through F32 by ODD. -/
theorem test_staged_conversion :
    (roundV fmtBF16 .rne false (fmtF64.decode 0x3FF0100000001000)).bits = 0x3F81 ∧
    (roundV fmtF32 .rne false (fmtF64.decode 0x3FF0100000001000)).bits = 0x3F808000 ∧
    (roundV fmtBF16 .rne false (fmtF32.decode 0x3F808000)).bits = 0x3F80 ∧
    (roundV fmtF32 .odd false (fmtF64.decode 0x3FF0100000001000)).bits = 0x3F808001 ∧
    (roundV fmtBF16 .rne false (fmtF32.decode 0x3F808001)).bits = 0x3F81 := by decide +kernel

/-- R188's example: 100 divided by lane − 4 in lanes 0, 3, 7 and 31, the remainders in lanes 31 and 0, and −7 by 2. -/
theorem test_division :
    idiv .i32 100 0xFFFFFFFC = 0xFFFFFFE7 ∧ idiv .i32 100 0xFFFFFFFF = 0xFFFFFF9C ∧ idiv .i32 100 3 = 33 ∧ idiv .i32 100 27 = 3 ∧
    irem .i32 100 27 = 19 ∧ irem .i32 100 0xFFFFFFFC = 0 ∧ idiv .i32 0xFFFFFFF9 2 = 0xFFFFFFFD ∧ irem .i32 0xFFFFFFF9 2 = 0xFFFFFFFF ∧
    idiv .i32 0x80000000 0xFFFFFFFF = 0x80000000 ∧ irem .i32 0x80000000 0xFFFFFFFF = 0 ∧
    (divLane false .i32 100 0).cause = some cDIVZERO := by decide +kernel

/-! ### A small scene: one warp of one block on core 0, at word 0x4000 of its kernel -/

def launch0 : Launch :=
  { id := 1, queue := ⟨0, 0⟩, op := 1, asid := 1, part := 0, record := 0, obj := 0x10000, kernel := 0, depth := 3
    poolMiB := 0, prio := 0, deps := [none, none, none, none], nGangs := 1, dies := 1, placed := 1, doneDies := [0], retired := 0
    eligibleAt := some 0, refusals := 0, held := 0, heldBack := false, tFirst := some 0, refNum := 0, refDen := 0
    reserved := [], claim := 0, ending := none }

def level0 : DieLevel := ⟨2, 1, 0, 1, 1, [], Vector.replicate 16 0⟩
def gang0 : Gang := ⟨3, 2, 0, 0, 0, 1, 0, false⟩
def block0 : Block := ⟨4, 3, 0, 0, 2, Vector.replicate 16 0, 16, [0, 1, 2, 3, 4, 5, 6, 7], 64, 0⟩
def frag0 : Fragment := Fragment.start 5 256#9 0xFFFFFFFF#32 0x8000#56 0
def warp0 : Warp := newWarp 0 0 4 0 0x8000#56 0 0 0 5 0
def cursor0 : Cursor := ⟨0, 0, 5, 0x8000#56, 0x8002#56, 0xFFFFFFFF#32, false⟩
def part0 : Partition := ⟨0, 7, 100, true, true, true, 255, 0xFFFFFFFFFFFFFFFF#64, 0⟩
def iface0 : Iface :=
  { vi := 0, enabled := true, cgs := 0xFFFFFFFFFFFFFFFF#64, vaultBase := 0, vaultSize := 2 ^ 32, linkShare := 0, tierBase := 0
    tierSize := 0, barAsid := some 1, grants := [], parts := [part0], held := false }
def space0 : AddrSpace := ⟨1, 0, 0x10000, 0, 0, 0, false⟩
def queue0 : Queue := ⟨0, 0, 0, 1, 0x2000#64, 0x4000#64, 4, true, 0, 0, 0, 0, false, []⟩

/-- Page tables for page 0 of address space 1, at physical 0x80000 (R417); data zero. -/
def tables : List Host.Cell :=
  [⟨0x10002, 2⟩, ⟨0x10007, 0x80⟩, ⟨0x20002, 4⟩, ⟨0x20007, 0x40⟩, ⟨0x40000, 3⟩, ⟨0x40002, 8⟩, ⟨0x40007, 0xF0⟩]

/-- The state with a warp at the cursor's place. -/
def scene (w : Warp) : State :=
  { State.reset with
    cursor := some cursor0, nextId := 10, warps := [w], blocks := [block0], gangs := [gang0], levels := [level0]
    launches := [launch0], ifaces := [iface0], spaces := [space0], queues := [queue0]
    mem := { State.reset.mem with cells := tables } }

/-- A warp of one fragment. -/
def warpOf (f : Fragment) : Warp := { warp0 with frags := [f] }

/-- What stands at the cursor. -/
def focusOf (w : Warp) (f : Fragment) : Focus := ⟨cursor0, w, f⟩

def x0 : Focus := focusOf warp0 frag0
def s0 : State := scene warp0

theorem ready0 : s0.focus? = some x0 := rfl

/-- A strand instruction is ready in the scene. -/
theorem strand0 (i : Instr) (h : i.wf = true) : strandReady s0 x0 i none := ⟨rfl, h, .inr rfl⟩
theorem meet0 (i : Instr) (h : i.wf = true) : meetReady s0 x0 i := ⟨rfl, h, rfl⟩

/-! ### Arithmetic -/

theorem meets_integerArithmetic : ∃ s x i r, intRow i = some r ∧ strandReady s x i r.grd ∧ r.t.isFloat = false ∧
    x.w.acc[r.k].tile = none :=
  ⟨s0, x0, .add ⟨true, 5, .g 42, .i32, .rne⟩, _, rfl, strand0 _ rfl, rfl, rfl⟩

theorem meets_bitOperations : ∃ s x i r, bitRow i = some r ∧ strandReady s x i r.grd ∧ x.w.acc[r.k].tile = none :=
  ⟨s0, x0, .and ⟨true, 7, .s 31, .n64⟩, _, rfl, strand0 _ rfl, rfl⟩

theorem meets_shiftsAndFields : ∃ s x i r, shiftRow i = some r ∧ strandReady s x i r.grd ∧ x.w.acc[r.k].tile = none :=
  ⟨s0, x0, .shlLi ⟨true, 7, .i8, 255⟩, _, rfl, strand0 _ rfl, rfl⟩

theorem meets_fieldInsertion : ∃ s x i r d, bfiRow i = some (r, d) ∧ strandReady s x i r.grd ∧ x.w.acc[r.k].tile = none :=
  ⟨s0, x0, .bfi ⟨true, 7, 63, .n32, 31⟩, _, _, rfl, strand0 _ rfl, rfl⟩

theorem meets_floatArithmetic : ∃ s x i r, floatRow i = some r ∧ strandReady s x i r.grd ∧ r.t.isFloat = true ∧
    x.w.acc[r.k].tile = none ∧ untrapped x r.grd (fun l => (r.at x.w l).flags) :=
  ⟨s0, x0, .mac ⟨false, 1, 4, .f32, .rup, 2⟩, _, rfl, strand0 _ rfl, rfl, rfl, fun _ _ => BitVec.and_zero⟩
/-! ### Conversion, exact results, division, comparison, selection, emission -/

theorem meets_conversion : ∃ s x i r, cvtRow i = some r ∧ strandReady s x i r.grd ∧ x.w.acc[r.k].tile = none ∧
    untrapped x r.grd (fun l => (r.at x.w l).flags) ∧ (∀ l, active x r.grd l = true → r.src = .t2 → accOf r.src x.w r.k l ≠ 2#_) :=
  ⟨s0, x0, .cvt ⟨false, 0, 0, .f16, .odd, .f32, .sat⟩, _, rfl, strand0 _ rfl, rfl, fun _ _ => BitVec.and_zero,
    fun _ _ h => by cases h⟩

theorem meets_exactSums : ∃ (x y : FVal) (a b : ℚ), ratOf x = some a ∧ ratOf y = some b ∧ x.neg? ≠ y.neg? ∧ a + b = 0 :=
  ⟨.fin false 1 0, .fin true 1 0, 1, -1, by norm_num [ratOf], by norm_num [ratOf], by decide, by norm_num⟩

theorem meets_representable : ∃ (t : Ty) (c : Nat) (n : Bool) (m : Nat) (e : Int), Fmt.has t = true ∧ c < 2 ^ (fmtOf t).width ∧
    (fmtOf t).decode c = .fin n m e :=
  ⟨.bf16, 0x3F80, false, 128, -7, rfl, by decide +kernel, by decide +kernel⟩

/-- The warp with a register nonzero in every lane. -/
def warp1 : Warp := { warp0 with g := warp0.g.set 2 (Lanes.all 3#32) }

theorem meets_divide : ∃ s x i r z, divRow i = some (r, z) ∧ strandReady s x i r.grd ∧ x.w.acc[r.k].tile = none ∧
    ∀ l, active x r.grd l = true → z x.w l = false :=
  ⟨scene warp1, focusOf warp1 frag0, .rem ⟨false, 0, .g 2, .i32⟩, _, _, rfl, ⟨rfl, rfl, .inr rfl⟩, rfl, by decide⟩

theorem meets_compare : ∃ s x i r, predRow i = some r ∧ strandReady s x i r.grd ∧ x.w.acc[r.k].tile = none ∧
    untrapped x r.grd (fun l => (r.val x.w l (accOf r.t x.w r.k l)).2) :=
  ⟨s0, x0, .cmp ⟨false, 0, 5, .f32, 2, .unord⟩, _, rfl, strand0 _ rfl, rfl, fun _ _ => BitVec.and_zero⟩

theorem meets_select : ∃ s x i r p n, selRow i = some (r, p, n) ∧ strandReady s x i r.grd ∧ x.w.acc[r.k].tile = none :=
  ⟨s0, x0, .sel ⟨false, 0, 62, .f64, 7, true⟩, _, _, _, rfl, strand0 _ rfl, rfl⟩

theorem meets_emit : ∃ s x i k grd t g, emitRow i = some (k, grd, t, g) ∧ strandReady s x i grd :=
  ⟨s0, x0, .emit ⟨false, 7, 62, .i64⟩, _, _, _, _, rfl, strand0 _ rfl⟩

theorem meets_emits_active : ∃ s x i k grd t d l, emitsRow i = some (k, grd, t, d) ∧ strandReady s x i grd ∧
    active x grd l = true ∧ ∀ j, j < l → active x grd j = false :=
  ⟨s0, x0, .emits ⟨false, 7, .bf16, 31⟩, _, _, _, _, 0, rfl, strand0 _ rfl, rfl, by decide⟩

theorem meets_emits_none : ∃ s x i k grd t d, emitsRow i = some (k, grd, t, d) ∧ strandReady s x i grd ∧
    ∀ l, active x grd l = false :=
  ⟨s0, x0, .emitsExt ⟨false, 7, .bf16, 31, some ⟨0, false⟩⟩, _, _, _, _, rfl, ⟨rfl, rfl, .inl rfl⟩, by decide⟩

/-- The warp with accumulator 1 in tile mode. -/
def tile1 : TileAcc := { slot := 0, cols := Vector.replicate 32 (Lanes.all 0) }
def warpT : Warp := { warp0 with acc := warp0.acc.set 1 ⟨Lanes.all 0, some tile1⟩ }
def sT : State := scene warpT
def xT : Focus := focusOf warpT frag0

theorem meets_tileRefused_none : ∃ s x i k grd, noTileForm i = some (k, grd) ∧ strandReady s x i grd ∧
    x.w.acc[k].tile.isSome = true ∧ ∀ l, active x grd l = false :=
  ⟨sT, xT, .divExt ⟨false, 1, .g 0, .i32, some ⟨0, false⟩⟩, 1, _, rfl, ⟨rfl, rfl, .inl rfl⟩, rfl, by decide⟩

theorem meets_tileRefused_all : ∃ s x i k grd, noTileForm i = some (k, grd) ∧ strandReady s x i grd ∧
    x.w.acc[k].tile.isSome = true ∧ (∀ l, active x grd l = inMask x.f.lanes l) ∧ x.f.lanes ≠ 0 ∧ s.loopBusy x.w x.f = false :=
  ⟨sT, xT, .fdiv ⟨false, 1, .g 0, .f32, .rne⟩, 1, none, rfl, ⟨rfl, rfl, .inl rfl⟩, rfl, by decide, by decide, rfl⟩

theorem meets_tileArithmetic : ∃ s x i r tl, floatRow i = some r ∧ tileForm i = true ∧ r.t = .f32 ∧ strandReady s x i r.grd ∧
    x.w.acc[r.k].tile = some tl ∧
    ∀ l c, active x r.grd l = true → BitVec.ofNat 32 (r.val x.w l ((tl.cols[(c : Fin 32)])[l]).toNat).flags &&& x.w.fpen = 0 :=
  ⟨sT, xT, .mac ⟨false, 1, 4, .f32, .rtz, 2⟩, _, _, rfl, rfl, rfl, ⟨rfl, rfl, .inl rfl⟩, rfl, fun _ _ _ => BitVec.and_zero⟩

/-! ### Scalar unit and control -/

theorem meets_scalarUnit : ∃ s x i d v, scalarRow i = some (d, v) ∧ meetReady s x i :=
  ⟨s0, x0, .sadd ⟨false, 31, 0, .imm 0x400#11⟩, _, _, rfl, meet0 _ rfl⟩

theorem meets_scalarCompare : ∃ s x b p a, meetReady s x (.scmp b p .eq a (.s a)) ∧ scalarHolds .eq x.w.s[a] (ofZOperand x.w (.s a)) ∧
    meetReady s x (.scmp b p .ltu a (.s a)) ∧ ¬ scalarHolds .ltu x.w.s[a] (ofZOperand x.w (.s a)) :=
  ⟨s0, x0, false, 7, 31, meet0 _ rfl, rfl, meet0 _ rfl, Nat.lt_irrefl _⟩

theorem meets_hints : ∃ (s : State) (x : Focus) (i : Instr), isSilent i = true ∧ s.focus? = some x := ⟨s0, x0, .nop false 0, rfl, rfl⟩

theorem isLowest0 : isLowest x0.f.lanes 0 := ⟨rfl, by decide⟩

theorem meets_branch_taken : ∃ s x i c wa l0, braRow x i = some (c, wa) ∧ meetReady s x i ∧ isLowest x.f.lanes l0 ∧
    (∀ l, inMask x.f.lanes l = true → takes x.w c l = takes x.w c l0) ∧ takes x.w c l0 = true ∧ s.badTarget x.w wa.toNat = false :=
  ⟨s0, x0, .bra false (.pred 7 true) 0x1FFFF#17, _, _, 0, rfl, meet0 _ rfl, isLowest0, by decide, by decide, by decide⟩

theorem meets_branch_notTaken : ∃ s x i c wa l0, braRow x i = some (c, wa) ∧ meetReady s x i ∧ isLowest x.f.lanes l0 ∧
    x.w.foldCtl.getLsbD 1 = false ∧ takes x.w c l0 = false :=
  ⟨s0, x0, .braExt false (.pred 0 false) 0x3FFFFFFF#30, _, _, 0, rfl, meet0 _ rfl, isLowest0, rfl, by decide⟩

/-- An admitted object with one kernel whose bitmap lists word 0x10. -/
def kernel0 : Kernel :=
  { first := 0, words := 64, entry := 0, depth := 3, poolMiB := 0, ng := 0, ns := 0, tiles := 8, scratch := 0, barriers := 16, targets := [0x10] }
def object0 : CodeObject := ⟨1, 0x10000, 0x10000, 0x100, [kernel0], none⟩
def withObject (s : State) : State := { s with objects := [object0] }
def warp2 : Warp := { warp0 with s := warp0.s.set 3 0x10040#64 }

theorem meets_indirectBranch : ∃ s x b r wa, meetReady s x (.brx b r) ∧ x.f.lanes ≠ 0 ∧
    (∀ l, inMask x.f.lanes l = true → regSelLane x.w l r = (0#7 ++ wa ++ 0#2)) ∧ s.badTarget x.w (wa : BitVec 55).toNat = false ∧
    s.listed x.w (wa.toNat * 4) = true :=
  ⟨withObject (scene warp2), focusOf warp2 frag0, false, .s 3, 0x4010#55, ⟨rfl, rfl, rfl⟩, by decide, fun _ _ => rfl, by decide, by decide⟩

theorem meets_brd_together : ∃ s x i p n wa, brdRow x i = some (p, n, wa) ∧ meetReady s x i ∧ x.f.handler = false ∧
    (x.w.j[p]).member = 0 ∧ s.badTarget x.w wa.toNat = false ∧ (∀ l, inMask x.f.lanes l = true → (x.w.p[p]).getLsbD l.val = n) :=
  ⟨s0, x0, .brd false 7 false 0x10000#17, _, _, _, rfl, meet0 _ rfl, rfl, rfl, by decide, by decide⟩

theorem meets_brd_together_taken : ∃ s x i p n wa, brdRow x i = some (p, n, wa) ∧ meetReady s x i ∧ x.f.handler = false ∧
    (x.w.j[p]).member = 0 ∧ s.badTarget x.w wa.toNat = false ∧ x.f.lanes ≠ 0 ∧
    (∀ l, inMask x.f.lanes l = true → (x.w.p[p]).getLsbD l.val = !n) :=
  ⟨s0, x0, .brdExt false 0 true 5, _, _, _, rfl, meet0 _ rfl, rfl, rfl, by decide, by decide, by decide⟩

def warp3 : Warp := { warp0 with p := warp0.p.set 3 0x80000000#32 }

theorem meets_brd_splits : ∃ s x i p n wa e, brdRow x i = some (p, n, wa) ∧ meetReady s x i ∧ x.f.handler = false ∧
    (x.w.j[p]).member = 0 ∧ s.badTarget x.w wa.toNat = false ∧ x.f.entry ≠ noEntry ∧ s.freeEntry? x.w.core = some e ∧
    x.w.convWaiters x.f = [] ∧ (∃ l, inMask x.f.lanes l = true ∧ (x.w.p[p]).getLsbD l.val = n) ∧
    (∃ l, inMask x.f.lanes l = true ∧ (x.w.p[p]).getLsbD l.val = !n) :=
  ⟨scene warp3, focusOf warp3 frag0, .brd false 3 false 5, _, _, _, 0#9, rfl, ⟨rfl, rfl, rfl⟩, rfl, rfl, by decide, by decide, by decide,
    by decide, ⟨0, rfl, rfl⟩, ⟨31, rfl, rfl⟩⟩

theorem meets_join_empty : ∃ s x b j, meetReady s x (.join b j) ∧ (x.w.j[j]).member = 0 := ⟨s0, x0, false, 7, meet0 _ rfl, rfl⟩

def warp4 : Warp := { warp0 with j := (warp0.j.set 1 ⟨0, 0, 0xFFFFFFFF#32⟩).set 2 ⟨0, 0xFFFF#32, 0xFFFFFFFF#32⟩ }
def frag4 : Fragment := { frag0 with lanes := 0xFFFF0000#32, entry := 0 }
def warp5 : Warp := { warp4 with frags := [frag4, { Fragment.start 6 256#9 0xFFFF#32 0x8000#56 0 with status := .waiting (.join 2) }] }

theorem meets_join_waits : ∃ s x b j, meetReady s x (.join b j) ∧ (x.w.j[j]).member ≠ 0 ∧ x.f.lanes &&& ~~~(x.w.j[j]).member = 0 ∧
    (∀ v ∈ s.warps, ∀ g ∈ v.frags, g.entry ≠ noEntry) ∧ (x.w.j[j]).member &&& ~~~((x.w.j[j]).arrived ||| x.f.lanes) ≠ 0 :=
  ⟨scene warp5, focusOf warp5 frag4, false, 1, ⟨rfl, rfl, rfl⟩, by decide, by decide, by decide, by decide⟩

theorem meets_join_last : ∃ s x b j, meetReady s x (.join b j) ∧ (x.w.j[j]).member ≠ 0 ∧ x.f.lanes &&& ~~~(x.w.j[j]).member = 0 ∧
    (∀ v ∈ s.warps, ∀ g ∈ v.frags, g.entry ≠ noEntry) ∧ (x.w.j[j]).member &&& ~~~((x.w.j[j]).arrived ||| x.f.lanes) = 0 :=
  ⟨scene warp5, focusOf warp5 frag4, false, 2, ⟨rfl, rfl, rfl⟩, by decide, by decide, by decide, by decide⟩

theorem alone0 : convergedAlone x0 := ⟨rfl, by decide, by decide⟩

theorem meets_call : ∃ s x i wa, convergedAlone x ∧ callRow x i = some wa ∧ meetReady s x i ∧ x.w.returns.length < 16 ∧
    s.badTarget x.w wa.toNat = false :=
  ⟨s0, x0, .callExt false 0x20000000#30, _, alone0, rfl, meet0 _ rfl, by decide, by decide⟩

def warp6 : Warp := { warp0 with returns := List.replicate 15 0x4000#55, trapVec := 0x10040#64 }
def warp7 : Warp := { warp0 with returns := List.replicate 16 0x4000#55, trapVec := 0x10040#64 }

theorem meets_call_and_ret : ∃ s x b r rest, convergedAlone x ∧ meetReady s x (.call b 0) ∧ x.w.returns.length = 15 ∧ meetReady s x (.ret b) ∧
    x.w.returns = r :: rest ∧ s.badTarget x.w (r : BitVec 55).toNat = false :=
  ⟨scene warp6, focusOf warp6 frag0, false, _, _, ⟨rfl, by decide, by decide⟩, ⟨rfl, rfl, rfl⟩, rfl, ⟨rfl, rfl, rfl⟩, rfl, by decide⟩

theorem meets_call_full : ∃ s x b wa, convergedAlone x ∧ mayTrap s x ∧ callRow x (.call b 0) = some wa ∧ meetReady s x (.call b 0) ∧
    x.w.returns.length ≥ 16 :=
  ⟨scene warp7, focusOf warp7 frag0, false, _, ⟨rfl, by decide, by decide⟩, ⟨rfl, by decide, rfl, rfl, by decide⟩, rfl, ⟨rfl, rfl, rfl⟩, by decide⟩

/-- The warp with a handler set. -/
def warpH : Warp := { warp0 with trapVec := 0x10040#64 }
def sH : State := scene warpH
def xH : Focus := focusOf warpH frag0
theorem trapH : mayTrap sH xH := ⟨rfl, by decide, rfl, rfl, by decide⟩
theorem meetH (i : Instr) (h : i.wf = true) : meetReady sH xH i := ⟨rfl, h, rfl⟩
theorem aloneH : convergedAlone xH := ⟨rfl, by decide, by decide⟩

theorem meets_ret_empty : ∃ s x b, convergedAlone x ∧ mayTrap s x ∧ meetReady s x (.ret b) ∧ x.w.returns = [] :=
  ⟨sH, xH, false, aloneH, trapH, meetH _ rfl, rfl⟩

theorem meets_predicateBlock : ∃ s x, meetReady s x (.pblk true 7 0xFF#8 7) := ⟨s0, x0, meet0 _ rfl⟩

theorem meets_illegal : ∃ (s : State) (x : Focus) (i i' : Instr), s.focus? = some x ∧ i.wf = false ∧ i.place = .strand 0 ∧ i'.wf = false ∧
    i'.place = .meeting :=
  ⟨s0, x0, .add ⟨false, 0, .g 0, .t2, .rne⟩, .pblk false 0 4 1, rfl, rfl, rfl, rfl, rfl⟩

theorem meets_trap : ∃ s x b code, mayTrap s x ∧ meetReady s x (.trap b code) ∧ s.focus? = some x :=
  ⟨sH, xH, false, 0xFFF#12, trapH, meetH _ rfl, rfl⟩

/-- Words that are no instruction: one that names no strand, and one that names strand 1. -/
def sBadWord (w : W32) : State :=
  let g : CoreGroup := { CoreGroup.reset with store := [⟨1, 0x4000, w⟩] }
  { sH with cgs := State.reset.cgs.set 0 g }

theorem meets_trap_noWord : ∃ s x, mayTrap s x ∧ s.focus? = some x ∧ s.strandAt x.w x.c.pos = none :=
  ⟨sBadWord 0xC0000000#32, xH, ⟨rfl, by decide, rfl, rfl, by decide⟩, rfl, rfl⟩

theorem meets_trap_strandWord : ∃ s x k, mayTrap s x ∧ s.focus? = some x ∧ s.strandAt x.w x.c.pos = some k :=
  ⟨sBadWord 0x0188D405#32, xH, 1, ⟨rfl, by decide, rfl, rfl, by decide⟩, rfl, by decide⟩

/-- The scene with a record that allows debugging. -/
def sD : State := { s0 with launches := [{ launch0 with record := 0x400#2048 }] }

theorem meets_breakpoint_debug : ∃ s x b code, meetReady s x (.brk b code) ∧ s.debugOn x.w = true :=
  ⟨sD, x0, false, 0xFFF#12, ⟨rfl, rfl, rfl⟩, by decide +kernel⟩

theorem meets_breakpoint_trap : ∃ s x b code, meetReady s x (.brk b code) ∧ s.debugOn x.w = false ∧ mayTrap s x :=
  ⟨sH, xH, false, 0xFFF#12, meetH _ rfl, by decide +kernel, trapH⟩

def fragR : Fragment := { frag0 with handler := true, frame := { frag0.frame with fence := 0x9000#56, info := { frag0.frame.info with meet := true, lanes := 0x80000000#32 } } }
def warpR : Warp := warpOf fragR

theorem meets_reth : ∃ s x b, x.f.handler = true ∧ x.f.causes = 0 ∧ meetReady s x (.reth b) :=
  ⟨scene warpR, focusOf warpR fragR, false, rfl, rfl, rfl, rfl, rfl⟩

/-- A code store in core group 0 with one word of address space 1. -/
def withCode (s : State) (wa : Nat) (w : W32) : State :=
  let g : CoreGroup := { CoreGroup.reset with store := [⟨1, wa, w⟩] }
  { s with cgs := s.cgs.set 0 g }

theorem meets_rethSkip : ∃ s x b i next, x.f.handler = true ∧ x.f.causes = 0 ∧ meetReady s x (.rethSkip b) ∧ x.f.frame.info.meet = true ∧
    x.f.frame.pblk = none ∧ x.w.loop.valid = false ∧ s.peek (cgOfCore x.w.core) (s.asidOf x.w) x.f.frame.fence = .instr i next ∧
    (∀ m ∈ s.matrix, m.pair = false) ∧ x.f.frame.info.lanes &&& x.f.lanes ≠ 0 :=
  ⟨withCode (scene warpR) 0x4800 0x01889405#32, focusOf warpR fragR, false, .mac ⟨false, 1, 4, .f32, .rne, 2⟩, 0x9002#56, rfl, rfl, ⟨rfl, rfl, rfl⟩, rfl,
    rfl, rfl, rfl, by decide, by decide⟩

/-! ### System registers, waits on timelines, queues -/

theorem meets_systemRead : ∃ s x o ow, meetReady s x (.sysr o) ∧ s.owner? x.w = some ow ∧ (sysRow o.sreg.toNat s x ow).isSome = true ∧
    o.r = .g 62 ∧ sysWide o.sreg = true :=
  ⟨s0, x0, ⟨false, .g 62, 0x041#12⟩, _, meet0 _ rfl, rfl, rfl, rfl, rfl⟩

theorem meets_systemRead_scalar : ∃ s x o ow l, meetReady s x (.sysr o) ∧ s.owner? x.w = some ow ∧ s.matrixPending x.w = false ∧
    o.sreg = 0x010#12 ∧ o.r = .s 31 ∧ isLowest x.f.lanes l :=
  ⟨s0, x0, ⟨false, .s 31, 0x010#12⟩, _, 0, meet0 _ rfl, rfl, rfl, rfl, rfl, isLowest0⟩

theorem meets_systemWrite : ∃ s x i v w', State.focus? s = some x ∧ Instr.wf i = true ∧ x.c.covered = false ∧ writesSys x 0x011 v i ∧
    sysWarp 0x011 v x.w = some w' :=
  ⟨s0, x0, .sysw ⟨false, .g 62, 0x011#12⟩, 0, _, rfl, rfl, rfl, ⟨rfl, 0, isLowest0, rfl⟩, rfl⟩

theorem meets_systemWrite_cause : ∃ s x i v, State.focus? s = some x ∧ Instr.wf i = true ∧ x.c.covered = false ∧ writesSys x 0x040 v i ∧
    x.f.handler = true :=
  ⟨scene warpR, focusOf warpR fragR, .sysw ⟨false, .s 3, 0x040#12⟩, 0, rfl, rfl, rfl, ⟨rfl, rfl⟩, rfl⟩

theorem meets_systemWrite_vector : ∃ s x i v, State.focus? s = some x ∧ Instr.wf i = true ∧ x.c.covered = false ∧ writesSys x 0x041 v i ∧
    s.listed x.w (0#7 ++ v.extractLsb' 2 55 ++ 0#2 : W64).toNat = true :=
  ⟨withObject s0, x0, .trapVecWrite 0x10043#64, 0x10043#64, rfl, rfl, rfl, ⟨rfl, rfl⟩, by decide⟩

theorem meets_systemWrite_unlisted : ∃ s x i v, State.focus? s = some x ∧ Instr.wf i = true ∧ x.c.covered = false ∧ writesSys x 0x041 v i ∧
    (0#7 ++ v.extractLsb' 2 55 ++ 0#2 : W64) ≠ 0 ∧ s.listed x.w (0#7 ++ v.extractLsb' 2 55 ++ 0#2 : W64).toNat = false ∧ mayTrap s x :=
  ⟨withObject sH, xH, .trapVecWrite 0x10044#64, 0x10044#64, rfl, rfl, rfl, ⟨rfl, rfl⟩, by decide, by decide, rfl, by decide, rfl, rfl, by decide⟩

theorem meets_systemWrite_ratio : ∃ s x i v, State.focus? s = some x ∧ Instr.wf i = true ∧ x.c.covered = false ∧ writesSys x 0x020 v i ∧
    (s.partOf x.w).any (fun p => p.lrGrant) = true ∧ (v : W64).extractLsb' 2 2 ≠ 3#2 :=
  ⟨s0, x0, .lratioWrite 0x8#64, 0x8#64, rfl, rfl, rfl, ⟨rfl, rfl⟩, rfl, by decide⟩

theorem meets_systemWrite_ratio_reserved : ∃ s x i v, State.focus? s = some x ∧ Instr.wf i = true ∧ x.c.covered = false ∧ writesSys x 0x020 v i ∧
    (s.partOf x.w).any (fun p => p.lrGrant) = true ∧ (v : W64).extractLsb' 2 2 = 3#2 :=
  ⟨s0, x0, .lratioWrite 0xC#64, 0xC#64, rfl, rfl, rfl, ⟨rfl, rfl⟩, rfl, by decide⟩

/-- The scene without an interface: nothing is granted. -/
def sN : State := { sH with ifaces := [] }

theorem meets_systemWrite_ratio_denied : ∃ s x i v, State.focus? s = some x ∧ Instr.wf i = true ∧ x.c.covered = false ∧ writesSys x 0x020 v i ∧
    (s.partOf x.w).any (fun p => p.lrGrant) = false ∧ mayTrap s x :=
  ⟨sN, xH, .lratioWrite 0, 0, rfl, rfl, rfl, ⟨rfl, rfl⟩, rfl, rfl, by decide, rfl, rfl, by decide⟩

theorem meets_phint_plain : ∃ s x, meetReady s x (.phint 30 31) ∧ ∀ u, s.unitOfWarp x.w = some u → u.requested = none :=
  ⟨s0, x0, meet0 _ rfl, fun _ h => by cases h⟩

def unit0 : PlacedUnit := ⟨6, 1, 0, [3], some 0, 0⟩
def sU : State := { s0 with units := [unit0] }

theorem meets_phint_saved : ∃ s x u, meetReady s x .phintAll ∧ meetReady s x (.phint 30 31) ∧ s.unitOfWarp x.w = some u ∧ u.requested.isSome = true ∧
    s.cgs[cgOfCore x.w.core].phase = none :=
  ⟨sU, x0, unit0, ⟨rfl, rfl, rfl⟩, ⟨rfl, rfl, rfl⟩, rfl, rfl, rfl⟩

/-- The warp with the handle of queue 0 of interface 0 in s3, and values 0 and 1 in s4 and s5. -/
def warpQ : Warp := { warp0 with s := ((warp0.s.set 3 0x3000000000000000#64).set 5 1) }
def sQ : State := scene warpQ
def xQ : Focus := focusOf warpQ frag0
theorem meetQ (i : Instr) (h : i.wf = true) : meetReady sQ xQ i := ⟨rfl, h, rfl⟩

theorem meets_tlread : ∃ s x b d h k n, meetReady s x (.tlread b d h) ∧ s.warpCtx x.w x.w.s[h] = some k ∧ s.counterOf k = some n :=
  ⟨sQ, xQ, false, 31, 3, .queue 0 0, 0, meetQ _ rfl, by decide +kernel, rfl⟩

theorem meets_tlwait_reached : ∃ s x b d h v k n, meetReady s x (.tlwait b d h v) ∧ (∀ k u e p, x.f.status ≠ .waiting (.timeline k u e p)) ∧
    s.warpCtx x.w x.w.s[h] = some k ∧ s.counterOf k = some n ∧ (x.w.s[v]).toNat ≤ n :=
  ⟨sQ, xQ, false, 31, 3, 4, .queue 0 0, 0, meetQ _ rfl, (fun _ _ _ _ h => by cases h), by decide +kernel, rfl, by decide⟩

theorem meets_tlwait_waits : ∃ s x b d h v k n, meetReady s x (.tlwait b d h v) ∧ (∀ k u e p, x.f.status ≠ .waiting (.timeline k u e p)) ∧
    s.warpCtx x.w x.w.s[h] = some k ∧ s.counterOf k = some n ∧ n < (x.w.s[v]).toNat :=
  ⟨sQ, xQ, false, 31, 3, 5, .queue 0 0, 0, meetQ _ rfl, (fun _ _ _ _ h => by cases h), by decide +kernel, rfl, by decide⟩

theorem free0 (s : State) (f : Focus) (h : f.f.lostAcks = Lanes.all none) (r : s.reqs = []) : releaseFree s f := by
  refine ⟨fun l _ => ?_, fun q hq => ?_⟩
  · rw [h]; simp [Lanes.all]
  · rw [r] at hq; cases hq

/-- An .E store of lane 31 of another warp that lane 0 of this one has read. -/
def openReq : Req :=
  { id := 9, frag := ⟨0, 1, 5⟩, pos := 0x8000#56, lane := 31, kind := .storeE, asid := 1, va := 0x40, size := 8, data := 7, remote := true
    lost := false, phase := .performed (.value 0 0), idx := 0, count := 1, readers := [(0, 0, 1#32)], answered := false, issuedAt := 0
    acceptedAt := 0 }

/-- A lane that has read an open .E store holds a release back; the other lanes are free. -/
theorem open_holds_readers : ¬noneOpen { s0 with reqs := [openReq] } warp0 (inMask 1#32) ∧ noneOpen { s0 with reqs := [openReq] } warp0 (inMask 2#32) := by
  refine ⟨fun h => ?_, fun r hr _ => ?_⟩
  · have := (h openReq (List.mem_singleton.mpr rfl) ⟨rfl, rfl, .inr (.inr ⟨0, 0, rfl⟩)⟩).2 _ (List.mem_singleton.mpr rfl) rfl rfl 0 (by decide)
    revert this; decide
  · cases List.mem_singleton.mp hr
    refine ⟨fun _ h => absurd h (by decide), fun d hd _ _ l hl => ?_⟩
    cases List.mem_singleton.mp hd
    revert hl; revert l; decide

theorem meets_succ : ∃ s x g, meetReady s x (.succ true) ∧ s.gangOf x.w = some g := ⟨s0, x0, 3, meet0 _ rfl, rfl⟩

theorem meets_pwait_met : ∃ s x b d ow, meetReady s x (.pwaitAll b d) ∧ s.owner? x.w = some ow ∧
    s.depsMet ([0, 1, 2, 3].map fun n => (ow.launch.deps[n]?).getD none) = true :=
  ⟨s0, x0, false, 31, _, meet0 _ rfl, rfl, rfl⟩

/-- The scene with a launch that depends on operation 1 of queue 0. -/
def sP : State := { s0 with launches := [{ launch0 with deps := [none, none, none, some ⟨0x3000000000000000#64, .queue 0 0, 1, true, none⟩] }] }

theorem meets_pwait_waits : ∃ s x b d ow, meetReady s x (.pwait b d 3) ∧ s.owner? x.w = some ow ∧
    s.depsMet ([(3 : Fin 4).val].map fun n => (ow.launch.deps[n]?).getD none) = false :=
  ⟨sP, x0, false, 31, _, ⟨rfl, rfl, rfl⟩, rfl, rfl⟩

/-! ### Warp-wide instructions -/

theorem once0 : actsAtOnce x0 := .inl alone0

theorem meets_votes : ∃ s x b, actsAtOnce x ∧ meetReady s x (.voteAll b 7 7) ∧ meetReady s x (.voteAny b 7 7) ∧
    meetReady s x (.voteBallot b 31 7) ∧ meetReady s x (.voteEq b 7 .i64 7) ∧ x.w.acc[(7 : Fin 8)].tile = none ∧
    meetReady s x (.shfl b 7 (.g 62) .f64 .xor) :=
  ⟨s0, x0, false, once0, meet0 _ rfl, meet0 _ rfl, meet0 _ rfl, meet0 _ rfl, rfl, meet0 _ rfl⟩

theorem meets_votes_handler : ∃ s x b, actsAtOnce x ∧ x.f.handler = true ∧ meetReady s x (.voteAll b 7 7) :=
  ⟨scene warpR, focusOf warpR fragR, false, .inr rfl, rfl, rfl, rfl, rfl⟩

theorem meets_reduce : ∃ s x, actsAtOnce x ∧ meetReady s x (.reduce ⟨false, 0, .n32, some 0, none, .add⟩) ∧
    meetReady s x (.reduce ⟨false, 0, .n32, none, some 31, .mini⟩) ∧ meetReady s x (.reduce ⟨false, 0, .i64, some 0, some 30, .maxi⟩) ∧
    x.w.acc[(0 : Fin 8)].tile = none ∧ givers x (some 0) = 0 ∧ isLowest (givers x none) 0 :=
  ⟨s0, x0, once0, meet0 _ rfl, meet0 _ rfl, meet0 _ rfl, rfl, rfl, isLowest0⟩

/-- FPEN enables IV, and a lane holds a signalling NaN. -/
def warpNan : Warp := { warp0 with fpen := 0x7F, acc := warp0.acc.set 0 ⟨Lanes.all 0x7F800001#64, none⟩ }
def xNan : Focus := focusOf warpNan frag0

theorem meets_reduce_trapped : ∃ s x, actsAtOnce x ∧ meetReady s x (.reduce ⟨false, 0, .f32, none, none, .add⟩) ∧
    x.w.acc[(0 : Fin 8)].tile = none ∧ BitVec.ofNat 32 (reduced .add .f32 (givenVals x.w .f32 0 (givers x none))).flags &&& x.w.fpen ≠ 0 :=
  ⟨scene warpNan, xNan, .inl ⟨rfl, by decide, by decide⟩, ⟨rfl, rfl, rfl⟩, rfl, by decide +kernel⟩

theorem meets_scan_trapped : ∃ s x, actsAtOnce x ∧ meetReady s x (.scan ⟨false, 0, .f32, none, false, .add⟩) ∧ x.w.acc[(0 : Fin 8)].tile = none ∧
    flagsOf (inMask x.f.lanes) (fun l => (reduced .add .f32 (givenVals x.w .f32 0 (upTo (givers x none) false l))).flags) &&& x.w.fpen ≠ 0 :=
  ⟨scene warpNan, xNan, .inl ⟨rfl, by decide, by decide⟩, ⟨rfl, rfl, rfl⟩, rfl, by decide +kernel⟩

theorem meets_scan : ∃ s x, actsAtOnce x ∧ meetReady s x (.scan ⟨false, 0, .n64, none, true, .xor⟩) ∧ x.w.acc[(0 : Fin 8)].tile = none :=
  ⟨s0, x0, once0, meet0 _ rfl, rfl⟩
/-! ### Memory -/

theorem isOk_out {ε α : Type} {e : Except ε α} (h : e.toBool = true) : ∃ a, e = .ok a := by
  cases e with
  | ok a => exact ⟨a, rfl⟩
  | error _ => cases h

/-- The warp with addresses in s3 (0x40 of the mapped page), s4 (window 0), s5 (beyond 57 bits); die 0 ready. -/
def warpM : Warp := { warp0 with s := (((warp0.s.set 3 0x40#64).set 5 0x8000#64).set 6 1).set 7 0xC000000000000000#64, trapVec := 0x10040#64 }
def ready (s : State) : State := { s with dies := s.dies.set 0 { Die.reset 0 with ready := true } }
def block1 : Block := { block0 with windows := (Vector.replicate 16 0).set 0 0x400000000000F000#64 }
def bank1 : Bank := { Bank.reset with mode := .scratch, holder := some (.block 4), data := [(4, 1)] }
def cores1 (b : Bank) : Vector Core 256 :=
  let k : Core := { Core.reset with banks := Core.reset.banks.set 0 b }
  State.reset.cores.set 0 k
def cursor1 : Cursor := { cursor0 with lanes := 1 }
def sM : State := ready { scene warpM with blocks := [block1], cores := cores1 bank1, cursor := some cursor1 }
def xM : Focus := ⟨cursor1, warpM, frag0⟩
theorem meetM (i : Instr) (h : i.wf = true) : meetReady sM xM i := ⟨rfl, h, rfl⟩
theorem activeM : activeList xM none = [0] := by decide +kernel

theorem performed_value {s : State} {ag : Agent} {k : AccKind} {l : Loc} {a d v : W64} {n f : Nat} {st : Bool}
    (h : (s.performAt ag k l a n d st).2 = .value v f) :
    s.performAt ag k l a n d st = ((s.performAt ag k l a n d st).1, .value v f) := by rw [← h]

theorem frees (f : Focus) (s : State) (i : Instr) (g : Option Guard) (h : f.f.lostAcks = Lanes.all none) (r : s.reqs = []) :
    ordersFreely s f i g := by
  refine fun _ => ⟨fun l _ => ?_, fun q hq => ?_⟩
  · rw [h]; simp [Lanes.all]
  · rw [r] at hq; cases hq

theorem meets_load : ∃ s x i k grd o v, memRow i = some (k, grd, o) ∧ strandReady s x i grd ∧ x.w.acc[k].tile = none ∧
    dispatchedAs x i ∧ ordersFreely s x i grd ∧ o.kind = .load ∧
    ∃ t, accessesOf s x k o (fun u => servedNow s u x o.kind (o.t.width / 8)) (activeList x grd) s t v := by
  refine ⟨sM, xM, .ld ⟨false, 0, .n64, ⟨3, none, false⟩⟩, 0, none, _, fun _ => (0, 0), rfl, ⟨rfl, rfl, .inl rfl⟩, rfl, fun _ h => (by cases h),
    frees _ _ _ _ rfl rfl, rfl, ?_⟩
  rw [activeM]
  exact ⟨_, .glob 0x40, _, by decide +kernel, ⟨rfl, by decide +kernel, (fun h => by cases h), by decide +kernel⟩, performed_value (by decide +kernel), rfl⟩

theorem meets_store_release : ∃ s x i k grd o v, memRow i = some (k, grd, o) ∧ strandReady s x i grd ∧ x.w.acc[k].tile = none ∧
    dispatchedAs x i ∧ ordersFreely s x i grd ∧ o.kind = .storeE ∧
    ∃ t, accessesOf s x k o (fun u => servedNow s u x o.kind (o.t.width / 8)) (activeList x grd) s t v := by
  refine ⟨sM, xM, .stExt ⟨false, 0, .n64, ⟨3, none, false⟩, 8, .rel, .system, true, none⟩, 0, none, _, fun _ => (0, 0), rfl,
    ⟨rfl, rfl, .inl rfl⟩, rfl, fun _ h => (by cases h), frees _ _ _ _ rfl rfl, rfl, ?_⟩
  rw [activeM]
  exact ⟨_, .glob 0x48, _, by decide +kernel, ⟨rfl, by decide +kernel, (fun _ => by decide +kernel), by decide +kernel⟩, performed_value (by decide +kernel), rfl⟩

theorem meets_atom : ∃ s x i k grd o v aop ty, memRow i = some (k, grd, o) ∧ strandReady s x i grd ∧ x.w.acc[k].tile = none ∧
    dispatchedAs x i ∧ ordersFreely s x i grd ∧ o.kind = .atom aop ty ∧
    ∃ t, accessesOf s x k o (fun u => servedNow s u x o.kind (o.t.width / 8)) (activeList x grd) s t v := by
  refine ⟨sM, xM, .atom ⟨false, 0, .n32, ⟨4, none, true⟩, 4, .rlx, .gang, 7, none⟩, 0, none, _, fun _ => (1, 0), 7, .n32, rfl,
    ⟨rfl, rfl, .inl rfl⟩, rfl, fun _ h => (by cases h), frees _ _ _ _ rfl rfl, rfl, ?_⟩
  rw [activeM]
  exact ⟨_, .bank 0 0 4, _, by decide +kernel, trivial, performed_value (by decide +kernel), rfl⟩

def agentM : Agent := laneAgent sM warpM 0

theorem wfM : settledMemory sM := ⟨by decide +kernel, rfl, rfl⟩

theorem meets_accessAtItsPlace : ∃ s u ag loc addr data v n fl, (s : State).performAt ag .load loc addr n data false = (u, .value v fl) ∧
    s.mem.wf = true ∧ s.forwards = [] ∧ s.mem.indet = [] :=
  ⟨sM, _, agentM, .glob 0xFFF8, 0xFFF8, 0, 0, 8, 0, performed_value (by decide +kernel), wfM⟩

theorem meets_accessAtItsPlace_atom : ∃ s u ag loc addr data v n fl, (s : State).performAt ag (.atom 0 .i64) loc addr n data false = (u, .value v fl) ∧
    s.mem.wf = true ∧ s.forwards = [] ∧ s.mem.indet = [] :=
  ⟨sM, _, agentM, .glob 0x40, 0x40, 1, 0, 8, 0, performed_value (by decide +kernel), wfM⟩

theorem meets_accessAtItsPlace_swap : ∃ s u ag loc addr data v n fl, (s : State).performAt ag (.atom 7 .n32) loc addr n data false = (u, .value v fl) ∧
    s.mem.wf = true ∧ s.forwards = [] ∧ s.mem.indet = [] :=
  ⟨sM, _, agentM, .glob 0x40, 0x40, 0, 0x100000000#64, 4, 0, performed_value (by decide +kernel), wfM⟩

theorem meets_scalarLoad : ∃ s x b d a t v fl, meetReady s x (.sld b d a 0x400#11) ∧ (x.w.s[a] + (0x400#11).signExtend 64).toNat < 2 ^ 57 ∧
    s.stntOver (s.agentOf x.w x.f.lanes) (x.w.s[a] + (0x400#11).signExtend 64).toNat 8 = false ∧
    s.reaches (s.agentOf x.w x.f.lanes) (.glob (x.w.s[a] + (0x400#11).signExtend 64).toNat) 8 = true ∧
    s.performAt (s.agentOf x.w x.f.lanes) .load (.glob (x.w.s[a] + (0x400#11).signExtend 64).toNat) (x.w.s[a] + (0x400#11).signExtend 64) 8 0 s.choice.stale
      = (t, .value v fl) :=
  ⟨sM, xM, false, 31, 5, _, 0, 0, meetM _ rfl, by decide +kernel, by decide +kernel, by decide +kernel, performed_value (by decide +kernel)⟩

theorem meets_fence : ∃ s x b, meetReady s x (.fence b .system) ∧ releaseFree s x := ⟨sM, xM, false, meetM _ rfl, free0 _ _ rfl rfl⟩

theorem meets_drain : ∃ s x b, meetReady s x (.drain b .warp) ∧ x.f.stntFaults = [] ∧
    ∀ r ∈ s.reqs, r.kind = .stnt → r.frag.core = x.w.core → r.frag.slot = x.w.slot → inMask x.f.lanes r.lane = false :=
  ⟨sM, xM, false, meetM _ rfl, rfl, fun _ h => by cases h⟩

/-- A fragment of one lane. -/
def fragW : Fragment := { frag0 with lanes := 0x80000000#32 }
def warpW : Warp := { warpM with frags := [fragW] }
def sW : State := { sM with warps := [warpW] }
def xW : Focus := ⟨cursor1, warpW, fragW⟩

theorem meets_waita : ∃ s x o v, meetReady s x (.waita o) ∧ x.w.acc[o.a].tile = none ∧ (∀ m sat ob n, x.f.status ≠ .waiting (.waita m sat ob n)) ∧ o.grd = none ∧
    (∀ l, inMask x.f.lanes l = true → intHolds o.t (waitaCond o.aop) ((v l).1.setWidth o.t.width) (accOf o.t x.w o.a l) = true) ∧
    ∃ t, accessesOf s x o.a (waitaOp o) (fun u => lookedAt s u x (o.t.width / 8)) ((List.finRange 32).filter (inMask x.f.lanes)) s t v := by
  refine ⟨sW, xW, ⟨false, 0, .n32, ⟨3, none, false⟩, 0, .acq, .gang, 5, none⟩, fun _ => (0, 0), ⟨rfl, rfl, rfl⟩, rfl,
    fun _ _ _ _ h => (by cases h), rfl, by decide +kernel, ?_⟩
  rw [show (List.finRange 32).filter (inMask xW.f.lanes) = [31] from by decide +kernel]
  exact ⟨_, .glob 0x40, _, by decide +kernel, ⟨by decide +kernel, by decide +kernel⟩, performed_value (by decide +kernel), rfl⟩

/-- The places of the object at offset o of bank 0. -/
def placesM (o : Nat) : List Phys := (List.range 8).map fun k => .bank 0 0 (o + k)

theorem objectM (kind : XKind) (a : W64) (o : Nat) (h : sM.resolveLane warpM true a 8 true = .ok (.bank 0 0 o))
    (hs : sM.serves 0 (sM.homeDie (sM.agentOf warpM frag0.lanes) (.bank 0 0 o)) = true) :
    objectAt sM xM a kind (placesM o) (sM.useAll (sM.agentOf warpM frag0.lanes) kind ((List.range 8).map fun k => (.bank 0 0 (o + k), none))) :=
  ⟨.bank 0 0 o, _, h, (fun _ _ _ h => by cases h), (fun h => by cases h), (fun _ h => by cases h), hs, rfl, by simp [placesM], rfl⟩

theorem meets_boinit : ∃ s t x ps b a c, settledMemory s ∧ meetReady s x (.boinit b a c) ∧ objectAt s x x.w.s[a] .write ps t ∧ (x.w.s[c]).setWidth 15 = 0#15 :=
  ⟨sM, _, xM, _, false, 5, 4, wfM, meetM _ rfl, objectM .write 0x8000#64 0x8000 (by decide +kernel) (by decide +kernel), by decide +kernel⟩

theorem meets_boexp : ∃ s t x ps b a c, settledMemory s ∧ meetReady s x (.boexp b a c false) ∧ objectAt s x x.w.s[a] .atom ps t ∧
    (BitVec.ofNat 64 (numberAt t ps)).extractLsb' 32 15 ≠ 0 :=
  ⟨sM, _, xM, _, false, 4, 3, wfM, meetM _ rfl, objectM .atom 0 0 (by decide +kernel) (by decide +kernel), by decide +kernel⟩

theorem meets_boexp_noArrival : ∃ s t x ps b a c, settledMemory s ∧ meetReady s x (.boexp b a c true) ∧ objectAt s x x.w.s[a] .atom ps t :=
  ⟨sM, _, xM, _, false, 5, 3, wfM, meetM _ rfl, objectM .atom 0x8000#64 0x8000 (by decide +kernel) (by decide +kernel)⟩

theorem meets_bowait : ∃ s t x ps b d a, settledMemory s ∧ meetReady s x (.bowait b d a true) ∧ meetReady s x (.bowait b d a false) ∧
    objectAt s x x.w.s[a] .read ps t ∧ (BitVec.ofNat 64 (numberAt t ps)).getLsbD 63 = false :=
  ⟨sM, _, xM, _, false, 31, 4, wfM, meetM _ rfl, meetM _ rfl, objectM .read 0 0 (by decide +kernel) (by decide +kernel), by decide +kernel⟩

theorem meets_launch_room : ∃ s x b d q r k qu bs s1, meetReady s x (.launch b d q r) ∧ s.warpCtx x.w x.w.s[q] = some (.queue 0 k) ∧
    s.queue? 0 k = some qu ∧ qu.dev = true ∧ s.recordRead (s.agentOf x.w (firstLane x.f.lanes)) (lateWait s x) x.w.s[r] 256 = .ok (bs, s1) ∧
    qu.tail < qu.head + 2 ^ qu.log2n := by
  obtain ⟨p, h⟩ := isOk_out (e := (ready sQ).recordRead ((ready sQ).agentOf warpQ (firstLane frag0.lanes)) (lateWait (ready sQ) xQ) warpQ.s[(4 : Fin 32)] 256) (by decide +kernel)
  exact ⟨ready sQ, xQ, false, 31, 3, 4, 0, queue0, p.1, p.2, ⟨rfl, rfl, rfl⟩, by decide +kernel, rfl, rfl, h, by decide⟩

def sQF : State := { ready sQ with queues := [{ queue0 with tail := 16 }] }

theorem meets_launch_full : ∃ s x b d q r k qu bs s1, meetReady s x (.launch b d q r) ∧ s.warpCtx x.w x.w.s[q] = some (.queue 0 k) ∧
    s.queue? 0 k = some qu ∧ qu.dev = true ∧ s.recordRead (s.agentOf x.w (firstLane x.f.lanes)) (lateWait s x) x.w.s[r] 256 = .ok (bs, s1) ∧
    qu.tail ≥ qu.head + 2 ^ qu.log2n := by
  obtain ⟨p, h⟩ := isOk_out (e := sQF.recordRead (sQF.agentOf warpQ (firstLane frag0.lanes)) (lateWait sQF xQ) warpQ.s[(4 : Fin 32)] 256) (by decide +kernel)
  exact ⟨sQF, xQ, false, 31, 3, 4, 0, { queue0 with tail := 16 }, p.1, p.2, ⟨rfl, rfl, rfl⟩, by decide +kernel, rfl, rfl, h, by decide⟩
/-! ### Ranges, banks, windows -/

theorem some_out {α : Type} {e : Option α} (h : e.isSome = true) : ∃ a, e = some a := Option.isSome_iff_exists.mp h

theorem meets_range : ∃ s x b a l n r r', meetReady s x (.vinvAs b a l n) ∧ rangeRow s x (.vinvAs b a l n) = some r ∧ meetReady s x (.icinv b a l) ∧
    rangeRow s x (.icinv b a l) = some r' ∧ x.f.status = .ready ∧ (∀ k ∈ s.ranges, k.frag ≠ ⟨x.w.core, x.w.slot, x.f.uid⟩) ∧
    releaseFree s x ∧ s.mem.poison = [] ∧ 0 < (x.w.s[l]).toNat ∧ (x.w.s[l]).toNat < 2 ^ 40 ∧ (x.w.s[a]).toNat + (x.w.s[l]).toNat ≤ 2 ^ 57 := by
  obtain ⟨r, h⟩ := some_out (e := rangeRow sM xM (.vinvAs false 3 5 6)) (by decide +kernel)
  exact ⟨sM, xM, false, 3, 5, 6, r, _, meetM _ rfl, h, meetM _ rfl, rfl, rfl, (fun _ h => by cases h), free0 _ _ rfl rfl, rfl, by decide +kernel,
    by decide +kernel, by decide +kernel⟩

theorem meets_range_empty : ∃ s x b a l r, meetReady s x (.cflush b a l) ∧ rangeRow s x (.cflush b a l) = some r ∧ x.f.status = .ready ∧
    (∀ k ∈ s.ranges, k.frag ≠ ⟨x.w.core, x.w.slot, x.f.uid⟩) ∧ releaseFree s x ∧ s.mem.poison = [] ∧ (x.w.s[l]).toNat = 0 :=
  ⟨sM, xM, false, 3, 4, _, meetM _ rfl, rfl, rfl, (fun _ h => by cases h), free0 _ _ rfl rfl, rfl, by decide⟩

def range9 : RangeOp := ⟨9, ⟨0, 0, 5⟩, 0x8000#56⟩
def sRange : State := withCode { sM with ranges := [range9] } 0x4000 0x01889405#32

theorem meets_rangeAck : ∃ s r w f i next, State.ranges s = [r] ∧ s.ranges.find? (fun k => k.id == RangeOp.id r) = some r ∧
    (∀ d : Fin 4, s.dies[d].ready = true → s.route (dieOfCore r.frag.core).val d.val = true) ∧
    s.warp? r.frag.core r.frag.slot = some w ∧ w.frag? r.frag.uid = some f ∧ s.fetch (cgOfCore w.core) (s.asidOf w) r.pos = .instr i next :=
  ⟨sRange, range9, warpM, frag0, .mac ⟨false, 1, 4, .f32, .rne, 2⟩, 0x8002#56, rfl, rfl, by decide +kernel, rfl, rfl, rfl⟩

/-- The memory scene with another bank 0. -/
def withBank0 (b : Bank) : State := { sM with cores := cores1 b }

theorem trapM (b : Bank) : mayTrap (withBank0 b) xM := ⟨rfl, by decide, rfl, rfl, by decide⟩

theorem meets_bank_same : ∃ s x b n, meetReady s x (.bankmodeScratch b n) ∧ (s.bank x.w.core n).switching = none ∧
    (s.bank x.w.core n).mode = .scratch ∧ (s.bank x.w.core n).holder = some (.block x.w.block) :=
  ⟨sM, xM, false, 0, meetM _ rfl, rfl, rfl, rfl⟩

theorem meets_bank_held : ∃ s x b n, meetReady s x (.bankmodeFifo b n) ∧ (s.bank x.w.core n).switching = none ∧
    (s.bank x.w.core n).mode ≠ .fifo ∧ switchRefused s x n .fifo = some 1 ∧ mayTrap s x :=
  ⟨withBank0 { bank1 with holder := some (.block 99) }, xM, false, 0, ⟨rfl, rfl, rfl⟩, rfl, by decide +kernel, by unfold switchRefused; decide +kernel, trapM _⟩

theorem meets_bank_words : ∃ s x b n, meetReady s x (.bankmodeScratch b n) ∧ (s.bank x.w.core n).switching = none ∧
    (s.bank x.w.core n).mode ≠ .scratch ∧ switchRefused s x n .scratch = some 2 ∧ mayTrap s x :=
  ⟨withBank0 { bank1 with mode := .fifo, fifo := [1] }, xM, false, 0, ⟨rfl, rfl, rfl⟩, rfl, by decide +kernel, by unfold switchRefused; decide +kernel, trapM _⟩

/-- A core whose last bank alone is in CACHE mode. -/
def sLast : State :=
  let k : Core := { Core.reset with banks := (Vector.replicate 12 bank1).set 11 Bank.reset }
  { sM with cores := State.reset.cores.set 0 k }

theorem meets_bank_last : ∃ s x b n, meetReady s x (.bankmodeFifo b n) ∧ (s.bank x.w.core n).switching = none ∧
    (s.bank x.w.core n).mode ≠ .fifo ∧ switchRefused s x n .fifo = some 3 ∧ mayTrap s x :=
  ⟨sLast, xM, false, 11, ⟨rfl, rfl, rfl⟩, rfl, by decide +kernel, by unfold switchRefused; decide +kernel, rfl, by decide, rfl, rfl, by decide⟩

theorem meets_bank_starts : ∃ s x b n, meetReady s x (.bankmodeCache b n) ∧ (s.bank x.w.core n).switching = none ∧
    (s.bank x.w.core n).mode ≠ .cache ∧ switchRefused s x n .cache = none ∧ x.f.status = .ready :=
  ⟨sM, xM, false, 0, meetM _ rfl, rfl, by decide +kernel, by unfold switchRefused; decide +kernel, rfl⟩

theorem meets_bank_completes : ∃ s core n m h, (State.bank s (core : Fin 256).val n).switching = some (m, h) :=
  ⟨withBank0 { bank1 with switching := some (.cache, none) }, 0, 0, .cache, none, rfl⟩

theorem meets_window : ∃ s x b a k, meetReady s x (.spmap b a k) ∧ goodWindow x.w.s[a] :=
  ⟨sM, xM, false, 4, 15, meetM _ rfl, by unfold goodWindow; decide +kernel⟩

theorem meets_window_refused : ∃ s x b a k, meetReady s x (.spmap b a k) ∧ ¬goodWindow x.w.s[a] ∧ mayTrap s x :=
  ⟨sM, xM, false, 3, 15, meetM _ rfl, by unfold goodWindow; decide +kernel, rfl, by decide, rfl, rfl, by decide⟩

/-! ### Barriers -/

/-- A second warp of the block on its core. -/
def warpB : Warp := newWarp 0 1 4 1 0x8000#56 0 0 0 7 0
def sTwo : State := { s0 with warps := [warp0, warpB] }
theorem meetTwo (i : Instr) (h : i.wf = true) : meetReady sTwo x0 i := ⟨rfl, h, rfl⟩

def sOwes : State := { s0 with barriers := [⟨.block 4, 1, none, [⟨0, 0, 0, 0xFFFFFFFF#32, 0, false⟩]⟩] }

theorem meets_bar_wait : ∃ s x b r, meetReady s x (.barWait b) ∧ barRow s x (.barWait b) = some r ∧ barLegal s x r ∧ r.form = .wait ∧
    (meAt s x r.key).ep < (s.barrier r.key).episode := by
  refine ⟨sOwes, x0, false, ⟨.block 4, .wait, none, none⟩, ⟨rfl, rfl, rfl⟩, rfl, ⟨rfl, fun h => absurd rfl h, fun _ => by decide +kernel, fun _ h => by cases h⟩,
    rfl, by decide +kernel⟩

theorem meets_bar_first : ∃ s x b r, meetReady s x (.barNamed b 127 16) ∧ barRow s x (.barNamed b 127 16) = some r ∧ barLegal s x r ∧ r.form = .sync ∧
    (standing s x).arrivals (arrivedAt s x r) < (standing s x).expected (arrivedAt s x r) ∧ x.w.frags = [x.f] := by
  refine ⟨sTwo, x0, false, ⟨.named 4 127, .sync, some 16, none⟩, meetTwo _ rfl, rfl,
    ⟨rfl, fun _ => ⟨by decide +kernel, (fun _ _ h => by cases h)⟩, (fun h => by cases h), (fun _ h => by cases h)⟩, rfl, by decide +kernel, rfl⟩

theorem meets_bar_arrive : ∃ s x b r, meetReady s x (.barArriveLvl b 0) ∧ barRow s x (.barArriveLvl b 0) = some r ∧ barLegal s x r ∧ r.form = .arrive ∧
    (standing s x).arrivals (arrivedAt s x r) < (standing s x).expected (arrivedAt s x r) := by
  refine ⟨sTwo, x0, false, ⟨.block 4, .arrive, none, none⟩, meetTwo _ rfl, rfl,
    ⟨rfl, fun _ => ⟨by decide +kernel, (fun _ _ h => by cases h)⟩, (fun h => by cases h), (fun _ h => by cases h)⟩, rfl, by decide +kernel⟩

theorem meets_bar_last : ∃ s x b d v r w, meetReady s x (.xbarValue b d v .n64 .add) ∧ barRow s x (.xbarValue b d v .n64 .add) = some r ∧ barLegal s x r ∧
    r.form = .sync ∧ r.key = .grid 1 ∧ releaseFree s x ∧ r.value = some w ∧ (standing s x).expected (arrivedAt s x r) ≠ 0 ∧
    (standing s x).arrivals (arrivedAt s x r) ≥ (standing s x).expected (arrivedAt s x r) ∧
    ((arrivedAt s x r).warp x.w.core x.w.slot).done = true ∧ (∀ d ∈ (valuesAt s r.key).2, d.1 ≠ ⟨x.w.core, x.w.slot⟩) := by
  refine ⟨s0, x0, false, 31, 0, ⟨.grid 1, .sync, none, some ⟨31, 0, .n64, .add⟩⟩, _, meet0 _ rfl, rfl,
    ⟨rfl, fun _ => ⟨by decide +kernel, (fun _ _ h => by cases h)⟩, (fun h => by cases h), (fun _ _ _ h => by cases h)⟩, rfl, rfl, free0 _ _ rfl rfl, rfl,
    by decide +kernel, by decide +kernel, by decide +kernel, fun _ h => by cases h⟩

/-- Another warp's value stands in the open episode of the grid barrier. -/
def sGiven : State := { s0 with barValues := [⟨.grid 1, .add, .n64, [5], [(⟨9, 0⟩, 2)]⟩] }

theorem meets_bar_given : ∃ s x b d v r, meetReady s x (.xbarValue b d v .n64 .add) ∧ barRow s x (.xbarValue b d v .n64 .add) = some r ∧ barLegal s x r ∧
    noneTaken s x r.key ∧ givenAt s x r.key 7 = [5, 7] := by
  refine ⟨sGiven, x0, false, 31, 0, ⟨.grid 1, .sync, none, some ⟨31, 0, .n64, .add⟩⟩, ⟨rfl, rfl, rfl⟩, rfl,
    ⟨rfl, fun _ => ⟨by decide +kernel, (fun _ _ h => by cases h)⟩, (fun h => by cases h), fun v hv y hy => ?_⟩,
    ⟨rfl, fun w _ _ hw => ?_⟩, by decide +kernel⟩
  · cases hv; cases hy; exact ⟨rfl, rfl⟩
  · rename_i hm _
    rw [List.mem_singleton.mp hm] at hw
    cases hw

def fragS : Fragment := { frag0 with status := .waiting (.swath 3 0x8002#56) }
def sSwath : State := { scene (warpOf fragS) with time := 3 }

theorem meets_swath : ∃ s cg w f due p, w ∈ State.warps s ∧ f ∈ Warp.frags w ∧ cgOfCore w.core = cg ∧ f.status = .waiting (.swath due p) ∧ due ≤ s.time :=
  ⟨sSwath, 0, warpOf fragS, fragS, 3, 0x8002#56, by simp [sSwath, scene], by simp [warpOf], rfl, rfl, Nat.le_refl _⟩

/-! ### Vertical exchange -/

def setPair (s : State) (p : Pair) : State := { s with pairs := s.pairs.set 0 p }
def pair1 : Pair := { Pair.reset with holder := some 3 }
def sV : State := setPair sH pair1
theorem meetV (p : Pair) (i : Instr) (h : i.wf = true) : meetReady (setPair sH p) xH i := ⟨rfl, h, rfl⟩
theorem holdsV (p : Pair) (h : p.holder = some 3) : holdsPair (setPair sH p) xH := ⟨block0, rfl, h⟩

theorem meets_push : ∃ s x b a, strandReady s x (.vpush b a .i64) none ∧ x.w.acc[a].tile = none ∧ x.f.handler = false ∧ holdsPair s x ∧
    producing s x ∧ gateOpen s x ∧ (pairAt s x).waits = [] ∧ (pairAt s x).fifo.length + (groupOf x a .i64).length ≤ 16 :=
  ⟨setPair sH { pair1 with fifo := List.replicate 14 (Lanes.all 0) }, xH, false, 7, ⟨rfl, rfl, .inr rfl⟩, rfl, rfl, holdsV _ rfl, by unfold producing; decide +kernel,
    .inl rfl, rfl, by decide +kernel⟩

/-- The crown core's warp of the same gang. -/
def warpCrown : Warp := newWarp 1 0 4 1 0x8000#56 0 0 0 7 0
def sFull : State := { setPair sH { pair1 with fifo := List.replicate 16 (Lanes.all 0) } with warps := [warpH, warpCrown] }

theorem aliveF (s : State) (h : s.warps = [warpH, warpCrown]) (hb : s.block? 4 = some block0) (hp : (pairAt s xH).holder = some 3) : partnerAlive s xH :=
  ⟨warpCrown, by rw [h]; simp, rfl, by decide, block0, hb, hp⟩

theorem meets_push_full : ∃ s x b a e, strandReady s x (.vpushn b a e .n16) none ∧ strandReady s x (.vpush b a .n16) none ∧ x.w.acc[a].tile = none ∧
    x.f.handler = false ∧ holdsPair s x ∧ producing s x ∧ gateOpen s x ∧
    (∀ v ∈ (pairAt s x).waits, v.frag ≠ ⟨x.w.core, x.w.slot, x.f.uid⟩) ∧ partnerAlive s x ∧
    (pairAt s x).fifo.length + (groupOf x a .n16).length > 16 :=
  ⟨sFull, xH, false, 7, 0, ⟨rfl, rfl, .inr rfl⟩, ⟨rfl, rfl, .inr rfl⟩, rfl, rfl, ⟨block0, rfl, rfl⟩, by unfold producing; decide +kernel, .inl rfl,
    (fun _ h => by cases h), aliveF _ rfl rfl rfl, by decide +kernel⟩

def pairDown : Pair := { pair1 with down := true, fifo := [Lanes.all 1, Lanes.all 2, Lanes.all 3] }

theorem meets_pop : ∃ s x b g es rest, meetReady s x (.vpop b g .f64) ∧ x.f.handler = false ∧ holdsPair s x ∧ ¬producing s x ∧
    (∀ w ∈ s.warps, ∀ f ∈ w.frags, ∀ o, f.status ≠ .waiting (.vertical o)) ∧ (pairAt s x).fifo = es ++ rest ∧ es.length = 2 :=
  ⟨setPair sH pairDown, xH, false, 62, [Lanes.all 1, Lanes.all 2], [Lanes.all 3], meetV _ _ rfl, rfl, holdsV _ rfl, by unfold producing; decide +kernel,
    (by intro w hw f hf o ho
        have hw' : w = warpH := by simpa [setPair, sH, scene] using hw
        subst hw'
        have hf' : f = frag0 := List.mem_singleton.mp hf
        subst hf'
        cases ho), rfl, rfl⟩

def sEmpty : State := { setPair sH { pairDown with fifo := [] } with warps := [warpH, warpCrown] }

theorem meets_pop_waits : ∃ s x b g, meetReady s x (.vpop b g .f32) ∧ x.f.handler = false ∧ holdsPair s x ∧ ¬producing s x ∧
    (pairAt s x).fifo = [] ∧ partnerAlive s x :=
  ⟨sEmpty, xH, false, 63, ⟨rfl, rfl, rfl⟩, rfl, ⟨block0, rfl, rfl⟩, by unfold producing; decide +kernel, rfl, aliveF _ rfl rfl rfl⟩

theorem meets_vfree : ∃ s x b d held, meetReady s x (.vfree b d) ∧ (pairAt s x).fifo.length ≤ 16 ∧ (held = true ↔ holdsPair s x) :=
  ⟨setPair sH pair1, xH, false, 31, true, meetV _ _ rfl, by decide +kernel, iff_of_true rfl (holdsV _ rfl)⟩

theorem meets_vfree_other : ∃ s x b d held, meetReady s x (.vfree b d) ∧ (pairAt s x).fifo.length ≤ 16 ∧ (held = true ↔ holdsPair s x) ∧ held = false :=
  ⟨sH, xH, false, 31, false, meetH _ rfl, by decide +kernel, iff_of_false (by decide) (fun ⟨_, _, h⟩ => by cases h), rfl⟩

/-- The scene with PGOK in the launch's record. -/
def recordPg : Rec256 := 1#2048 <<< 62
def sPg : State := { sH with launches := [{ launch0 with record := recordPg }] }

theorem meets_pgreq : ∃ s x b d r ow, meetReady s x (.pgreqNow b d) ∧ gateRow d (pairAt s x).gate false (.pgreqNow b d) = some r ∧
    s.owner? x.w = some ow ∧ (recField ow.launch.record 7 1).testBit 6 = true ∧ (pairAt s x).fifo = [] ∧ (pairAt s x).waits = [] :=
  ⟨sPg, xH, false, 31, (.pending, 1), _, ⟨rfl, rfl, rfl⟩, rfl, rfl, by decide +kernel, rfl, rfl⟩

theorem meets_pgreq_denied : ∃ s x b d r ow, meetReady s x (.pgreqCancel b d) ∧ gateRow d (pairAt s x).gate false (.pgreqCancel b d) = some r ∧
    s.owner? x.w = some ow ∧ (recField ow.launch.record 7 1).testBit 6 = false ∧ mayTrap s x :=
  ⟨sH, xH, false, 31, (.on, 0), _, ⟨rfl, rfl, rfl⟩, rfl, rfl, by decide +kernel, trapH⟩
/-! ### The copy engine -/

def ctx0 : CopyCtx := ⟨3, 0, 0, 5, 4, [], 0⟩
def sC : State := { sM with copyCtxs := [ctx0], tags := [⟨4, 1, 1, 0⟩] }
theorem meetC (i : Instr) (h : i.wf = true) : meetReady sC xM i := ⟨rfl, h, rfl⟩

theorem meets_copy : ∃ s x i o kind blk c, copyRow x i = some (o, kind) ∧ meetReady s x i ∧ s.block? x.w.block = some blk ∧ o.k.val < blk.tags ∧
    (s.copyOps.filter fun p => p.gang == blk.gang).length < 256 ∧ releaseFree s x ∧ s.copyCtx? blk.gang = some c ∧
    goodDescriptor kind o.bo x.w.s[o.l] ∧ movesBytes kind x.w.s[o.l] :=
  ⟨sC, xM, .copy ⟨false, 3, 5, 3, false, 63⟩, _, _, block1, ctx0, rfl, meetC _ rfl, rfl, by decide, by decide, free0 _ _ rfl rfl, rfl,
    ⟨by decide +kernel, fun _ => by decide +kernel, (fun h => by cases h), by show _ = _; decide +kernel⟩, by show _ ≠ _; decide +kernel⟩

theorem meets_copy_refused : ∃ s x i o kind blk c, copyRow x i = some (o, kind) ∧ meetReady s x i ∧ s.block? x.w.block = some blk ∧ o.k.val < blk.tags ∧
    releaseFree s x ∧ s.copyCtx? blk.gang = some c ∧ (∀ p ∈ s.copyOps, p.id ≠ s.nextId) ∧ (∀ d ∈ c.done, c.counter < d) ∧
    ¬goodDescriptor kind o.bo x.w.s[o.l] ∧ (s.tag blk.id o.k).err = 0 :=
  ⟨sC, xM, .copym ⟨false, 3, 5, 7, true, 0⟩, _, _, block1, ctx0, rfl, meetC _ rfl, rfl, by decide, free0 _ _ rfl rfl, rfl,
    (fun _ h => by cases h), (fun _ h => by cases h), (fun h => absurd h.1 (by decide +kernel)), rfl⟩

theorem meets_copy_nothing : ∃ s x i o kind blk c, copyRow x i = some (o, kind) ∧ meetReady s x i ∧ s.block? x.w.block = some blk ∧ o.k.val < blk.tags ∧
    releaseFree s x ∧ s.copyCtx? blk.gang = some c ∧ (∀ p ∈ s.copyOps, p.id ≠ s.nextId) ∧ (∀ d ∈ c.done, c.counter < d) ∧
    goodDescriptor kind o.bo x.w.s[o.l] ∧ ¬movesBytes kind x.w.s[o.l] :=
  ⟨sC, xM, .copy ⟨false, 3, 5, 4, false, 0⟩, _, _, block1, ctx0, rfl, meetC _ rfl, rfl, by decide, free0 _ _ rfl rfl, rfl,
    (fun _ h => by cases h), (fun _ h => by cases h),
    ⟨by decide +kernel, fun _ => by decide +kernel, (fun h => by cases h), by show _ = _; decide +kernel⟩, fun h => h (by decide +kernel)⟩

theorem meets_tags : ∃ s x b d, meetReady s x (.tagwait b d 0) ∧ holdsTag s x 0 ∧ (s.tag x.w.block 0).count = 0 ∧
    meetReady s x (.tagwait b d 1) ∧ holdsTag s x 1 ∧ (s.tag x.w.block 1).count ≠ 0 ∧ meetReady s x (.tagclr b 63) ∧ holdsTag s x 63 :=
  ⟨sC, xM, false, 31, meetC _ rfl, ⟨block1, rfl, by decide⟩, rfl, meetC _ rfl, ⟨block1, rfl, by decide⟩, by decide, meetC _ rfl, ⟨block1, rfl, by decide⟩⟩

/-- Mask 0x42 of s8 names tags 1 and 6; mask 0 no tag. -/
def warpTag : Warp := { warpM with s := warpM.s.set 8 0x42#64 }
def sTag : State := { sC with warps := [warpTag] }
def xTag : Focus := ⟨cursor1, warpTag, frag0⟩

theorem meets_tagfirst : ∃ s x b d m blk n, meetReady s x (.tagfirst b d m) ∧ s.block? x.w.block = some blk ∧
    ∃ k : Fin 64, n = k.val ∧ (k.val < blk.tags ∧ (x.w.s[m]).getLsbD k.val = true ∧ (s.tag x.w.block k).count = 0) ∧
      ∀ j : Fin 64, j < k → ¬(j.val < blk.tags ∧ (x.w.s[m]).getLsbD j.val = true ∧ (s.tag x.w.block j).count = 0) :=
  ⟨sTag, xTag, false, 31, 8, block1, 6, ⟨rfl, rfl, rfl⟩, rfl, 6, rfl, by decide +kernel, by decide +kernel⟩

theorem meets_tagfirst_none : ∃ s x b d m blk, meetReady s x (.tagfirst b d m) ∧ s.block? x.w.block = some blk ∧
    ∀ k : Fin 64, ¬(k.val < blk.tags ∧ (x.w.s[m]).getLsbD k.val = true ∧ (s.tag x.w.block k).count = 0) :=
  ⟨sTag, xTag, false, 31, 4, block1, ⟨rfl, rfl, rfl⟩, rfl, by decide +kernel⟩

def sNoTags : State := { sM with blocks := [{ block1 with tags := 63 }] }

theorem meets_tags_none : ∃ s x b, meetReady s x (.tagclr b 63) ∧ ¬holdsTag s x 63 ∧ mayTrap s x :=
  ⟨sNoTags, xM, false, ⟨rfl, rfl, rfl⟩, (fun ⟨b, h, k⟩ => by cases h; exact absurd k (by decide)), rfl, by decide, rfl, rfl, by decide⟩

/-- A copy of 16 bytes within bank 0, from offset 0 to the end of its window. -/
def copyOp0 : CopyOpn :=
  { id := 9, gang := 3, block := 4, warp := ⟨0, 0⟩, num := 6, tag := 1, kind := .copy, bo := false, dst := 0xFFF0#64, src := 0
    desc := 0x3000000000000010#64, windows := block1.windows, performed := false, code := 0, errAddr := 0, land := [], since := none, free := false }
def sOp (o : CopyOpn) : State := { sC with copyOps := [o] }

theorem meets_copyPerform : ∃ s o c b f c' b' d, State.copyOp? s (CopyOpn.id o) = some o ∧ o.performed = false ∧ o.kind = .copy ∧
    (s.copyOps.filter fun p => p.gang == o.gang && p.num < o.num).length < 8 ∧
    s.endpoint o (o.desc.getLsbD 60) o.src.toNat (o.desc.setWidth 32).toNat = .ep (.bank c b f) ∧
    s.endpoint o (o.desc.getLsbD 61) o.dst.toNat (o.desc.setWidth 32).toNat = .ep (.bank c' b' d) ∧ o.bo = false ∧
    0 < (o.desc.setWidth 32).toNat ∧ f + (o.desc.setWidth 32).toNat ≤ 65536 ∧ d + (o.desc.setWidth 32).toNat ≤ 65536 ∧
    ∀ k, k < (o.desc.setWidth 32).toNat → s.badUnit (.bank c b (f + k)) = false :=
  ⟨sOp copyOp0, copyOp0, 0, 0, 0, 0, 0, 0xFFF0, rfl, rfl, rfl, by decide, by decide +kernel, by decide +kernel, rfl, by decide, by decide, by decide,
    fun _ _ => rfl⟩

/-- Two copies to one place: each overlaps an operation in flight, and what they write is free (R317, R8). -/
theorem copies_overlap : (sOp copyOp0).breaches { copyOp0 with id := 10, num := 7 } = true ∧ s0.breaches copyOp0 = false := by decide +kernel

def copyBad : CopyOpn := { copyOp0 with src := 0x1000000#64 }

theorem meets_copyPerform_unresolved : ∃ s o, State.copyOp? s (CopyOpn.id o) = some o ∧ o.performed = false ∧ o.kind = .copy ∧
    s.endpoint o (o.desc.getLsbD 60) o.src.toNat (o.desc.setWidth 32).toNat = .bad ∧ o.bo = false :=
  ⟨sOp copyBad, copyBad, rfl, rfl, rfl, by decide +kernel, rfl⟩

def copyLands : CopyOpn := { copyOp0 with performed := true, land := [(0xFFF8#64, 16)] }

theorem meets_landing : ∃ s o a n m ps y, State.copyOp? s (CopyOpn.id o) = some o ∧ o.land[0]? = some (a, n) ∧ 0 < m.toNat ∧ (m : W32).toNat ≤ n ∧
    settledMemory s ∧ s.objPlaces o (o.since.any fun q => s.time ≥ q + s.ackNs) a = .ok (ps, y) ∧ ps.length = 8 := by
  have hm : settledMemory (sOp copyLands) := wfM
  have h : ((sOp copyLands).objPlaces copyLands false 0xFFF8#64).toBool = true := by decide +kernel
  have hl : (match (sOp copyLands).objPlaces copyLands false 0xFFF8#64 with
    | .ok p => p.1.length
    | .error _ => 0) = 8 := by decide +kernel
  obtain ⟨p, hp⟩ := isOk_out h
  rw [hp] at hl
  exact ⟨sOp copyLands, copyLands, 0xFFF8#64, 16, 16, p.1, p.2, rfl, rfl, by decide, by decide, hm, hp, hl⟩

def copyDone : CopyOpn := { copyOp0 with performed := true, code := 6 }

theorem meets_copyComplete : ∃ s o blk c, State.copyOp? s (CopyOpn.id o) = some o ∧ o.performed = true ∧ o.land = [] ∧ s.block? o.block = some blk ∧
    blk.retiredWarps < blk.nWarps ∧ s.copyCtx? o.gang = some c ∧ ∀ d ∈ c.done, c.counter < d :=
  ⟨sOp copyDone, copyDone, block1, ctx0, rfl, rfl, rfl, rfl, by decide, rfl, fun _ h => by cases h⟩

/-! ### EXIT, FRESUME, FKILL -/

theorem quietFrags {ws : List Warp} (h : (ws.all fun v => v.frags.all fun g => g.entry != noEntry && (match g.status with
    | .waiting (.barrier _ _ _) => false
    | _ => true)) = true) : ∀ v ∈ ws, ∀ g ∈ v.frags, g.entry ≠ noEntry ∧ ∀ k e p, g.status ≠ .waiting (.barrier k e p) := by
  intro v hv g hg
  have := List.all_eq_true.mp (List.all_eq_true.mp h v hv) g hg
  rw [Bool.and_eq_true] at this
  refine ⟨by simpa using this.1, fun k e p he => ?_⟩
  rw [he] at this
  exact absurd this.2 (by simp)

theorem meets_exit_last : ∃ s x b blk, meetReady s x (.exit b) ∧ exitsFreely s x ∧ quiet s x.w.core ∧ x.w.retired ||| x.f.lanes = 0xFFFFFFFF#32 ∧
    s.block? x.w.block = some blk ∧ blk.retiredWarps + 1 < blk.nWarps :=
  ⟨s0, x0, false, block0, meet0 _ rfl, ⟨rfl, fun _ _ => by simp [x0, focusOf, frag0, Fragment.start, Lanes.all], fun _ h => by cases h⟩,
    ⟨rfl, rfl, rfl, rfl, quietFrags (by decide)⟩, by decide, rfl, by decide⟩

theorem meets_exit_some : ∃ s x b, meetReady s x (.exit b) ∧ exitsFreely s x ∧ quiet s x.w.core ∧ x.w.retired ||| x.f.lanes ≠ 0xFFFFFFFF#32 :=
  ⟨scene warp5, focusOf warp5 frag4, false, ⟨rfl, rfl, rfl⟩, ⟨rfl, fun _ _ => by simp [focusOf, frag4, frag0, Fragment.start, Lanes.all], fun _ h => by cases h⟩,
    ⟨rfl, rfl, rfl, rfl, quietFrags (by decide)⟩, by decide⟩

/-- A second warp, whose only fragment is parked with record 8 written; s10 names it, s11 is the record. -/
def fragK : Fragment := { Fragment.start 7 257#9 0xFFFF#32 0x9000#56 0 with status := .parked, causes := 1, ringSeq := some 8 }
def warpK : Warp := { warpB with frags := [fragK] }
def warpFS : Warp := { warpH with s := ((((warpH.s.set 10 0x10101#64).set 11 8).set 12 0x4010101#64).set 14 0x10102#64).set 16 (1#64 <<< 40) }
def sFS : State := { scene warpFS with warps := [warpFS, warpK] }
def xFS : Focus := focusOf warpFS frag0
theorem meetFS (i : Instr) (h : i.wf = true) : meetReady sFS xFS i := ⟨rfl, h, rfl⟩

theorem namedFS : namedBy sFS 0x10101#64 warpK fragK := ⟨rfl, rfl, fun _ => by decide, rfl⟩

theorem meets_service_denied : ∃ s x b r, meetReady s x (.fresume b r) ∧ s.servesSpace x.w none = false ∧ mayTrap s x :=
  ⟨{ sH with spaces := [] }, xH, false, 30, ⟨rfl, rfl, rfl⟩, by decide, rfl, by decide, rfl, rfl, by decide⟩

theorem meets_service_malformed : ∃ s x b r, meetReady s x (.fkill b r) ∧ s.servesSpace x.w none = true ∧ releaseFree s x ∧ ¬plainDescriptor x.w.s[r] :=
  ⟨sFS, xFS, false, 16, meetFS _ rfl, by decide, free0 _ _ rfl rfl, fun h => absurd h.1 (by decide)⟩

/-- The interface without core groups. -/
def sNoCgs : State := { sFS with ifaces := [{ iface0 with cgs := 0 }] }

theorem meets_service_outside : ∃ s x b r, meetReady s x (.fresume b r) ∧ s.servesSpace x.w none = true ∧ releaseFree s x ∧
    plainDescriptor x.w.s[r] ∧ s.coreInVi x.w ((x.w.s[r]).extractLsb' 24 8).toNat = false :=
  ⟨sNoCgs, xFS, false, 10, ⟨rfl, rfl, rfl⟩, by decide, free0 _ _ rfl rfl, ⟨by decide, by decide, by decide⟩, by decide⟩

theorem meets_service_nobody : ∃ s x b r, meetReady s x (.fresume b r) ∧ s.servesSpace x.w none = true ∧ releaseFree s x ∧
    plainDescriptor x.w.s[r] ∧ s.coreInVi x.w ((x.w.s[r]).extractLsb' 24 8).toNat = true ∧ ∀ w f, ¬namedBy s x.w.s[r] w f :=
  ⟨sFS, xFS, false, 12, meetFS _ rfl, by decide, free0 _ _ rfl rfl, ⟨by decide, by decide, by decide⟩, by decide,
    fun w f h => by have := h.1; exact absurd this (by rw [show sFS.warp? _ _ = none from by decide]; exact fun h => by cases h)⟩

theorem meets_service_other : ∃ s x b r w f, meetReady s x (.fresume b r) ∧ s.servesSpace x.w none = true ∧ plainDescriptor x.w.s[r] ∧
    s.coreInVi x.w ((x.w.s[r]).extractLsb' 24 8).toNat = true ∧ namedBy s x.w.s[r] w f ∧ s.servesSpace x.w (some (s.asidOf w)) = false :=
  ⟨{ sFS with spaces := [⟨2, 0, 0, 0, 0, 0, false⟩] }, xFS, false, 10, warpK, fragK, ⟨rfl, rfl, rfl⟩, by decide, ⟨by decide, by decide, by decide⟩, by decide,
    ⟨rfl, rfl, fun _ => by decide, rfl⟩, by decide⟩

theorem meets_service_notParked : ∃ s x b r w f, meetReady s x (.fkill b r) ∧ s.servesSpace x.w none = true ∧ plainDescriptor x.w.s[r] ∧
    s.coreInVi x.w ((x.w.s[r]).extractLsb' 24 8).toNat = true ∧ namedBy s x.w.s[r] w f ∧ s.servesSpace x.w (some (s.asidOf w)) = true ∧
    f.status ≠ .parked :=
  ⟨{ sFS with warps := [warpFS, warpB] }, xFS, false, 10, warpB, Fragment.start 7 257#9 0xFFFFFFFF#32 0x8000#56 0, ⟨rfl, rfl, rfl⟩, by decide,
    ⟨by decide, by decide, by decide⟩, by decide, ⟨rfl, rfl, fun _ => by decide, rfl⟩, by decide, (fun h => by cases h)⟩

theorem meets_service : ∃ s x b r w f, meetReady s x (.fresume b r) ∧ meetReady s x (.fkill b r) ∧ s.servesSpace x.w none = true ∧ releaseFree s x ∧
    plainDescriptor x.w.s[r] ∧ s.coreInVi x.w ((x.w.s[r]).extractLsb' 24 8).toNat = true ∧ namedBy s x.w.s[r] w f ∧
    s.servesSpace x.w (some (s.asidOf w)) = true ∧ f.status = .parked ∧ f.due = [] ∧ f.ringSeq = some x.w.s[Fin.ofNat 32 (r.val + 1)] ∧
    (w.core ≠ x.w.core ∨ w.slot ≠ x.w.slot) ∧ (∀ g ∈ w.frags, g.uid = f.uid → g = f) ∧ f.causes &&& ~~~0x100000007#64 = 0 ∧
    quiet s w.core ∧ w.retired ||| f.lanes ≠ 0xFFFFFFFF#32 :=
  ⟨sFS, xFS, false, 10, warpK, fragK, meetFS _ rfl, meetFS _ rfl, by decide, free0 _ _ rfl rfl, ⟨by decide, by decide, by decide⟩, by decide, namedFS,
    by decide, rfl, rfl, rfl, .inr (by decide), (fun g hg _ => List.mem_singleton.mp hg), by decide, ⟨rfl, rfl, rfl, rfl, quietFrags (by decide)⟩, by decide⟩

/-! ### Collectives -/

theorem meets_group : ∃ s x o b c n, s.owner? x.w = some o ∧ meetReady s x (.cgrp b c n) ∧ groupFits o.launch.depth x.w.s[c] ∧
    s.episodeOpen o.launch.id o.level.die n = false :=
  ⟨sM, xM, _, false, 5, 15, rfl, meetM _ rfl, ⟨by decide +kernel, .inl ⟨by decide +kernel, by decide⟩⟩, rfl⟩

/-- An open episode of group slot 15 with one arrival, of a warp on another core. -/
def arrival1 : FragRef × Fin 32 × Mask × Lanes W64 := (⟨5, 0, 9⟩, 0, 1, Lanes.all 7)
def episode1 : Episode := ⟨8, 1, 15, some 0, 0, .add, .n32, [arrival1]⟩
def sE (count : W64) (es : List Episode) : State :=
  let l : DieLevel := { level0 with groups := level0.groups.set 15 count }
  { sM with levels := [l], episodes := es }

theorem meets_group_open : ∃ s x o b c n, s.owner? x.w = some o ∧ meetReady s x (.cgrp b c n) ∧ groupFits o.launch.depth x.w.s[c] ∧
    o.level.groups[n] ≠ x.w.s[c] ∧ s.episodeOpen o.launch.id o.level.die n = true ∧ mayTrap s x :=
  ⟨sE 2 [episode1], xM, _, false, 5, 15, rfl, ⟨rfl, rfl, rfl⟩, ⟨by decide +kernel, .inl ⟨by decide +kernel, by decide⟩⟩, by decide +kernel, rfl,
    rfl, by decide, rfl, rfl, by decide⟩

def sShallow : State := { sM with launches := [{ launch0 with depth := 1 }] }

theorem meets_group_depth : ∃ s x o b c n, s.owner? x.w = some o ∧ meetReady s x (.cgrp b c n) ∧ (x.w.s[c]).extractLsb' 62 2 = 0#2 ∧
    o.launch.depth < 2 ∧ mayTrap s x :=
  ⟨sShallow, xM, _, false, 5, 15, rfl, ⟨rfl, rfl, rfl⟩, by decide +kernel, by decide, rfl, by decide, rfl, rfl, by decide⟩

theorem aloneM : convergedAlone xM := ⟨rfl, by decide, by decide⟩

/-- A descriptor of SPAN PACKAGE with COUNT 0, in s5 and in the slot. -/
def warpPkg : Warp := { warpM with s := warpM.s.set 5 0x4000000000000000#64 }
def sPkg : State :=
  let l : DieLevel := { level0 with groups := level0.groups.set 15 0x4000000000000000#64 }
  { sM with warps := [warpPkg], levels := [l], launches := [{ launch0 with depth := 3 }] }
def xPkg : Focus := ⟨cursor1, warpPkg, frag0⟩

theorem meets_group_package : ∃ s x o b c n, s.owner? x.w = some o ∧ meetReady s x (.cgrp b c n) ∧ (x.w.s[c]).extractLsb' 62 2 = 1#2 ∧
    o.launch.depth = 3 ∧ (x.w.s[c]).extractLsb' 0 16 = 0#16 ∧ mayTrap s x :=
  ⟨sPkg, xPkg, _, false, 5, 15, rfl, ⟨rfl, rfl, rfl⟩, by decide +kernel, rfl, by decide +kernel, rfl, by decide, rfl, rfl, by decide⟩

theorem meets_redt_package : ∃ s x o b a n d, s.owner? x.w = some o ∧ meetReady s x (.redt b a n .n32 d .min) ∧ convergedAlone x ∧ x.w.acc[a].tile = none ∧
    mayArrive s x o n o.level.groups[n] .min .n32 ∧ ((o.level.groups[n]).setWidth 16).toNat = 0 ∧ (o.level.groups[n]).extractLsb' 62 2 = 1#2 ∧
    mayTrap s x :=
  ⟨sPkg, xPkg, _, false, 7, 15, 31, rfl, ⟨rfl, rfl, rfl⟩, ⟨rfl, by decide, by decide⟩, rfl,
    ⟨.inr ⟨by decide +kernel, free0 _ _ rfl rfl, fun l h _ => by rw [List.mem_singleton.mp h]⟩, rfl, rfl⟩, by decide +kernel, by decide +kernel,
    rfl, by decide, rfl, rfl, by decide⟩

theorem meets_redt_empty : ∃ s x o b a n d, s.owner? x.w = some o ∧ meetReady s x (.redt b a n .n32 d .min) ∧ convergedAlone x ∧ x.w.acc[a].tile = none ∧
    mayArrive s x o n o.level.groups[n] .min .n32 ∧ ((o.level.groups[n]).setWidth 16).toNat = 0 :=
  ⟨sM, xM, _, false, 7, 15, 31, rfl, meetM _ rfl, aloneM, rfl, ⟨.inl (by decide +kernel), rfl, rfl⟩, by decide +kernel⟩

theorem meets_redt_first : ∃ s x o b a n d, s.owner? x.w = some o ∧ meetReady s x (.redt b a n .n32 d .add) ∧ convergedAlone x ∧ x.w.acc[a].tile = none ∧
    mayArrive s x o n o.level.groups[n] .add .n32 ∧
    (s.episode o.launch.id n (spanOf o.level.groups[n] o.level.die) .add .n32).arrivals.length + 1 < ((o.level.groups[n]).setWidth 16).toNat :=
  ⟨sE 2 [], xM, _, false, 7, 15, 31, rfl, ⟨rfl, rfl, rfl⟩, aloneM, rfl, ⟨.inl (by decide +kernel), rfl, rfl⟩, by decide +kernel⟩

theorem meets_redt_last : ∃ s x o b a n d, s.owner? x.w = some o ∧ meetReady s x (.redt b a n .n32 d .add) ∧ convergedAlone x ∧ x.w.acc[a].tile = none ∧
    mayArrive s x o n o.level.groups[n] .add .n32 ∧ ((o.level.groups[n]).setWidth 16).toNat ≠ 0 ∧
    (s.episode o.launch.id n (spanOf o.level.groups[n] o.level.die) .add .n32).arrivals = [arrival1] ∧ arrival1.1.core ≠ x.w.core ∧
    1 + 1 ≥ ((o.level.groups[n]).setWidth 16).toNat :=
  ⟨sE 2 [episode1], xM, _, false, 7, 15, 31, rfl, ⟨rfl, rfl, rfl⟩, aloneM, rfl, ⟨.inl (by decide +kernel), rfl, rfl⟩, by decide +kernel, rfl, by decide,
    by decide +kernel⟩

def coll0 : CollCtx := ⟨1, 0, 0, 5, 4, [], []⟩
def sColl : State := { sM with collCtxs := [coll0] }

theorem meets_coll : ∃ s x o b r c bs s2, s.owner? x.w = some o ∧ meetReady s x (.coll b r) ∧ releaseFree s x ∧
    s.collCtx? o.launch.id o.level.die = some c ∧ (s.collOps.filter fun p => p.launch == o.launch.id && p.die == c.die).length < 64 ∧
    s.recordRead (s.agentOf x.w (firstLane x.f.lanes)) (lateWait s x) x.w.s[r] 64 = .ok (bs, s2) := by
  obtain ⟨p, h⟩ := isOk_out (e := sColl.recordRead (sColl.agentOf warpM (firstLane frag0.lanes)) (lateWait sColl xM) warpM.s[(4 : Fin 32)] 64) (by decide +kernel)
  exact ⟨sColl, xM, _, false, 4, coll0, p.1, p.2, rfl, ⟨rfl, rfl, rfl⟩, free0 _ _ rfl rfl, rfl, by decide, h⟩

/-- A bulk operation with its record at address 0x80 of the mapped page. -/
def collOp0 (record : BitVec 512) (out : Option (Nat × Nat)) : CollOpn := ⟨9, 1, 0, 5, 1, record, 0x80#64, 0, 0, out, none, false⟩
def sBulk (o : CollOpn) : State := { sColl with collOps := [o], time := 10000 }

theorem collEnds_meets (o : CollOpn) (h : ((sBulk o).agWrite ((sBulk o).collAgent o) true (o.addr.toNat + 56) (leBytes 8 9)).toBool = true)
    (hc : ∀ t, (sBulk o).agWrite ((sBulk o).collAgent o) true (o.addr.toNat + 56) (leBytes 8 9) = .ok t → t.collCtx? o.launch o.die = some coll0) :
    ∃ t c, (sBulk o).agWrite ((sBulk o).collAgent o) true (o.addr.toNat + 56) (leBytes 8 9) = .ok t ∧ t.collCtx? o.launch o.die = some c ∧
      ∀ d ∈ c.done, c.counter < d := by
  obtain ⟨t, ht⟩ := isOk_out h
  exact ⟨t, coll0, ht, hc t ht, fun _ h => by cases h⟩

theorem meets_collComplete : ∃ s o t c, State.collOp? s (CollOpn.id o) = some o ∧ o.outcome = some (9, 0) ∧
    s.agWrite (s.collAgent o) true (o.addr.toNat + 56) (leBytes 8 9) = .ok t ∧ t.collCtx? o.launch o.die = some c ∧ ∀ d ∈ c.done, c.counter < d := by
  have h : (match (sBulk (collOp0 0 (some (9, 0)))).agWrite ((sBulk (collOp0 0 (some (9, 0)))).collAgent (collOp0 0 (some (9, 0)))) true 0xB8 (leBytes 8 9) with
    | .ok t => t.collCtx? 1 0
    | .error _ => none) = some coll0 := by decide +kernel
  obtain ⟨t, c, h1, h2, h3⟩ := collEnds_meets (collOp0 0 (some (9, 0))) (by decide +kernel) (fun t ht => by
    have ht' : (sBulk (collOp0 0 (some (9, 0)))).agWrite ((sBulk (collOp0 0 (some (9, 0)))).collAgent (collOp0 0 (some (9, 0)))) true 0xB8 (leBytes 8 9)
      = .ok t := ht
    rw [ht'] at h; exact h)
  exact ⟨_, _, t, c, rfl, rfl, h1, h2, h3⟩

theorem meets_collUnknown : ∃ s o, State.collOp? s (CollOpn.id o) = some o ∧ o.outcome = none ∧ recordField o.record 0 1 > 3 :=
  ⟨sBulk (collOp0 4 none), collOp0 4 none, rfl, rfl, by decide +kernel⟩

/-- An operation of two ranks, ALLREDUCE of one N32 element, whose second member is not there. -/
def lonely : BitVec 512 := 0x01060000#512 ||| (1#512 <<< 192)

theorem meets_collSilence : ∃ s o, State.collOp? s (CollOpn.id o) = some o ∧ o.outcome = none ∧ s.collProgress o = none ∧ recordField o.record 0 1 ≠ 2 ∧
    o.since + (max 10 (s.dies[o.die].collTmo).toNat) * 1000 ≤ s.time :=
  ⟨sBulk (collOp0 lonely none), collOp0 lonely none, rfl, rfl, Option.isNone_iff_eq_none.mp (by decide +kernel), by decide +kernel, by decide +kernel⟩

theorem meets_combining : ∃ (r : BitVec 512) (srcs : List (Nat × List Nat)) (i : Nat), recordField r 0 1 = 0 ∧ recordField r 1 1 = 0 ∧
    Ty.ofCode (recordField r 2 1) = .n32 ∧ i < recordField r 24 8 ∧ srcs ≠ [] ∧ ∀ p ∈ srcs, ∀ v ∈ p.2, v < 2 ^ 32 :=
  ⟨lonely, [(0, [0xFFFFFFFF]), (1, [1])], 0, by decide +kernel, by decide +kernel, by decide +kernel, by decide +kernel, by decide, by decide⟩

/-- The warp's own arrival in an episode of two, of which no other warp can be a part. -/
def arrivalH : FragRef × Fin 32 × Mask × Lanes W64 := (⟨0, 0, 5⟩, 0, 0xFFFFFFFF#32, Lanes.all 7)
def episodeH : Episode := ⟨8, 1, 15, some 0, 0, .add, .n32, [arrivalH]⟩
def sLost : State :=
  let l : DieLevel := { level0 with groups := level0.groups.set 15 2 }
  { sH with levels := [l], episodes := [episodeH] }

theorem meets_episodeLost : ∃ s e k a w f, (State.episodes s).find? (fun d => d.launch == e.launch && d.slot == e.slot &&
      (d.span == some k || d.span == none) && s.episodeLost d) = some e ∧ e.arrivals = [a] ∧ s.warp? a.1.core a.1.slot = some w ∧
    w.frag? a.1.uid = some f ∧ f.handler = false ∧ f.pend = [] ∧ w.trapVec ≠ 0 ∧ f.lanes ≠ 0 ∧ s.busy w.core = false :=
  ⟨sLost, episodeH, 0, arrivalH, warpH, frag0, by decide +kernel, rfl, rfl, rfl, rfl, rfl, by decide, by decide, by decide +kernel⟩

/-! ### Tiles, accumulators and the matrix engine -/

/-- Tiles of one BF16 element per line, one line. -/
def tileBf : Tile := { Tile.reset with ctl := 9 }
def coresT : Vector Core 256 :=
  let k : Core := { Core.reset with tiles := Vector.replicate 16 tileBf }
  State.reset.cores.set 0 k
def sTile : State := { sM with cores := coresT }
theorem meetTile (i : Instr) (h : i.wf = true) : meetReady sTile xM i := ⟨rfl, h, rfl⟩
theorem holds7 : holdsTile sTile xM block1 7 7 tileBf := ⟨rfl, rfl, rfl, rfl⟩
theorem trapTile : mayTrap sTile xM := ⟨rfl, by decide, rfl, rfl, by decide⟩

/-- BF16 with 32 rows of 64 elements in s3. -/
def warpCfg : Warp := { warpM with s := warpM.s.set 3 0x7FF9#64 }
def sCfg : State := { sTile with warps := [warpCfg] }

theorem meets_tileRecord : ∃ s x blk n k t b sr, holdsTile s x blk n k t ∧ meetReady s x (.tcfg b n sr) ∧ goodRecord x.w.s[sr] :=
  ⟨sCfg, ⟨cursor1, warpCfg, frag0⟩, block1, 7, 7, tileBf, false, 3, ⟨rfl, rfl, rfl, rfl⟩, ⟨rfl, rfl, rfl⟩, by unfold goodRecord; decide +kernel⟩

theorem meets_tileRecord_refused : ∃ s x blk n k t b sr, holdsTile s x blk n k t ∧ meetReady s x (.tcfg b n sr) ∧ ¬goodRecord x.w.s[sr] ∧ mayTrap s x :=
  ⟨sTile, xM, block1, 7, 7, tileBf, false, 7, holds7, meetTile _ rfl, (fun h => absurd h.1 (by decide +kernel)), trapTile⟩

theorem meets_tileClear : ∃ s x blk n k t b d, holdsTile s x blk n k t ∧ meetReady s x (.tzero b n) ∧ meetReady s x (.mstat b d true) ∧
    s.matrixPending x.w = false :=
  ⟨sTile, xM, block1, 7, 7, tileBf, false, 31, holds7, meetTile _ rfl, meetTile _ rfl, rfl⟩

theorem meets_tileLoad : ∃ s x blk n k t b sr bss u, holdsTile s x blk n k t ∧ meetReady s x (.tld b n sr false) ∧ imageAligned x.w sr false ∧
    readsEach (s.agentOf x.w (firstLane x.f.lanes)) (lateWait s x) (imageRanges x.w sr false t) s bss u := by
  obtain ⟨p, h⟩ := isOk_out (e := sTile.agRead (sTile.agentOf warpM (firstLane frag0.lanes)) (lateWait sTile xM) 0 2) (by decide +kernel)
  refine ⟨sTile, xM, block1, 7, 7, tileBf, false, 4, [p.1], p.2, holds7, meetTile _ rfl, by show _ % 128 = 0; decide +kernel, ?_⟩
  rw [show imageRanges xM.w 4 false tileBf = [(0, 2)] from by decide +kernel]
  exact ⟨p.1, p.2, [], h, ⟨rfl, rfl⟩, rfl⟩

theorem meets_tileStore : ∃ s x blk n k t b sr u, holdsTile s x blk n k t ∧ meetReady s x (.tst b n sr true) ∧ imageAligned x.w sr true ∧
    writesEach (s.agentOf x.w (firstLane x.f.lanes)) (lateWait s x) s (((imageRanges x.w sr true t).map Prod.fst).zip (imageBytes t)) s u := by
  obtain ⟨u, h⟩ := isOk_out (e := sTile.agWrite (sTile.agentOf warpM (firstLane frag0.lanes)) (lateWait sTile xM) 0 [0, 0]) (by decide +kernel)
  refine ⟨sTile, xM, block1, 7, 7, tileBf, false, 30, u, holds7, meetTile _ rfl, by unfold imageAligned; decide +kernel, ?_⟩
  rw [show ((imageRanges xM.w 30 true tileBf).map Prod.fst).zip (imageBytes tileBf) = [(0, [0, 0])] from by decide +kernel]
  exact ⟨⟨u, h⟩, u, h, rfl⟩

theorem meets_audit : ∃ s x blk n k t b d, holdsTile s x blk n k t ∧ meetReady s x (.maudit b d) ∧ s.matrixPending x.w = false ∧
    auditLegal x.w.s[Fin.ofNat 32 (2 * (d : Fin 16).val)] x.w.s[Fin.ofNat 32 (2 * d.val + 1)] :=
  ⟨sTile, xM, block1, 7, 7, tileBf, false, 15, holds7, meetTile _ rfl, rfl, by unfold auditLegal; decide +kernel⟩

theorem meets_audit_refused : ∃ s x blk n k t b d, holdsTile s x blk n k t ∧ meetReady s x (.maudit b d) ∧ s.matrixPending x.w = false ∧
    ¬auditLegal x.w.s[Fin.ofNat 32 (2 * (d : Fin 16).val)] x.w.s[Fin.ofNat 32 (2 * d.val + 1)] ∧ mayTrap s x :=
  ⟨sTile, xM, block1, 7, 7, tileBf, false, 1, holds7, meetTile _ rfl, rfl, by unfold auditLegal; decide +kernel, trapTile⟩
/-- The scene with accumulator 1 in tile mode, and tiles. -/
def warpTM : Warp := { warpM with acc := warpM.acc.set 1 ⟨Lanes.all 0, some tile1⟩, s := warpM.s.set 0 0xFF#64 }
def sTM : State := { sTile with warps := [warpTM] }
def xTM : Focus := ⟨cursor1, warpTM, frag0⟩
theorem togetherTM (i : Instr) (h : i.wf = true) : strandTogether sTM xTM i := ⟨rfl, h, rfl, rfl, by decide, by decide⟩
theorem holdsTM : holdsTile sTM xTM block1 7 7 tileBf := ⟨rfl, rfl, rfl, rfl⟩
theorem strandTM (i : Instr) (h : i.wf = true) : strandReady sTM xTM i none := ⟨rfl, h, .inr rfl⟩

theorem slotTM : slotFor sTM warpTM 2 0 := by
  refine .inr ⟨rfl, ?_, fun j hj => absurd hj (by omega)⟩
  intro u hu _ t ht
  have : u = warpTM := List.mem_singleton.mp hu
  subst this
  cases ht

theorem meets_toTile : ∃ s x k b n, strandTogether s x (.acctTile b k) ∧ slotFor s x.w k n :=
  ⟨sTM, xTM, 2, false, 0, togetherTM _ rfl, slotTM⟩

theorem meets_toTile_again : ∃ s x k b n, strandTogether s x (.acctTile b k) ∧ slotFor s x.w k n ∧ x.w.acc[k].tile.isSome = true :=
  ⟨sTM, xTM, 1, false, 0, togetherTM _ rfl, .inl ⟨tile1, rfl, rfl⟩, rfl⟩

/-- Sixteen further warps that hold the slots of accumulator 2. -/
def holderOf (n : Fin 16) : Warp := { newWarp 0 (n.val + 1) 4 0 0 0 0 0 0 0 with acc := warp0.acc.set 2 ⟨Lanes.all 0, some ⟨n, Vector.replicate 32 (Lanes.all 0)⟩⟩ }
def sHeld : State := { sTM with warps := warpTM :: (List.finRange 16).map holderOf }

theorem meets_toTile_full : ∃ s x k b, strandTogether s x (.acctTile b k) ∧ x.w.acc[k].tile = none ∧ ∀ n, ¬slotFree s x.w k n :=
  ⟨sHeld, xTM, 2, false, ⟨rfl, rfl, rfl, rfl, by decide, by decide⟩, rfl, fun n h => h (holderOf n)
    (List.mem_cons_of_mem _ (List.mem_map.mpr ⟨n, List.mem_finRange n, rfl⟩)) rfl _ rfl rfl⟩

theorem meets_toVector : ∃ s x k b, strandTogether s x (.acctVec b k) := ⟨sTM, xTM, 7, false, togetherTM _ rfl⟩

theorem meets_accLoad : ∃ s x k b n q slot blk t, strandTogether s x (.acctLoad b k n) ∧ holdsTile s x blk n q t ∧
    Ty.ofCode (t.ctl.extractLsb' 0 4).toNat = .bf16 ∧ slotFor s x.w k slot :=
  ⟨sTM, xTM, 2, false, 7, 7, 0, block1, tileBf, togetherTM _ rfl, holdsTM, by decide +kernel, slotTM⟩

theorem meets_accStore : ∃ s x k b n q blk t tl, strandTogether s x (.acctStore b k n) ∧ holdsTile s x blk n q t ∧ x.w.acc[k].tile = some tl ∧
    Ty.ofCode (t.ctl.extractLsb' 0 4).toNat = .bf16 :=
  ⟨sTM, xTM, 1, false, 7, 7, block1, tileBf, tile1, togetherTM _ rfl, holdsTM, rfl, by decide +kernel⟩

theorem meets_vectorRefused : ∃ s x k b d, vectorRefused k (.acctStore b k 7) ∧ vectorRefused k (.tmask b k d 31) ∧
    strandTogether s x (.acctStore b k 7) ∧ strandReady s x (.tmask b k d 31) none ∧ x.w.acc[k].tile = none :=
  ⟨sTM, xTM, 2, false, 7, rfl, rfl, togetherTM _ rfl, strandTM _ rfl, rfl⟩

theorem meets_columns : ∃ s x k tl b, x.w.acc[k].tile = some tl ∧ strandReady s x (.acctRmax b k) none ∧ strandReady s x (.acctRsum b k) none ∧
    strandReady s x (.acctRcol b k 31) none ∧ strandReady s x (.acctWcol b k 31) none :=
  ⟨sTM, xTM, 1, tile1, false, rfl, strandTM _ rfl, strandTM _ rfl, strandTM _ rfl, strandTM _ rfl⟩

theorem meets_treeMask : ∃ s x k tl b d, x.w.acc[k].tile = some tl ∧ strandReady s x (.tmask b k d 0) none ∧
    ∀ j ≤ (0 : Fin 32).val, parentByte x.w d j = 0xFF ∨ parentByte x.w d j < j :=
  ⟨sTM, xTM, 1, tile1, false, 0, rfl, strandTM _ rfl, fun j hj => by
    have : j = 0 := Nat.le_zero.mp hj
    subst this
    exact .inl (by decide +kernel)⟩

theorem meets_treeMask_refused : ∃ s x k tl b d, x.w.acc[k].tile = some tl ∧ strandReady s x (.tmask b k d 31) none ∧
    ∃ j ≤ (31 : Fin 32).val, parentByte x.w d j ≠ 0xFF ∧ j ≤ parentByte x.w d j :=
  ⟨sTM, xTM, 1, tile1, false, 7, rfl, strandTM _ rfl, 0, by decide, by decide +kernel, Nat.zero_le _⟩

def operands0 : Operands := ⟨⟨64, 1, 1, 0⟩, [tileBf], [tileBf]⟩

theorem meets_step : ∃ s x blk o ta tb k n b z, s.block? x.w.block = some blk ∧ s.operands blk (ta : Fin 16).val (tb : Fin 16).val = .ok o ∧
    s.warpLoops x.w = false ∧ s.tilesBusy blk (s.spans blk ta.val tb.val) = false ∧ slotFor s x.w k n ∧ strandTogether s x (.mma b k ta tb z) ∧
    o.masksOk = true ∧ s.engineTaken x = false ∧ auditOff x.w :=
  ⟨sTM, xTM, block1, operands0, 0, 7, 2, 0, false, true, rfl, rfl, rfl, rfl, slotTM, togetherTM _ rfl, rfl, rfl, .inl (by decide)⟩

/-- Every fourth step is audited, the next one among them; the ring stands at address 0, or beyond the mapped page. -/
def warpAud (ring : W64) : Warp := { warpTM with mxAudCfg := 4, mxAudRing := ring, mxSteps := 15 }
def sAud (ring : W64) : State := { sTM with warps := [warpAud ring] }

theorem slotAud (ring : W64) : slotFor (sAud ring) (warpAud ring) 2 0 := by
  refine .inr ⟨rfl, ?_, fun j hj => absurd hj (by omega)⟩
  intro u hu _ t ht
  have : u = warpAud ring := List.mem_singleton.mp hu
  subst this
  cases ht

theorem auditOn (ring : W64) : ¬auditOff (warpAud ring) := by
  rintro (h | h)
  · exact absurd (show (4 : W64).extractLsb' 0 5 = 0 from h) (by decide)
  · exact h (by show (15 + 1 : W64).toNat % 2 ^ ((4 : W64).extractLsb' 0 5).toNat = 0; decide)

/-- The entry that the audited step writes. -/
def entryAud (ring : W64) : List Byte :=
  auditEntry operands0 0 16 2 false ⟨0, columns (startCol (warpAud ring) 2 true)⟩
    ⟨0, columns fun l c => BitVec.ofNat 32 (stepElem operands0 0 (startCol (warpAud ring) 2 true) l c).bits⟩

theorem meets_step_audited : ∃ s x b u, s.operands block1 0 7 = .ok operands0 ∧ slotFor s x.w 2 0 ∧ strandTogether s x (.mma b 2 0 7 true) ∧
    operands0.masksOk = true ∧ s.engineTaken x = false ∧ ¬auditOff x.w ∧ s.agWrite (s.agentOf x.w 0) true (auditAt x.w) (entryAud 0) = .ok u := by
  obtain ⟨u, h⟩ := isOk_out (e := (sAud 0).agWrite ((sAud 0).agentOf (warpAud 0) 0) true (auditAt (warpAud 0)) (entryAud 0)) (by decide +kernel)
  exact ⟨sAud 0, ⟨cursor1, warpAud 0, frag0⟩, false, u, rfl, slotAud 0, ⟨rfl, rfl, rfl, rfl, by decide, by decide⟩, rfl, rfl, auditOn 0, h⟩

theorem meets_step_audit_lost : ∃ s x b, slotFor s x.w 2 0 ∧ strandTogether s x (.mma b 2 0 7 true) ∧ s.engineTaken x = false ∧
    ¬auditOff x.w ∧ (s.agWrite (s.agentOf x.w 0) true (auditAt x.w) (entryAud 0x4000000#64)).toBool = false :=
  ⟨sAud 0x4000000#64, ⟨cursor1, warpAud 0x4000000#64, frag0⟩, false, slotAud _, ⟨rfl, rfl, rfl, rfl, by decide, by decide⟩, rfl, auditOn _, by decide +kernel⟩

/-- A loop that its record continues, at step 1 of 2, at the executing position. -/
def warpResume : Warp := { warpTM with loop := ⟨true, false, 1, 1, 0x8000#56, 0, 0, 0, 2, none⟩ }
def sResume : State := { sTM with warps := [warpResume] }

theorem meets_loop_resumes : ∃ s x b ta tb d z, strandTogether s x (.mloop b 1 ta tb d z) ∧ x.w.resumes x.c.pos 1 = true ∧ s.warpLoops x.w = false ∧
    slotFor s x.w 1 0 ∧ (x.w.loop.cnt.extractLsb' 0 32).toNat - x.w.loop.step ≠ 0 :=
  ⟨sResume, ⟨cursor1, warpResume, frag0⟩, false, 0, 7, 7, false, ⟨rfl, rfl, rfl, rfl, by decide, by decide⟩, rfl, rfl, .inl ⟨tile1, rfl, rfl⟩,
    by decide +kernel⟩

theorem meets_loop_none : ∃ s x ow b k ta tb d z, strandTogether s x (.mloop b k ta tb d z) ∧ s.owner? x.w = some ow ∧
    x.w.resumes x.c.pos k = false ∧ (x.w.s[Fin.ofNat 32 (4 * (d : Fin 8).val + 3)]) = 0 :=
  ⟨sTM, xTM, _, false, 2, 0, 7, 7, false, togetherTM _ rfl, rfl, rfl, by decide +kernel⟩

/-- The descriptor of a loop of two steps in s24 to s27. -/
def warpLoop : Warp := { warpTM with s := warpTM.s.set 27 2 }
def sLoop : State := { sTM with warps := [warpLoop] }

theorem meets_loop : ∃ s x ow blk o b k n ta tb d z, strandTogether s x (.mpair b k ta tb d z) ∧ s.owner? x.w = some ow ∧ ow.block = blk ∧
    ow.launch.depth ≠ 0 ∧ s.operands blk (ta : Fin 16).val (tb : Fin 16).val = .ok o ∧ s.warpLoops x.w = false ∧
    s.tilesBusy blk (s.spans blk ta.val tb.val) = false ∧ slotFor s x.w k n ∧ x.w.resumes x.c.pos k = false ∧
    (x.w.s[Fin.ofNat 32 (4 * (d : Fin 8).val + 3)]).extractLsb' 48 16 = 0 ∧
    (x.w.s[Fin.ofNat 32 (4 * d.val + 3)]).extractLsb' 32 16 = 0 ∧ (x.w.s[Fin.ofNat 32 (4 * d.val + 3)]).extractLsb' 0 32 ≠ 0 :=
  ⟨sLoop, ⟨cursor1, warpLoop, frag0⟩, _, block1, operands0, false, 1, 0, 0, 7, 6, true, ⟨rfl, rfl, rfl, rfl, by decide, by decide⟩, rfl, rfl, by decide, rfl, rfl,
    rfl, .inl ⟨tile1, rfl, rfl⟩, rfl, by decide +kernel, by decide +kernel, by decide +kernel⟩

/-- A loop under way on accumulator 1, both images at address 0. -/
def loop0 : MatrixOp := ⟨⟨0, 0, 5⟩, 0x8000#56, 0x8002#56, 1, 0, 7, false, none, 0, none⟩
def warpRun (count step : Nat) : Warp :=
  { warpTM with loop := ⟨true, false, 1, step, 0x8000#56, 0, 0, 0, BitVec.ofNat 64 count, none⟩ }
def sRun (count step : Nat) : State := { sTM with warps := [warpRun count step], matrix := [loop0] }
def viewRun (count step : Nat) : LoopView := ⟨loop0, warpRun count step, frag0, block1, operands0⟩

theorem meets_loopStep : ∃ s core m v tl a b s1, State.matrix s = [m] ∧ m.frag.core = (core : Fin 256).val ∧ m.pair = false ∧ m.bond = none ∧
    s.loopView m = some v ∧ s.loopReads v true = .ok (a, b, s1) ∧ ({ v.o with a := a } : Operands).masksOk = true ∧
    v.w.acc[m.acc].tile = some tl ∧ auditOff v.w ∧ v.w.loop.step + 1 < (v.w.loop.cnt.extractLsb' 0 32).toNat := by
  obtain ⟨p, h⟩ := isOk_out (e := (sRun 2 0).loopReads (viewRun 2 0) true) (by decide +kernel)
  exact ⟨sRun 2 0, 0, loop0, viewRun 2 0, tile1, p.1, p.2.1, p.2.2, rfl, rfl, rfl, rfl, rfl, h, rfl, rfl, .inl (by decide), by decide +kernel⟩

theorem meets_loopStep_last : ∃ s core m v tl a b s1, State.matrix s = [m] ∧ m.frag.core = (core : Fin 256).val ∧ m.pair = false ∧ m.bond = none ∧
    s.loopView m = some v ∧ s.loopReads v true = .ok (a, b, s1) ∧ ({ v.o with a := a } : Operands).masksOk = true ∧
    v.w.acc[m.acc].tile = some tl ∧ auditOff v.w ∧ v.w.loop.step + 1 ≥ (v.w.loop.cnt.extractLsb' 0 32).toNat := by
  obtain ⟨p, h⟩ := isOk_out (e := (sRun 2 1).loopReads (viewRun 2 1) true) (by decide +kernel)
  exact ⟨sRun 2 1, 0, loop0, viewRun 2 1, tile1, p.1, p.2.1, p.2.2, rfl, rfl, rfl, rfl, rfl, h, rfl, rfl, .inl (by decide), by decide +kernel⟩

/-- Two matching halves, on the cores of pair 0. -/
def halfA : MatrixOp := { loop0 with pair := true }
def halfB : MatrixOp := ⟨⟨1, 0, 7⟩, 0x8000#56, 0x8002#56, 1, 0, 7, true, none, 0, none⟩
def warpHalf : Warp := { warpCrown with block := 11, acc := warpTM.acc, loop := (warpRun 2 0).loop }
def block11 : Block := { block1 with id := 11, core := 1 }
def coresT2 : Vector Core 256 :=
  let k : Core := { Core.reset with tiles := Vector.replicate 16 tileBf }
  (State.reset.cores.set 0 k).set 1 k
def sHalves : State := { sTM with warps := [warpRun 2 0, warpHalf], blocks := [block1, block11], cores := coresT2, matrix := [halfA, halfB] }

theorem meets_bond : ∃ s pair m q v u, State.matrix s = [m, q] ∧ m.frag.core = 2 * (pair : Fin 128).val ∧ q.frag.core = 2 * pair.val + 1 ∧ m.pair = true ∧
    q.pair = true ∧ m.bond = none ∧ q.bond = none ∧ s.loopView m = some v ∧ s.loopView q = some u ∧ v.blk.gang = u.blk.gang ∧
    v.w.loop.cnt.extractLsb' 32 16 = u.w.loop.cnt.extractLsb' 32 16 ∧ v.w.loop.cnt.extractLsb' 0 32 = u.w.loop.cnt.extractLsb' 0 32 ∧
    v.w.loop.step = u.w.loop.step ∧ v.o.b.map (fun t => t.ctl) = u.o.b.map (fun t => t.ctl) :=
  ⟨sHalves, 0, halfA, halfB, ⟨halfA, warpRun 2 0, frag0, block1, operands0⟩,
    ⟨halfB, warpHalf, Fragment.start 7 256#9 0xFFFFFFFF#32 0x8000#56 0, block11, operands0⟩, rfl, rfl, rfl, rfl, rfl, rfl, rfl, rfl, rfl, rfl, rfl, rfl, rfl, rfl⟩

/-- The halves bonded, both images at address 0. -/
def bondA : MatrixOp := { halfA with bond := some ⟨1, 0, 7⟩ }
def bondB : MatrixOp := { halfB with bond := some ⟨0, 0, 5⟩ }
def sBonded : State := { sHalves with matrix := [bondA, bondB] }
def viewA : LoopView := ⟨bondA, warpRun 2 0, frag0, block1, operands0⟩
def viewB : LoopView := ⟨bondB, warpHalf, Fragment.start 7 256#9 0xFFFFFFFF#32 0x8000#56 0, block11, operands0⟩

theorem meets_pairStep : ∃ s m q v u a1 b1 a2 own s1 s2, State.matrix s = [m, q] ∧ ∃ core : Fin 256, m.frag.core = core.val ∧ core.val % 2 = 0 ∧
    q.frag.core = core.val + 1 ∧ m.bond = some q.frag ∧ q.bond = some m.frag ∧ s.loopView m = some v ∧ s.loopView q = some u ∧
    s.loopReads v true = .ok (a1, b1, s1) ∧ (∃ p, s.loopReads u false = .ok p) ∧ s1.loopReads u false = .ok (a2, own, s2) := by
  obtain ⟨p, h⟩ := isOk_out (e := sBonded.loopReads viewA true) (by decide +kernel)
  have hb : (match sBonded.loopReads viewA true with
    | .ok x => (x.2.2.loopReads viewB false).toBool
    | .error _ => false) = true := by decide +kernel
  rw [h] at hb
  obtain ⟨q, hq⟩ := isOk_out (e := p.2.2.loopReads viewB false) hb
  exact ⟨sBonded, bondA, bondB, viewA, viewB, p.1, p.2.1, q.1, q.2.1, p.2.2, q.2.2, rfl, 0, rfl, rfl, rfl, rfl, rfl, rfl, rfl, h,
    isOk_out (by decide +kernel), hq⟩

def sLate : State :=
  let g : CoreGroup := { CoreGroup.reset with bondTo := 1 }
  { sRun 2 0 with matrix := [halfA], cgs := State.reset.cgs.set 0 g, time := 1001 }

theorem meets_bondTimeout : ∃ s w m v, State.matrix s = [m] ∧ m.frag.core = WarpRef.core w ∧ m.frag.slot = w.slot ∧ m.pair = true ∧ m.bond = none ∧
    s.loopView m = some v ∧ v.w.loop.step = 0 ∧ (s.cgs[cgOfCore w.core].bondTo).toNat ≠ 0 ∧
    m.since + (s.cgs[cgOfCore w.core].bondTo).toNat * 1000 < s.time :=
  ⟨sLate, ⟨0, 0⟩, halfA, ⟨halfA, warpRun 2 0, frag0, block1, operands0⟩, rfl, rfl, rfl, rfl, rfl, rfl, rfl, by decide, by decide⟩

/-! ### Requests, cores, core groups, pairs -/

/-- A remote request of lane 31, for 8 bytes at 0x40 of the mapped page. -/
def req0 (k : AccKind) (p : ReqPhase) : Req :=
  { id := 9, frag := ⟨0, 0, 5⟩, pos := 0x8000#56, lane := 31, kind := k, asid := 1, va := 0x40, size := 8, data := 7, remote := true, lost := false
    phase := p, idx := 0, count := 1, readers := [], answered := false, issuedAt := 0, acceptedAt := 0 }
def sReq (r : Req) : State := { sM with reqs := [r], forwards := [⟨false, 9, 0, 0x80040, 7⟩], time := 2000000 }

def sReqNow (r : Req) : State := { sReq r with time := 0 }

theorem meets_homeAccess : ∃ s r, State.req? s (Req.id r) = some r ∧ r.phase = .issued ∧ r.lost = false ∧ reachable s r ∧ reqAlone s r ∧
    r.remote = true ∧ r.kind = .load :=
  ⟨sReq (req0 .load .issued), req0 .load .issued, rfl, rfl, rfl, by unfold reachable; decide +kernel, ⟨by decide +kernel, rfl⟩, rfl, rfl⟩

theorem meets_homeAccess_local : ∃ s r, State.req? s (Req.id r) = some r ∧ r.phase = .issued ∧ r.lost = false ∧ reachable s r ∧ reqAlone s r ∧
    r.remote = false ∧ r.kind = .storeE :=
  let r := { req0 .storeE .issued with remote := false }
  ⟨sReq r, r, rfl, rfl, rfl, by unfold reachable; decide +kernel, ⟨by decide +kernel, rfl⟩, rfl, rfl⟩

theorem meets_homeAccess_stnt : ∃ s r u v n, State.req? s (Req.id r) = some r ∧ r.phase = .issued ∧ r.lost = false ∧ reachable s r ∧ reqAlone s r ∧
    r.kind = .stnt ∧ s.performAt (s.reqAgent r) r.kind (.glob r.va.toNat) r.base r.size r.data s.choice.stale = (u, .value v n) :=
  ⟨sReq (req0 .stnt .issued), req0 .stnt .issued, _, 0, 0, rfl, rfl, rfl, by unfold reachable; decide +kernel, ⟨by decide +kernel, rfl⟩, rfl,
    performed_value (by decide +kernel)⟩

theorem meets_globalPoint : ∃ s r, State.req? s (Req.id r) = some r ∧ r.phase = .accepted ∧ r.lost = false ∧ reachable s r ∧ s.mem.wf = true ∧
    ∀ f ∈ s.forwards, f.req ≠ r.id → ∀ g ∈ s.forwards, g.req = r.id → f.pa ≠ g.pa :=
  ⟨sReq (req0 .storeE .accepted), req0 .storeE .accepted, rfl, rfl, rfl, by unfold reachable; decide +kernel, by decide +kernel, by decide⟩

/-- An .E store accepted before another to the same byte, which reaches its global point. -/
def sChain : State :=
  { sReq (req0 .storeE .accepted) with
    reqs := [req0 .storeE .accepted, { req0 .storeE .accepted with id := 8 }], forwards := [⟨false, 8, 0, 0x80040, 6⟩, ⟨false, 9, 0, 0x80040, 7⟩] }

theorem meets_globalPoint_chain : ∃ s r f l2, State.req? s (Req.id r) = some r ∧ r.phase = .accepted ∧ r.lost = false ∧ reachable s r ∧ s.mem.wf = true ∧
    s.forwards = [] ++ f :: l2 ∧ f.req ≠ r.id ∧ (s.req? f.req).isSome = true ∧ f.die = dieOfCore r.frag.core ∧
    ∃ g ∈ l2, g.req = r.id ∧ g.die = f.die ∧ g.pa = f.pa :=
  ⟨sChain, req0 .storeE .accepted, ⟨false, 8, 0, 0x80040, 6⟩, [⟨false, 9, 0, 0x80040, 7⟩], rfl, rfl, rfl, by unfold reachable; decide +kernel, by decide +kernel,
    rfl, by decide, rfl, rfl, _, List.mem_singleton.mpr rfl, rfl, rfl, rfl⟩

theorem meets_response : ∃ s r a, State.req? s (Req.id r) = some r ∧ r.phase = .performed a ∧ r.lost = false ∧ r.remote = true ∧
    s.time < r.issuedAt + ackTime s ∧ r.kind = .load ∧ r.count = 1 :=
  ⟨sReqNow (req0 .load (.performed (.value 7 0))), req0 .load (.performed (.value 7 0)), _, rfl, rfl, rfl, rfl, by decide, rfl, rfl⟩

theorem meets_acceptance : ∃ s r v n, State.req? s (Req.id r) = some r ∧ r.phase = .performed (.value v n) ∧ r.lost = false ∧ r.remote = true ∧
    s.time < r.issuedAt + ackTime s ∧ r.kind = .storeE ∧ r.answered = false ∧ s.forwards.any (fun f => f.req == r.id) = true :=
  ⟨sReqNow (req0 .storeE (.performed (.value 0 0))), req0 .storeE (.performed (.value 0 0)), _, _, rfl, rfl, rfl, rfl, by decide, rfl, rfl, rfl⟩

theorem meets_acknowledgement : ∃ s r a, State.req? s (Req.id r) = some r ∧ r.phase = .performed a ∧ r.lost = false ∧ r.remote = true ∧
    s.time < r.issuedAt + ackTime s ∧ r.kind = .store :=
  ⟨sReqNow (req0 .store (.performed (.value 0 0))), req0 .store (.performed (.value 0 0)), _, rfl, rfl, rfl, rfl, by decide, rfl⟩

theorem meets_acknowledgement_global : ∃ s r, State.req? s (Req.id r) = some r ∧ r.phase = .global ∧ r.lost = false ∧ r.remote = true ∧
    s.time < r.acceptedAt + ackTime s :=
  ⟨sReqNow (req0 .storeE .global), req0 .storeE .global, rfl, rfl, rfl, rfl, by decide⟩

theorem meets_ackTimeout : ∃ s r, State.req? s (Req.id r) = some r ∧ r.remote = true ∧ r.answered = false ∧ r.issuedAt + ackTime s ≤ s.time ∧ r.kind = .load :=
  ⟨sReq (req0 .load .issued), req0 .load .issued, rfl, rfl, rfl, by decide, rfl⟩

theorem meets_ackTimeout_store : ∃ s r, State.req? s (Req.id r) = some r ∧ r.remote = true ∧ r.answered = false ∧ r.issuedAt + ackTime s ≤ s.time ∧
    r.kind = .store ∧ r.phase = .issued :=
  ⟨sReq (req0 .store .issued), req0 .store .issued, rfl, rfl, rfl, by decide, rfl, rfl⟩

theorem meets_ackLoss : ∃ s r w f, State.req? s (Req.id r) = some r ∧ r.phase = .global ∧ r.acceptedAt + ackTime s ≤ s.time ∧
    s.warp? r.frag.core r.frag.slot = some w ∧ w.frags.find? (fun g => inMask g.lanes r.lane) = some f ∧ f.lostAcks[r.lane] = none :=
  ⟨sReq (req0 .storeE .global), req0 .storeE .global, warpM, frag0, rfl, rfl, by decide, rfl, rfl, rfl⟩

/-! ### What a core does by itself -/

/-- The state of a result, or another. -/
def stateOf {ε : Type} (e : Except ε State) (d : State) : State :=
  match e with
  | .ok t => t
  | .error _ => d

theorem stateOf_ok {ε : Type} {e : Except ε State} (d : State) (h : e.toBool = true) : e = .ok (stateOf e d) := by
  obtain ⟨a, rfl⟩ := isOk_out h
  rfl

def fragP : Fragment := { frag0 with trapPending := true, status := .ready }
def warpP : Warp := { warpM with frags := [fragP] }

theorem meets_handlerEntry : ∃ s r w f, State.warp? s (FragRef.core r) r.slot = some w ∧ w.frag? r.uid = some f ∧ f.trapPending = true ∧
    s.busy w.core = false ∧ w.preTaken = false ∧
    (∀ v ∈ s.warps, cgOfCore v.core = cgOfCore w.core → ∀ g ∈ v.frags, g.trapPending = true → f.arrivedAt ≤ g.arrivedAt) ∧ w.trapVec ≠ 0 :=
  ⟨{ sM with warps := [warpP] }, ⟨0, 0, 5⟩, warpP, fragP, rfl, rfl, rfl, rfl, rfl, (fun _ _ _ _ _ _ => Nat.zero_le _), by decide⟩

def warpDef : Warp := { warpM with frags := [fragW], deferred := [⟨1, 0x9000#56, ⟨0, 0, 0⟩, Lanes.all none, []⟩] }

theorem meets_deferredPop : ∃ s q w d rest e, State.warp? s (WarpRef.core q) q.slot = some w ∧ w.deferred = d :: rest ∧ w.preTaken = false ∧
    s.entryless q.core = none ∧ (∀ v ∈ s.warps, v.core = q.core → v.slot < q.slot → v.deferred = []) ∧ s.freeEntry? q.core = some e :=
  ⟨{ sM with warps := [warpDef] }, ⟨0, 0⟩, warpDef, _, _, 0, rfl, rfl, rfl, by decide +kernel, (fun _ _ _ h => absurd h (Nat.not_lt_zero _)), by decide +kernel⟩

/-- All entries of the pool are held by fragments that wait. -/
def fragHeld (n : Nat) : Fragment := { Fragment.start n (BitVec.ofNat 9 n) 0 0x9000#56 0 with status := .parked }
def warpFull : Warp := { warpM with frags := (List.range 192).map fragHeld, deferred := warpDef.deferred }

theorem meets_deferredPop_noEntry : ∃ s q w d rest, State.warp? s (WarpRef.core q) q.slot = some w ∧ w.deferred = d :: rest ∧ w.preTaken = false ∧
    s.freeEntry? q.core = none ∧ ∀ f ∈ w.frags, s.isReady w f = false :=
  ⟨{ sM with warps := [warpFull] }, ⟨0, 0⟩, warpFull, _, _, rfl, rfl, rfl, by decide +kernel, by decide +kernel⟩

def due0 : DueRecord := ⟨0x40, 1, 0, 1, 8, 0⟩
def fragDue : Fragment := { frag0 with status := .parked, due := [due0] }
def sDue : State := { sM with warps := [{ warpM with frags := [fragDue] }] }
def sDue1 : State := stateOf (sDue.writeVa 1 0 (faultBytes due0 0 0 256#9 0)) sDue
def sDue2 : State := stateOf (sDue1.writeVa 1 24 (leBytes 8 1)) sDue1
def sDue3 : State := stateOf (sDue2.writeVa 1 32 (leBytes 8 1)) sDue2

theorem meets_ringRecord : ∃ s asid a w f r rest t, State.space? s (asid : BitVec 16).toNat = some a ∧ s.nextDue asid.toNat = some (w, f) ∧ f.due = r :: rest ∧
    ringWritten s asid.toNat a.ring a.ringSeq 32 (faultBytes r w.core w.slot f.entry a.ringSeq) t :=
  ⟨sDue, 1, space0, { warpM with frags := [fragDue] }, fragDue, due0, [], sDue3, rfl, by decide +kernel, rfl,
    0, 0, 0, sDue1, sDue2, by decide +kernel, by decide +kernel, by decide +kernel, by decide, stateOf_ok _ (by decide +kernel),
    stateOf_ok _ (by decide +kernel), stateOf_ok _ (by decide +kernel)⟩

/-- A fragment at word 0x10, whose word stands in the mapped page and in no code store. -/
def fragFill : Fragment := Fragment.start 5 256#9 0xFFFFFFFF#32 0x20#56 0
def warpFill : Warp := { warpM with frags := [fragFill] }
def sFill : State := { sM with warps := [warpFill], objects := [{ object0 with code := 0x40, kernels := [{ kernel0 with first := 0, words := 1 }] }] }

theorem meets_codeFill : ∃ s r w f wa x bs t, State.warp? s (FragRef.core r) r.slot = some w ∧ w.frag? r.uid = some f ∧ f.status = .ready ∧
    s.fetchOf w f = .missing wa ∧ s.executable (s.asidOf w) (wa * 4) = true ∧
    s.serves (dieOfCore w.core).val ((s.homeOf (some (cgOfCore w.core)) (s.asidOf w) (wa * 4)).getD (dieOfCore w.core).val) = true ∧
    s.fetchXlate (cgOfCore w.core) (s.asidOf w) (wa * 4) = .ok x ∧
    ((s.noteRegion (some (cgOfCore w.core)) (s.asidOf w) (wa * 4)).useXlate (s.asidOf w) (wa * 4) .fetch x).mem.poisoned x.pa 4 = false ∧
    ((s.noteRegion (some (cgOfCore w.core)) (s.asidOf w) (wa * 4)).useXlate (s.asidOf w) (wa * 4) .fetch x).bytesFor (some (dieOfCore w.core)) x.pa 4
      = (bs, t) :=
  ⟨sFill, ⟨0, 0, 5⟩, warpFill, fragFill, 0x10, ⟨0x80040, 0, 0x4000000000040000#64, 0xF000000000080003#64, 0x40000⟩, _, _, rfl, rfl, rfl, by decide +kernel,
    by decide +kernel, by decide +kernel, by decide +kernel, by decide +kernel, rfl⟩

theorem meets_codeFill_never : ∃ s r w f wa, State.warp? s (FragRef.core r) r.slot = some w ∧ w.frag? r.uid = some f ∧ s.fetchOf w f = .missing wa ∧
    s.executable (s.asidOf w) (wa * 4) = false :=
  ⟨{ sM with warps := [warpFill] }, ⟨0, 0, 5⟩, warpFill, fragFill, 0x10, rfl, rfl, by decide +kernel, rfl⟩

def sRatio (p : LrPhase) : State :=
  let g : CoreGroup := { CoreGroup.reset with phase := some p }
  { s0 with cgs := State.reset.cgs.set 63 g, time := 5000 }

theorem meets_ratio : ∃ s cg s' due, ((State.cgs s)[(cg : Fin 64)]).phase = some .drain ∧ s.drained cg = true ∧
    ((State.cgs s')[cg]).phase = some (.relock due) ∧ due ≤ s'.time :=
  ⟨sRatio .drain, 63, sRatio (.relock 5000), 5000, rfl, by decide +kernel, rfl, Nat.le_refl _⟩

/-- A FIFO bank with a push or a pop of lane 0 that waits. -/
def fifoBank (q : List W32) (pushes pops : List FifoWait) : Bank := { Bank.reset with mode := .fifo, holder := some (.block 4), fifo := q, pushes := pushes, pops := pops }

theorem meets_fifoPush : ∃ k p rest ws, Bank.pushes k = p :: rest ∧ p.push = some ws ∧ k.fifo.length + ws.length ≤ 16384 ∧
    (withBank0 k).cores[0].banks[0] = k :=
  ⟨fifoBank [1] [⟨⟨0, 0, 5⟩, 0x8000#56, 1, some [7], [0]⟩] [], _, _, _, rfl, rfl, by decide, rfl⟩

theorem meets_fifoPop : ∃ k p rest, Bank.pushes k = [] ∧ k.pops = p :: rest ∧ (lanesOf p.lanes).length ≤ k.fifo.length ∧
    p.addrs.length = (lanesOf p.lanes).length ∧
    (∀ j < (lanesOf p.lanes).length, (withBank0 k).badUnit (.bank 0 0 (4 * ((k.head + j) % 16384))) = false) ∧ (withBank0 k).cores[0].banks[0] = k :=
  ⟨fifoBank [1] [] [⟨⟨0, 0, 5⟩, 0x8000#56, 1, none, [0]⟩], _, _, rfl, rfl, by decide +kernel, by decide +kernel, fun _ _ => rfl, rfl⟩

theorem meets_fifoIdle : ∃ (k : Bank), k.pushes = [] ∧ k.pops = [] ∧ (withBank0 k).cores[0].banks[0] = k := ⟨fifoBank [1] [] [], rfl, rfl, rfl⟩

def vpush0 : VPush := ⟨⟨0, 0, 5⟩, 0x8000#56, 1, [Lanes.all 1]⟩

theorem meets_pushAdmit : ∃ s pair v rest, ((State.pairs s)[(pair : Fin 128)]).waits = v :: rest ∧ s.admits (2 * pair.val) v.entries.length = true :=
  ⟨setPair sH { pair1 with waits := [vpush0], fifo := List.replicate 15 (Lanes.all 0) }, 0, vpush0, [], rfl, by decide +kernel⟩

theorem meets_gate : ∃ s pair, ((State.pairs s)[(pair : Fin 128)]).gate = .pending ∧ (s.pairs[pair]).fifo = [] ∧ (∀ w ∈ s.warps, w.core ≠ 2 * pair.val + 1) ∧
    (s.pairs[pair]).waits = [] ∧ s.matrix = [] ∧ (∀ k : Fin 12, ((s.cores[coreFin (2 * pair.val + 1)]).banks[k]).pushes = [] ∧
      ((s.cores[coreFin (2 * pair.val + 1)]).banks[k]).pops = []) :=
  ⟨setPair sH { pair1 with gate := .pending }, 0, rfl, rfl, by decide, rfl, rfl, by decide +kernel⟩

theorem meets_wake : ∃ s pair, ((State.pairs s)[(pair : Fin 128)]).gate = .waking ∧ (∀ k : Fin 12, ((s.cores[coreFin (2 * pair.val + 1)]).banks[k]).pushes = [] ∧
      ((s.cores[coreFin (2 * pair.val + 1)]).banks[k]).pops = []) :=
  ⟨setPair sH { pair1 with gate := .waking }, 0, rfl, by decide +kernel⟩

/-! ### Queue records -/

/-- A record from its bytes that are not zero. -/
def record (l : List (Nat × Nat)) : Rec256 := BitVec.ofNat 2048 (l.foldl (fun n p => n + p.2 * 2 ^ (8 * p.1)) 0)

/-- Queue 0 with one record at the head of its ring, which stands at 0x4000 of the mapped page. -/
def queue1 : Queue := { queue0 with tail := 1 }
def sRec (l : List Host.Cell) : State :=
  { sM with mem := { sM.mem with cells := tables ++ l.map fun p => (0x84000 + p.1, p.2) }, queues := [queue1], warps := [], launches := [], blocks := [], gangs := []
            levels := [] }
def readRec (l : List Host.Cell) : Except (Nat × Nat) (List Byte × State) := (sRec l).readVa none 1 0x4000 256
def outOf {ε α : Type} (e : Except ε α) (d : α) : α :=
  match e with
  | .ok a => a
  | .error _ => d

theorem outOf_ok {ε α : Type} {e : Except ε α} {a d : α} (h : e = .ok a) : outOf e d = a := by
  subst h
  rfl

def gotRec (l : List Host.Cell) : List Byte × State := outOf (readRec l) ([], sRec l)
def recAt (l : List Host.Cell) : Rec256 := recOfBytes (gotRec l).1

theorem slot1 : queue1.ring.toNat + 256 * (queue1.head % 2 ^ queue1.log2n) = 0x4000 := by decide
theorem asid1 : queue1.asid = 1 := rfl

theorem headRec (l : List Host.Cell) (h : (readRec l).toBool = true) : headIs (sRec l) queue1 1 (recAt l) (gotRec l).2 := by
  obtain ⟨p, hp⟩ := isOk_out h
  have h1 : gotRec l = p := outOf_ok hp
  refine ⟨rfl, rfl, ⟨0, rfl⟩, rfl, by decide, by decide, p.1, ?_, ?_⟩
  · rw [h1, slot1, asid1]; unfold readRec at hp; rw [hp]
  · rw [recAt, h1]

theorem meets_nopRecord : ∃ s q n r t, headIs s q n r t ∧ recField r 0 1 = 0 ∧ noDeps r ∧ ∀ o ∈ s.pendingOps, o.id ≠ s.nextId :=
  ⟨_, _, _, _, _, headRec [] (by decide +kernel), by decide +kernel, ⟨by decide +kernel, by decide +kernel⟩, fun _ h => by cases h⟩

theorem meets_admitRecord_refused : ∃ s q n r t d, headIs s q n r t ∧ recField r 0 1 = 2 ∧ minBy id (admitFaults r) = some d :=
  ⟨_, _, _, _, _, 255, headRec [(0, 2), (255, 1)] (by decide +kernel), by decide +kernel, by decide +kernel⟩

theorem meets_admitRecord : ∃ s q n r t, headIs s q n r t ∧ recField r 0 1 = 2 ∧ admitFaults r = [] ∧ noDeps r :=
  ⟨_, _, _, _, _, headRec [(0, 2), (18, 1)] (by decide +kernel), by decide +kernel, by decide +kernel, by decide +kernel, by decide +kernel⟩

theorem meets_withdrawRecord_nothing : ∃ s q n r t, headIs s q n r t ∧ recField r 0 1 = 3 ∧ admitFaults r = [] ∧ noDeps r ∧ (∀ o ∈ s.pendingOps, o.id ≠ s.nextId) ∧
    ∀ c ∈ s.objects, ¬(c.asid = q.asid ∧ c.base = recField r 16 8) :=
  ⟨_, _, _, _, _, headRec [(0, 3), (18, 1)] (by decide +kernel), by decide +kernel, by decide +kernel, ⟨by decide +kernel, by decide +kernel⟩,
    (fun _ h => by cases h), fun _ h => by cases h⟩

/-- The same record where the object is admitted and a launch uses it. -/
def withUse (s : State) : State := { s with objects := [object0], launches := [launch0] }
def readUse (l : List Host.Cell) : Except (Nat × Nat) (List Byte × State) := (withUse (sRec l)).readVa none 1 0x4000 256

theorem meets_withdrawRecord : ∃ s q n r t c, headIs s q n r t ∧ recField r 0 1 = 3 ∧ admitFaults r = [] ∧ noDeps r ∧ (∀ o ∈ s.pendingOps, o.id ≠ s.nextId) ∧
    s.objects = [c] ∧ c.asid = q.asid ∧ c.base = recField r 16 8 ∧ c.withdrawing = none ∧ ∃ l ∈ s.launches, l.asid = c.asid ∧ l.obj = c.base := by
  have hb : (match readUse [(0, 3), (18, 1)] with
    | .ok p => p.1
    | .error _ => []) = [3] ++ List.replicate 17 0 ++ [1] ++ List.replicate 237 0 := by decide +kernel
  obtain ⟨p, hp⟩ := isOk_out (e := readUse [(0, 3), (18, 1)]) (by decide +kernel)
  rw [hp] at hb
  refine ⟨withUse (sRec [(0, 3), (18, 1)]), queue1, 1, recOfBytes p.1, p.2, object0, ⟨rfl, rfl, ⟨0, rfl⟩, rfl, by decide, by decide, p.1, hp, rfl⟩, ?_, ?_, ?_,
    (fun _ h => by cases h), rfl, rfl, ?_, rfl, launch0, List.mem_singleton.mpr rfl, rfl, rfl⟩
  all_goals (simp only at hb; rw [hb]; first | decide +kernel | exact ⟨by decide +kernel, by decide +kernel⟩)

/-- The same record where the object is being withdrawn already. -/
def withGone (s : State) : State := { s with objects := [{ object0 with withdrawing := some 4 }] }

theorem meets_withdrawRecord_behind : ∃ s q n r t, headIs s q n r t ∧ recField r 0 1 = 3 ∧ admitFaults r = [] ∧ noDeps r ∧ (∀ o ∈ s.pendingOps, o.id ≠ s.nextId) ∧
    ∃ c ∈ s.objects, c.asid = q.asid ∧ c.base = recField r 16 8 ∧ c.withdrawing ≠ none := by
  have hb : (match (withGone (sRec [(0, 3), (18, 1)])).readVa none 1 0x4000 256 with
    | .ok p => p.1
    | .error _ => []) = [3] ++ List.replicate 17 0 ++ [1] ++ List.replicate 237 0 := by decide +kernel
  obtain ⟨p, hp⟩ := isOk_out (e := (withGone (sRec [(0, 3), (18, 1)])).readVa none 1 0x4000 256) (by decide +kernel)
  rw [hp] at hb
  refine ⟨withGone (sRec [(0, 3), (18, 1)]), queue1, 1, recOfBytes p.1, p.2, ⟨rfl, rfl, ⟨0, rfl⟩, rfl, by decide, by decide, p.1, hp, rfl⟩, ?_, ?_, ?_,
    (fun _ h => by cases h), _, List.mem_singleton.mpr rfl, rfl, ?_, by decide⟩
  all_goals (simp only at hb; rw [hb]; first | decide +kernel | exact ⟨by decide +kernel, by decide +kernel⟩)

theorem meets_unknownRecord : ∃ s q n r t, headIs s q n r t ∧ 4 ≤ recField r 0 1 := ⟨_, _, _, _, _, headRec [(0, 4)] (by decide +kernel), by decide +kernel⟩

theorem meets_kernelRecord_bad : ∃ s q n r t d, headIs s q n r t ∧ recField r 0 1 = 1 ∧ minBy id (recordFaults r) = some d :=
  ⟨_, _, _, _, _, 14, headRec [(0, 1), (14, 1)] (by decide +kernel), by decide +kernel, by decide +kernel⟩

theorem meets_kernelRecord_noObject : ∃ s q n r t, headIs s q n r t ∧ recField r 0 1 = 1 ∧ recordFaults r = [] ∧
    ∀ c ∈ s.objects, ¬(c.asid = q.asid ∧ c.base = recField r 16 8 ∧ c.withdrawing = none) :=
  ⟨_, _, _, _, _, headRec [(0, 1)] (by decide +kernel), by decide +kernel, by decide +kernel, fun _ h => by cases h⟩

/-- A record that asks for one gang of one warp of the admitted kernel of depth GANG. -/
def withKernel (s : State) : State := { s with objects := [{ object0 with kernels := [{ kernel0 with depth := 1 }] }] }
def readKernel : Except (Nat × Nat) (List Byte × State) := (withKernel (sRec [(0, 1), (18, 1)])).readVa none 1 0x4000 256
def gotKernel : List Byte × State := outOf readKernel ([], sRec [])
def takenKernel : Except (Nat × Nat) Launch :=
  (headMoved gotKernel.2 queue1 1).checkKernel { queue1 with seen := 1 } (launchOf 10 queue1 1 (recOfBytes gotKernel.1))

theorem meets_kernelRecord : ∃ s q n r t k, headIs s q n r t ∧ recField r 0 1 = 1 ∧ (headMoved t q n).checkKernel { q with seen := n } (launchOf s.nextId q (q.head + 1) r) = .ok k := by
  have h1 : recField (recOfBytes gotKernel.1) 0 1 = 1 := by decide +kernel
  obtain ⟨k, hk⟩ := isOk_out (e := takenKernel) (by decide +kernel)
  obtain ⟨p, hp⟩ := isOk_out (e := readKernel) (by decide +kernel)
  have hg : gotKernel = p := outOf_ok hp
  unfold takenKernel at hk
  rw [hg] at hk h1
  refine ⟨withKernel (sRec [(0, 1), (18, 1)]), queue1, 1, recOfBytes p.1, p.2, k, ⟨rfl, rfl, ⟨0, rfl⟩, rfl, by decide, by decide, p.1, ?_, rfl⟩, h1, hk⟩
  rw [slot1, asid1]
  unfold readKernel at hp
  rw [hp]

def op9 : PendingOp := ⟨9, ⟨0, 0⟩, 1, .withdraw, [none, none, none, none], 0x10000#64, 0, true⟩
def object9 : CodeObject := { object0 with withdrawing := some 9 }

theorem meets_withdrawal : ∃ s op o c, (State.pendingOps s).find? (fun p => p.id == op && p.started) = some o ∧
    s.objects.find? (fun d => d.withdrawing == some op) = some c ∧ ∀ l ∈ s.launches, ¬(l.asid = c.asid ∧ l.obj = c.base) :=
  ⟨{ sRec [] with pendingOps := [op9], objects := [object9] }, 9, op9, object9, rfl, rfl, fun _ h => by cases h⟩
/-! ### Passes and the device's own events -/

theorem meets_pass_nothing : ∃ s, State.launches s = [] := ⟨sRec [], rfl⟩

/-- One gang of one block of one warp waits for a core group. -/
def launchW : Launch := { launch0 with depth := 1, placed := 0, doneDies := [] }
def sPass (mask : BitVec 16) : State :=
  let k : CodeObject := { object0 with kernels := [{ kernel0 with depth := 1 }] }
  let d : Die := { Die.reset 0 with ready := true, cgMask := mask, ageCfg := 5 }
  { sRec [] with launches := [launchW], objects := [k], dies := State.reset.dies.set 0 d }

theorem waitsPass (m : BitVec 16) : oneWaits (sPass m) 0 launchW iface0 part0 { kernel0 with depth := 1 } 0 := by
  refine ⟨rfl, rfl, (by decide), rfl, rfl, rfl, rfl, (fun c hc _ _ => ?_), rfl, rfl, rfl, rfl, (by decide +kernel), (by decide +kernel), rfl⟩
  rw [List.mem_singleton.mp hc]
  rfl

theorem meets_pass_placed : ∃ s die l i p k d r, oneWaits s die l i p k d ∧
    (passedNow s die).placeAmong l p k ⟨[], []⟩ 0 ((passedNow s die).cgsOn i p d) = some r := by
  obtain ⟨r, h⟩ := some_out (e := (passedNow (sPass 0xFFFF#16) 0).placeAmong launchW part0 { kernel0 with depth := 1 } ⟨[], []⟩ 0
    ((passedNow (sPass 0xFFFF#16) 0).cgsOn iface0 part0 0)) (by decide +kernel)
  exact ⟨sPass 0xFFFF#16, 0, launchW, iface0, part0, _, 0, r, waitsPass _, h⟩

theorem meets_pass_refused : ∃ s die l i p k d, oneWaits s die l i p k d ∧
    (passedNow s die).placeAmong l p k ⟨[], []⟩ 0 ((passedNow s die).cgsOn i p d) = none ∧ l.refusals + 1 < bits (s.dies[die]).ageCfg 15 0 :=
  ⟨sPass 0, 0, launchW, iface0, part0, _, 0, waitsPass _, Option.isNone_iff_eq_none.mp (by decide +kernel), by decide +kernel⟩

/-- The scene at 20 µs, with die 0 charged for one window. -/
def sTime : State :=
  let d : Die := { Die.reset 0 with ready := true, charged := 1 }
  { s0 with time := 20000, dies := State.reset.dies.set 0 d, units := [unit0] }

theorem meets_windows : ∃ s die, State.linkWindow s < s.time / 10000 ∧ (s.dies[(die : Fin 4)]).governed < s.time / 10000 ∧
    (s.dies[die]).governed < (s.dies[die]).charged ∧ (s.dies[die]).ready = true :=
  ⟨sTime, 0, by decide, by decide, by decide, rfl⟩

theorem meets_charge : ∃ s die l, ((State.dies s)[(die : Fin 4)]).charged < s.time / 10000 ∧ (s.dies[die]).ready = true ∧ s.launches = [l] ∧
    s.residents (16 * die.val) = [l] ∧ (∀ v, 0 < v → v < 16 → s.residents (16 * die.val + v) = []) ∧ s.heatOn l (16 * die.val) = 0 :=
  ⟨sTime, 0, launch0, by decide, rfl, rfl, by decide +kernel, fun v h1 h2 => by
    have h : ∀ v : Fin 16, 0 < v.val → sTime.residents (16 * (0 : Fin 4).val + v.val) = [] := by decide +kernel
    exact h ⟨v, h2⟩ h1, by decide +kernel⟩

theorem meets_forcedSave : ∃ s n u t w f, (State.units s).find? (fun x => x.id == n) = some u ∧ u.requested = some t ∧ s.warpsOf u = [w] ∧
    w.preTaken = false ∧ s.busy w.core = false ∧ t + 1000 * max 10 (s.dies[dieOfCore w.core]).preTmo.toNat ≤ s.time ∧
    s.warp? w.core w.slot = some w ∧ w.frags = [f] ∧ f.pend = [] ∧ f.status = .ready :=
  ⟨sTime, 6, unit0, 0, warp0, frag0, rfl, rfl, by decide +kernel, rfl, rfl, by decide, rfl, rfl, rfl, rfl⟩

def sTaken : State := { sTime with warps := [{ warp0 with preTaken := true }] }

theorem meets_contextSave : ∃ s n u l, (State.units s).find? (fun x => x.id == n) = some u ∧ s.launch? u.launch = some l ∧
    s.saveReady (s.partsOf u l) = true ∧ s.recordBad (s.partsOf u l) = false :=
  ⟨sTaken, 6, unit0, launch0, rfl, rfl, by decide +kernel, by decide +kernel⟩

/-- The saved warp's registers hold an uncorrectable error. -/
def sTakenBad : State := { sTaken with mem := { sTaken.mem with poison := [warpUnit 0 0] } }

theorem meets_contextSave_bad : ∃ s n u l, (State.units s).find? (fun x => x.id == n) = some u ∧ s.launch? u.launch = some l ∧
    s.saveReady (s.partsOf u l) = true ∧ s.recordBad (s.partsOf u l) = true :=
  ⟨sTakenBad, 6, unit0, launch0, rfl, rfl, by decide +kernel, by decide +kernel⟩

/-! ### Dies, links, ports -/

def sBoot (b : Boot) : State := { s0 with mgmt := { Mgmt.reset with boot := b } }

theorem meets_dieReady : ∃ s die, ((State.dies s)[(die : Fin 4)]).ready = false ∧ s.mgmt.boot = .running := ⟨sBoot .running, 3, rfl, rfl⟩

def sLink (r : List Req) : State := { sM with links := State.reset.links.set 0 ⟨true, 0⟩, reqs := r }

theorem meets_link : ∃ s k k', ((State.links s)[(k : Fin 4)]).up = true ∧ ((State.links s)[(k' : Fin 4)]).up = false ∧ ∀ r ∈ s.reqs, r.kind ≠ .storeE :=
  ⟨sLink [req0 .load .issued], 0, 3, rfl, rfl, fun r h => by rw [List.mem_singleton.mp h]; decide⟩

theorem meets_link_global : ∃ s k r, State.reqs s = [r] ∧ r.kind = .storeE ∧ r.phase = .global ∧ (s.links[(k : Fin 4)]).up = true :=
  ⟨sLink [req0 .storeE .global], 0, req0 .storeE .global, rfl, rfl, rfl, rfl⟩

def sPort : State :=
  let d : Die := { Die.reset 0 with ready := true, ports := (Die.reset 0).ports.set 31 ⟨true, 1, 2, false⟩ }
  { sM with dies := State.reset.dies.set 0 d }

theorem meets_port : ∃ s die n, (((State.dies s)[(die : Fin 4)]).ports[(n : Fin 32)]).up = true ∧ (s.dies[die]).ready = true := ⟨sPort, 0, 31, rfl, rfl⟩

/-! ### The host -/

theorem meets_bar : ∃ s vi off off' n i a bs t, State.iface? s (vi : Fin 64).val = some i ∧ i.barAsid = some a ∧
    s.readVa none a (off : BitVec 40).toNat n = .ok (bs, t) ∧ (∃ e, s.readVa none a (off' : BitVec 40).toNat n = .error e) ∧
    (∃ u, s.writeVa a off.toNat bs = .ok u) ∧ ∃ e, s.writeVa a off'.toNat bs = .error e := by
  have hr : sM.readVa none 1 (0xFFFE#40).toNat 2 = .ok ((outOf (sM.readVa none 1 (0xFFFE#40).toNat 2) ([], sM)).1,
      (outOf (sM.readVa none 1 (0xFFFE#40).toNat 2) ([], sM)).2) := by
    obtain ⟨p, h⟩ := isOk_out (e := sM.readVa none 1 (0xFFFE#40).toNat 2) (by decide +kernel)
    rw [outOf_ok h, h]
  have hb : (outOf (sM.readVa none 1 (0xFFFE#40).toNat 2) ([], sM)).1 = [0, 0] := by decide +kernel
  rw [hb] at hr
  have bad : ∀ {α : Type} {e : Except (Nat × Nat) α}, e.toBool = false → ∃ x, e = .error x := by
    intro α e h
    cases e with
    | ok _ => cases h
    | error x => exact ⟨x, rfl⟩
  exact ⟨sM, 0, 0xFFFE#40, 0x10000#40, 2, iface0, 1, _, _, rfl, rfl, hr, bad (by decide +kernel), isOk_out (by decide +kernel), bad (by decide +kernel)⟩

theorem meets_bar_none : ∃ s vi vi', State.iface? s (vi : Fin 64).val = none ∧ ∃ i, { sM with ifaces := [{ iface0 with barAsid := none }] }.iface? (vi' : Fin 64).val = some i ∧
    i.barAsid = none :=
  ⟨sM, 63, 0, rfl, _, rfl, rfl⟩

/-- A function with a root page; whether an image verifies is open, so either clause of the push is met. -/
def sPush : State :=
  let f : Function := { Function.reset with root := 0x1000 }
  { sBoot .imageRefused with funcs := State.reset.funcs.set 64 f }

theorem meets_recovery : ∃ s fn, State.mgmt s = (sPush.mgmt) ∧ s.mgmt.boot = .imageRefused ∧ (s.funcs[(fn : Fin 65)]).root ≠ 0 :=
  ⟨sPush, 64, rfl, rfl, by decide⟩

/-- A subscription of function 64 to the power, in slot 63, with its word in the mapped page. -/
def sub0 (threshold : Nat) : Subscription := ⟨63, 2, 0, threshold, 0, 0x40#64, 1, false, 1, 0⟩
def sNotify (threshold : Nat) : State :=
  let f : Function := { Function.reset with subs := [sub0 threshold] }
  { sM with time := 100000, funcs := State.reset.funcs.set 64 f, mgmt := { Mgmt.reset with power := 7 } }

theorem meets_notify_same : ∃ s slot fn b, ((State.funcs s)[(fn : Fin 65)]).subs.find? (fun x => x.slot == (slot : Fin 64).val) = some b ∧
    b.sampled < s.time / (if b.metric = 2 then 100000 else 10000) ∧ aboveAfter b (s.sample b.metric b.object) = b.above :=
  ⟨sNotify 7, 63, 64, sub0 7, rfl, by decide, by decide +kernel⟩

theorem meets_notify_changed : ∃ s slot fn b t, ((State.funcs s)[(fn : Fin 65)]).subs.find? (fun x => x.slot == (slot : Fin 64).val) = some b ∧
    b.sampled < s.time / (if b.metric = 2 then 100000 else 10000) ∧ aboveAfter b (s.sample b.metric b.object) ≠ b.above ∧
    b.word.toNat % 8 = 0 ∧ b.word.toNat < 2 ^ 57 ∧ s.writeVa b.asid b.word.toNat (leBytes 8 (2 ^ 48 + 2 ^ 32 * 7 + 1)) = .ok t :=
  ⟨sNotify 6, 63, 64, sub0 6, _, rfl, by decide, by decide +kernel, by decide, by decide, stateOf_ok (sNotify 6) (by decide +kernel)⟩

theorem meets_supplyLoss : ∃ s s', (State.mgmt s).boot ≠ .halted ∧ s.mgmt.ckptSize = 0 ∧ (State.mgmt s').boot ≠ .halted ∧ s'.mgmt.ckptSize ≠ 0 ∧
    cellsWf s'.hostMem = true :=
  ⟨sBoot .running, { sBoot .running with mgmt := { Mgmt.reset with boot := .running, ckptSize := 208 } }, by decide, rfl, by decide, by decide, rfl⟩

theorem meets_pci : ∃ s s', (State.mgmt s).pciUp = false ∧ (State.mgmt s').pciUp = true :=
  ⟨s0, { s0 with mgmt := { Mgmt.reset with pciUp := true } }, rfl, rfl⟩

/-! ### Management records -/

/-- The bytes that a record's form leaves unnamed are zero. -/
def plainRec (r : Rec256) (kind : Nat) (named : List (Nat × Nat)) : Bool :=
  recField r 0 1 == kind && recField r 1 3 == 0 &&
    (List.range 256).all fun b => b < 8 || named.any (fun x => x.1 ≤ b && b ≤ x.2) || recField r b 1 == 0

theorem wellFormed_of {r : Rec256} {kind : Nat} {named : List (Nat × Nat)} (h : plainRec r kind named = true) : wellFormedRec r kind named := by
  simp only [plainRec, Bool.and_eq_true, beq_iff_eq, List.all_eq_true, List.mem_range, Bool.or_eq_true, decide_eq_true_eq, List.any_eq_true] at h
  refine ⟨h.1.1, h.1.2, fun b h1 h2 h3 => ?_⟩
  rcases h.2 b h2 with (h4 | ⟨x, hx, h4⟩) | h4
  · omega
  · exact absurd h4 (h3 x hx)
  · exact h4

/-- The memory scene with management running. -/
def sG : State := { sM with mgmt := { Mgmt.reset with boot := .running } }

theorem taken {s : State} {r : Rec256} {kind : Nat} {pf : Bool} {named : List (Nat × Nat)} (hb : s.mgmt.boot = .running)
    (h : plainRec r kind named = true) : takenRec s 0 r kind pf named :=
  ⟨.inl hb, wellFormed_of h, .inl rfl, fun _ => rfl⟩

theorem meets_form_bad : ∃ s fn r i kind pf named, RecordForm fn r i kind pf named ∧ managed s ∧ ¬wellFormedRec r kind named :=
  ⟨sG, 64, record [(0, 0x18), (25, 1)], _, _, _, _, .save, .inl rfl, fun h => absurd (h.2.2 25 (by decide) (by decide) (by decide)) (by decide +kernel)⟩

theorem meets_form_denied : ∃ s fn r i kind pf named, RecordForm fn r i kind pf named ∧ managed s ∧ wellFormedRec r kind named ∧ pf = true ∧ fn ≠ 0 :=
  ⟨sG, 1, record [(0, 0x21)], _, _, _, _, .update, .inl rfl, wellFormed_of (by decide +kernel), rfl, by decide⟩

theorem meets_form_disabled : ∃ s fn r i kind pf named, RecordForm fn r i kind pf named ∧ managed s ∧ wellFormedRec r kind named ∧ ¬mayIssue s fn :=
  ⟨sG, 64, record [(0, 0x18)], _, _, _, _, .save, .inl rfl, wellFormed_of (by decide +kernel), fun h => by
    rcases h with h | ⟨vi, i, h1, h2, _⟩
    · exact absurd h (by decide)
    · have : vi = 63 := by omega
      subst this
      cases h2⟩

theorem meets_form_early : ∃ s fn r i kind pf named, RecordForm fn r i kind pf named ∧ ¬managed s :=
  ⟨sBoot .halted, 0, record [(0, 0x18)], _, _, _, _, .save, fun h => by rcases h with h | h <;> cases h⟩

/-- A root page at 0x1000 of host memory: RING at 0x1040 names 0x2000, LOG2N is 0; the slot holds a DEBUG record. -/
def sRoot : State :=
  let f : Function := { Function.reset with root := 0x1000, mqHead := 5 }
  { sG with funcs := State.reset.funcs.set 0 f, hostMem := [(0x1041, 0x20), (0x2000, 0x1E), (0x2008, 1)] }

theorem meets_mqtail : ∃ s fn r i kind pf named v, RecordForm fn r i kind pf named ∧ ((State.funcs s)[(fn : Fin 65)]).root ≠ 0 ∧
    (v : W64).toNat = (s.funcs[fn]).mqHead + 1 ∧ managed s ∧ recField r 0 1 = kind ∧
    r = recOfBytes ((sRoot : State).hostRead (sRoot.hostNum ((s.funcs[fn]).root + 64) 8 + 256 * ((s.funcs[fn]).mqHead % 2 ^ (sRoot.hostNum ((s.funcs[fn]).root + 72) 1 % 32))) 256) ∧
    s = sRoot :=
  ⟨sRoot, 0, recOfBytes (sRoot.hostRead 0x2000 256), _, _, _, _, 6, .debug, by decide, by decide, .inl rfl, by decide +kernel, by decide +kernel, rfl⟩

theorem meets_viconfig : ∃ s fn r, takenRec s fn r 0x10 true [(8, 9), (16, 40), (48, 63)] ∧ recField r 8 1 < 64 ∧ recField r 9 1 < 2 ∧
    recField r 24 8 % 2 ^ 16 = 0 ∧ recField r 32 8 % 2 ^ 16 = 0 ∧ s.viBusy (recField r 8 1) = false ∧
    s.viNoSpace (BitVec.ofNat 64 (recField r 16 8)) (recField r 24 8) (recField r 32 8) (recField r 48 8) (recField r 56 8) = false :=
  ⟨sG, 0, record [(0, 0x10), (8, 63), (9, 1), (16, 0xFF), (34, 0x6B), (35, 0xEE)], taken rfl (by decide +kernel), by decide +kernel, by decide +kernel, by decide +kernel,
    by decide +kernel, by decide +kernel, by decide +kernel⟩

theorem meets_viconfig_busy : ∃ s fn r, takenRec s fn r 0x10 true [(8, 9), (16, 40), (48, 63)] ∧ recField r 8 1 < 64 ∧ recField r 9 1 < 2 ∧
    recField r 24 8 % 2 ^ 16 = 0 ∧ recField r 32 8 % 2 ^ 16 = 0 ∧ s.viBusy (recField r 8 1) = true :=
  ⟨{ sG with units := [unit0] }, 0, record [(0, 0x10)], taken rfl (by decide +kernel), by decide +kernel, by decide +kernel, by decide +kernel,
    by decide +kernel, by decide +kernel⟩

theorem meets_partition : ∃ s fn r i, takenRec s fn r 0x11 true [(8, 13), (16, 31)] ∧ s.iface? (recField r 8 1) = some i ∧ recField r 9 1 < 8 ∧
    recField r 10 1 < 8 ∧ recField r 12 1 < 8 ∧
    ∀ d g, d < 4 → g < 16 → (BitVec.ofNat 64 (recField r 16 8)).getLsbD (16 * d + g) = true → i.cgs.getLsbD (16 * d + g) = true :=
  ⟨sG, 0, record [(0, 0x11), (9, 7), (10, 7), (12, 7), (16, 0xFF)], iface0, taken rfl (by decide +kernel), by decide +kernel, by decide +kernel, by decide +kernel,
    by decide +kernel, fun d g hd hg _ => by
      have h : ∀ (d : Fin 4) (g : Fin 16), iface0.cgs.getLsbD (16 * d.val + g.val) = true := by decide +kernel
      exact h ⟨d, hd⟩ ⟨g, hg⟩⟩

theorem meets_ascreate : ∃ s fn r i, takenRec s fn r 0x12 false [(8, 12), (16, 31)] ∧ actsFor s fn r i ∧ recField r 10 1 < 8 ∧ recField r 11 1 < 2 ∧
    s.space? (recField r 8 2) = none :=
  ⟨sG, 0, record [(0, 0x12), (8, 0xFF), (9, 0xFF), (10, 7), (11, 1)], iface0, taken rfl (by decide +kernel), .inl ⟨rfl, by decide +kernel⟩, by decide +kernel,
    by decide +kernel, by decide +kernel⟩

theorem meets_ascreate_busy : ∃ s fn r i, takenRec s fn r 0x12 false [(8, 12), (16, 31)] ∧ actsFor s fn r i ∧ recField r 10 1 < 8 ∧ recField r 11 1 < 2 ∧
    s.space? (recField r 8 2) ≠ none :=
  ⟨sG, 0, record [(0, 0x12), (8, 1)], iface0, taken rfl (by decide +kernel), .inl ⟨rfl, by decide +kernel⟩, by decide +kernel,
    by decide +kernel, by decide +kernel⟩

theorem meets_asdestroy : ∃ s fn r i a, takenRec s fn r 0x13 false [(8, 9), (12, 12)] ∧ actsFor s fn r i ∧ s.space? (recField r 8 2) = some a ∧ a.vi = i.vi :=
  ⟨sG, 0, record [(0, 0x13), (8, 1)], iface0, space0, taken rfl (by decide +kernel), .inl ⟨rfl, by decide +kernel⟩, by decide +kernel, rfl⟩

theorem meets_asdestroy_none : ∃ s fn r i, takenRec s fn r 0x13 false [(8, 9), (12, 12)] ∧ actsFor s fn r i ∧ s.space? (recField r 8 2) = none :=
  ⟨sG, 0, record [(0, 0x13), (8, 2)], iface0, taken rfl (by decide +kernel), .inl ⟨rfl, by decide +kernel⟩, by decide +kernel⟩

/-- A control block at 0x8000 of the mapped page: ring 0, LOG2N 4. -/
def sBlockQ : State := { sG with mem := { sG.mem with cells := tables ++ [(0x88008, 4)] } }

theorem meets_qreg : ∃ s fn r i a ring n fl, takenRec s fn r 0x14 false [(8, 12), (16, 23)] ∧ actsFor s fn r i ∧ recField r 8 1 < 16 ∧ recField r 9 1 < 8 ∧
    s.space? (recField r 10 2) = some a ∧ a.vi = i.vi ∧ s.part? i.vi (recField r 9 1) ≠ none ∧ s.queue? i.vi (recField r 8 1) = none ∧
    recField r 16 8 % 64 = 0 ∧ s.readNum a.asid (recField r 16 8) 8 = some ring ∧ s.readNum a.asid (recField r 16 8 + 8) 1 = some n ∧
    s.readNum a.asid (recField r 16 8 + 9) 1 = some fl ∧ ring % 256 = 0 ∧ 4 ≤ n ∧ n ≤ 16 :=
  ⟨sBlockQ, 0, record [(0, 0x14), (8, 15), (10, 1), (17, 0x80)], iface0, space0, 0, 4, 0, taken rfl (by decide +kernel), .inl ⟨rfl, by decide +kernel⟩,
    by decide +kernel, by decide +kernel, by decide +kernel, rfl, by decide +kernel, by decide +kernel, by decide +kernel, by decide +kernel, by decide +kernel,
    by decide +kernel, by decide, by decide, by decide⟩

theorem meets_qreg_busy : ∃ s fn r i a, takenRec s fn r 0x14 false [(8, 12), (16, 23)] ∧ actsFor s fn r i ∧ recField r 8 1 < 16 ∧ recField r 9 1 < 8 ∧
    s.space? (recField r 10 2) = some a ∧ a.vi = i.vi ∧ s.part? i.vi (recField r 9 1) ≠ none ∧ s.queue? i.vi (recField r 8 1) ≠ none :=
  ⟨sG, 0, record [(0, 0x14), (10, 1)], iface0, space0, taken rfl (by decide +kernel), .inl ⟨rfl, by decide +kernel⟩,
    by decide +kernel, by decide +kernel, by decide +kernel, rfl, by decide +kernel, by decide +kernel⟩

theorem meets_qunreg_busy : ∃ s fn r i q, takenRec s fn r 0x15 false [(8, 8), (12, 12)] ∧ actsFor s fn r i ∧ s.queue? i.vi (recField r 8 1) = some q ∧
    ∃ l ∈ s.launches, l.queue = ⟨q.vi, q.q⟩ :=
  ⟨sG, 0, record [(0, 0x15)], iface0, queue0, taken rfl (by decide +kernel), .inl ⟨rfl, by decide +kernel⟩, by decide +kernel, launch0,
    List.mem_singleton.mpr rfl, rfl⟩

theorem meets_qunreg : ∃ s fn r i q, takenRec s fn r 0x15 false [(8, 8), (12, 12)] ∧ actsFor s fn r i ∧ s.queue? i.vi (recField r 8 1) = some q ∧
    ∀ l ∈ s.launches, l.queue ≠ ⟨q.vi, q.q⟩ :=
  ⟨{ sG with launches := [] }, 0, record [(0, 0x15)], iface0, queue0, taken rfl (by decide +kernel), .inl ⟨rfl, by decide +kernel⟩, by decide +kernel,
    fun _ h => by cases h⟩

/-- The handle of queue 0 of interface 0 at byte 8, operation 1 at byte 16. -/
def naming (kind : Nat) : Rec256 := record [(0, kind), (15, 0x30), (16, 1)]

theorem meets_save : ∃ s fn r q l u, takenRec s fn r 0x18 false [(8, 24), (28, 31)] ∧ queueOfHandle (recField r 8 8) = some q ∧ fn = 0 ∧
    s.launches.find? (fun x => x.queue == q && x.op == recField r 16 8) = some l ∧
    s.units.find? (fun x => x.launch == l.id && x.kind == recField r 24 1 && x.gangs.any fun n => (s.gang? n).any fun g => g.index == recField r 28 4) = some u :=
  ⟨{ sG with units := [unit0] }, 0, naming 0x18, ⟨0, 0⟩, launch0, unit0, taken rfl (by decide +kernel), by decide +kernel, rfl, by decide +kernel, by decide +kernel⟩

theorem meets_kill : ∃ s fn r q l, takenRec s fn r 0x19 false [(8, 23)] ∧ queueOfHandle (recField r 8 8) = some q ∧ fn = 0 ∧
    s.launches.find? (fun x => x.queue == q && x.op == recField r 16 8) = some l :=
  ⟨sG, 0, naming 0x19, ⟨0, 0⟩, launch0, taken rfl (by decide +kernel), by decide +kernel, rfl, by decide +kernel⟩

def sKilled (kernel : Bool) : State := { sG with launches := [], queues := [{ queue0 with statuses := [⟨1, 7, kernel⟩] }] }

theorem meets_kill_done : ∃ s fn r q k x, takenRec s fn r 0x19 false [(8, 23)] ∧ queueOfHandle (recField r 8 8) = some q ∧ fn = 0 ∧
    s.launches.find? (fun x => x.queue == q && x.op == recField r 16 8) = none ∧ s.queue? q.vi q.q = some k ∧ x ∈ k.statuses ∧ x.op = recField r 16 8 ∧
    x.kernel = true :=
  ⟨sKilled true, 0, naming 0x19, ⟨0, 0⟩, _, ⟨1, 7, true⟩, taken rfl (by decide +kernel), by decide +kernel, rfl, by decide +kernel, rfl,
    List.mem_singleton.mpr rfl, by decide +kernel, rfl⟩

theorem meets_kill_other : ∃ s fn r q k, takenRec s fn r 0x19 false [(8, 23)] ∧ queueOfHandle (recField r 8 8) = some q ∧ fn = 0 ∧
    s.launches.find? (fun x => x.queue == q && x.op == recField r 16 8) = none ∧ s.queue? q.vi q.q = some k ∧
    ∀ x ∈ k.statuses, x.op = recField r 16 8 → x.kernel = false :=
  ⟨sKilled false, 0, naming 0x19, ⟨0, 0⟩, _, taken rfl (by decide +kernel), by decide +kernel, rfl, by decide +kernel, rfl,
    fun x h _ => by rw [List.mem_singleton.mp h]⟩

theorem meets_setreg : ∃ s fn r u, takenRec s fn r 0x16 true [(8, 13), (16, 23)] ∧ s.setRegister (recField r 8 4) (recField r 12 2) (BitVec.ofNat 64 (recField r 16 8)) = some u ∧
    recField r 8 4 = 0x403 ∧ recField r 12 2 < 16 := by
  obtain ⟨u, h⟩ := some_out (e := sG.setRegister 0x403 15 20) (by decide +kernel)
  refine ⟨sG, 0, record [(0, 0x16), (8, 3), (9, 4), (12, 15), (16, 20)], u, taken rfl (by decide +kernel), ?_, by decide +kernel, by decide +kernel⟩
  rw [show recField (record [(0, 0x16), (8, 3), (9, 4), (12, 15), (16, 20)]) 8 4 = 0x403 from by decide +kernel,
    show recField (record [(0, 0x16), (8, 3), (9, 4), (12, 15), (16, 20)]) 12 2 = 15 from by decide +kernel,
    show recField (record [(0, 0x16), (8, 3), (9, 4), (12, 15), (16, 20)]) 16 8 = 20 from by decide +kernel]
  exact h

theorem meets_setreg_none : ∃ s fn r, takenRec s fn r 0x16 true [(8, 13), (16, 23)] ∧
    s.setRegister (recField r 8 4) (recField r 12 2) (BitVec.ofNat 64 (recField r 16 8)) = none :=
  ⟨sG, 0, record [(0, 0x16)], taken rfl (by decide +kernel), Option.isNone_iff_eq_none.mp (by decide +kernel)⟩

theorem meets_fifogrant : ∃ s fn r i d g, takenRec s fn r 0x17 true [(8, 14)] ∧ s.iface? (recField r 8 1) = some i ∧ recField r 9 1 < 64 ∧ recField r 12 1 < 4 ∧
    recField r 13 1 < 12 ∧ recField r 14 1 = 1 ∧ i.packageDie (recField r 10 1) = some d ∧ i.packageCg d (recField r 11 1) = some g ∧
    (s.bank (64 * d + 4 * g + recField r 12 1) (Fin.ofNat 12 (recField r 13 1))).holder = none ∧
    (s.bank (64 * d + 4 * g + recField r 12 1) (Fin.ofNat 12 (recField r 13 1))).switching = none ∧ (∀ x ∈ i.grants, x.index ≠ recField r 9 1) ∧
    (s.bank (64 * d + 4 * g + recField r 12 1) (Fin.ofNat 12 (recField r 13 1))).mode ≠ .fifo :=
  ⟨sG, 0, record [(0, 0x17), (9, 63), (10, 3), (11, 15), (12, 3), (13, 11), (14, 1)], iface0, 3, 15, taken rfl (by decide +kernel), by decide +kernel, by decide +kernel,
    by decide +kernel, by decide +kernel, by decide +kernel, by decide +kernel, by decide +kernel, by decide +kernel, by decide +kernel, (fun _ h => by cases h),
    by decide +kernel⟩

theorem meets_diereset : ∃ s fn r, takenRec s fn r 0x1A true [(8, 9)] ∧ recField r 8 1 < 4 ∧ recField r 9 1 < 2 :=
  ⟨sG, 0, record [(0, 0x1A), (8, 3), (9, 1)], taken rfl (by decide +kernel), by decide +kernel, by decide +kernel⟩

theorem meets_gateRecord : ∃ s fn r, takenRec s fn r 0x1B false [(8, 12)] ∧ fn = 0 ∧ recField r 8 1 < 4 ∧ recField r 9 1 < 16 ∧ recField r 10 1 < 2 ∧
    recField r 11 1 < 4 :=
  ⟨sG, 0, record [(0, 0x1B), (8, 3), (9, 15), (10, 1), (11, 3)], taken rfl (by decide +kernel), rfl, by decide +kernel, by decide +kernel, by decide +kernel,
    by decide +kernel⟩

theorem meets_unsubscribe : ∃ s fn r, takenRec s fn r 0x1C false [(8, 26)] ∧ recField r 8 1 < 64 ∧ recField r 26 1 = 0 :=
  ⟨sG, 0, record [(0, 0x1C), (8, 63)], taken rfl (by decide +kernel), by decide +kernel, by decide +kernel⟩

def recSub : Rec256 := record [(0, 0x1C), (8, 63), (9, 2), (16, 0x40), (24, 1), (26, 1)]

theorem meets_subscribe : ∃ s fn r o a b t, takenRec s fn r 0x1C false [(8, 26)] ∧ recField r 8 1 < 64 ∧ recField r 26 1 = 1 ∧
    s.metricObject fn (recField r 9 1) (recField r 10 2) = .ok o ∧ s.space? (recField r 24 2) = some a ∧ fn = 0 ∧ recField r 16 8 % 8 = 0 ∧
    recField r 16 8 < 2 ^ 57 ∧ (withSub s fn b).writeVa (recField r 24 2) (recField r 16 8) (leBytes 8 0) = .ok t ∧
    b = ⟨63, 2, 0, 0, 0, 0x40#64, 1, false, 0, 0⟩ := by
  have e : ((withSub sG 0 ⟨63, 2, 0, 0, 0, 0x40#64, 1, false, 0, 0⟩).writeVa (recField recSub 24 2) (recField recSub 16 8) (leBytes 8 0)).toBool = true := by
    decide +kernel
  exact ⟨sG, 0, recSub, 0, space0, _, _, taken rfl (by decide +kernel), by decide +kernel, by decide +kernel, by decide +kernel, by decide +kernel, rfl, by decide +kernel,
    by decide +kernel, stateOf_ok sG e, rfl⟩

theorem meets_attest : ∃ s fn r, takenRec s fn r 0x1D false [(8, 8), (16, 55)] ∧ recField r 8 1 = 0 :=
  ⟨sG, 0, record [(0, 0x1D), (16, 8)], taken rfl (by decide +kernel), by decide +kernel⟩

/-- A stopped fragment of the warp on core 0, named by entry 256 of slot 0; none named by slot 1. -/
def fragStop : Fragment := { frag0 with status := .stopped, ringSeq := some 0 }
def sStop : State := { sG with warps := [{ warpM with frags := [fragStop] }] }

theorem meets_debug : ∃ s fn r r' w g, takenRec s fn r 0x1E false [(8, 9), (16, 31)] ∧ fn = 0 ∧ recField r 8 1 < 2 ∧
    s.namedFrag .stopped (BitVec.ofNat 64 (recField r 16 8)) (BitVec.ofNat 64 (recField r 24 8)) (fun _ => true) (fun _ => true) = .ok (w, g) ∧
    takenRec s fn r' 0x1E false [(8, 9), (16, 31)] ∧ recField r' 8 1 < 2 ∧
    s.namedFrag .stopped (BitVec.ofNat 64 (recField r' 16 8)) (BitVec.ofNat 64 (recField r' 24 8)) (fun _ => true) (fun _ => true) = .error 2 :=
  ⟨sStop, 0, record [(0, 0x1E), (8, 1), (17, 1)], record [(0, 0x1E), (17, 1), (18, 1)], { warpM with frags := [fragStop] }, fragStop, taken rfl (by decide +kernel), rfl, by decide +kernel, by decide +kernel,
    taken rfl (by decide +kernel), by decide +kernel, by decide +kernel⟩

theorem meets_ckptwin : ∃ s fn r, takenRec s fn r 0x1F true [(8, 23)] ∧ recField r 8 8 % 4096 = 0 :=
  ⟨sG, 0, record [(0, 0x1F), (9, 16)], taken rfl (by decide +kernel), by decide +kernel⟩

theorem meets_fabric : ∃ s fn r, takenRec s fn r 0x20 true [(8, 27)] ∧ recField r 8 2 < 4096 ∧ recField r 10 2 < 4096 :=
  ⟨sG, 0, record [(0, 0x20), (8, 0xFF), (9, 0xF), (10, 0xFF), (11, 0xF)], taken rfl (by decide +kernel), by decide +kernel, by decide +kernel⟩

/-- Whether an image verifies is open: the record's form and SLOT are met here, and one of the clauses' outcomes. -/
theorem meets_update : ∃ s fn r r', takenRec s fn r 0x21 true [(8, 24)] ∧ recField r 24 1 = 0 ∧ takenRec s fn r' 0x21 true [(8, 24)] ∧ recField r' 24 1 = 1 :=
  ⟨sG, 0, record [(0, 0x21)], record [(0, 0x21), (24, 1)], taken rfl (by decide +kernel), by decide +kernel, taken rfl (by decide +kernel), by decide +kernel⟩

/-! ### The step and the whole machine -/

/-- The fragment at word 0x4000, where a code store holds a word; the agenda names its core. -/
def sStep (w : W32) : State := { withCode s0 0x4000 w with agenda := [.core 0 ⟨true, true⟩, .tick 5] }

theorem moves0 (w : W32) : coreMoves (sStep w) warp0 ⟨true, true⟩ [.tick 5] := .inl ⟨0, rfl, rfl⟩

theorem aloneReady0 (s : State) (hb : s.mgmt.boot ≠ .halted) (hw : s.warps = [warp0]) : aloneReady s warp0 frag0 := by
  refine ⟨hb, by rw [hw]; rfl, fun v hv _ => ?_, rfl, rfl, rfl, rfl, rfl⟩
  rw [hw] at hv
  rw [List.mem_singleton.mp hv]

theorem meets_step_strand : ∃ s w f ch rest i next k, coreMoves s w ch rest ∧ aloneReady s w f ∧ standsAt s w f i next ∧ i.place = .strand k ∧
    f.strands[k].live = false ∧ (s.cgs[cgOfCore w.core]).phase = none :=
  ⟨sStep 0x01889405#32, warp0, frag0, _, _, .mac ⟨false, 1, 4, .f32, .rne, 2⟩, 0x8002#56, 1, moves0 _, aloneReady0 _ (by decide) rfl,
    ⟨0x01889405#32, [], (fun k h => by
      have : k = 0 := by simpa using h
      subst this
      rfl), by decide, rfl, by decide⟩, rfl, rfl, rfl⟩

theorem meets_step_meeting : ∃ s w f ch rest i next, coreMoves s w ch rest ∧ aloneReady s w f ∧ standsAt s w f i next ∧ i.place = .meeting :=
  ⟨sStep 0x18410181#32, warp0, frag0, _, _, .tld false 2 6 true, 0x8002#56, moves0 _, aloneReady0 _ (by decide) rfl,
    ⟨0x18410181#32, [], (fun k h => by
      have : k = 0 := by simpa using h
      subst this
      rfl), by decide, rfl, by decide⟩, rfl⟩

/-- A continuation stands where an instruction is fetched; the agenda is empty and it is the fragments' turn. -/
theorem meets_step_bad : ∃ s w f ch e k, coreMoves s w ch [] ∧ s.agenda = [] ∧ aloneReady s w f ∧ s.fetchOf w f = .bad e k :=
  ⟨withCode s0 0x4000 0xC0000000#32, warp0, frag0, _, _, _, .inr ⟨rfl, rfl, rfl, rfl, rfl⟩, rfl, aloneReady0 _ (by decide) rfl, rfl⟩

theorem meets_eligible : launchesNoted State.reset ∧ launchesNoted sP := by
  refine ⟨fun _ _ h => (by cases h), fun _ l h he => ?_⟩
  rw [List.mem_singleton.mp h] at he
  cases he

theorem meets_halted : ∃ s m rest, (State.mgmt s).boot = .halted ∧ s.agenda = m :: rest ∧ m = .event .pciExpressLinkUp ∧ m ≠ .event .packageReset :=
  ⟨{ sBoot .halted with agenda := [.event .pciExpressLinkUp] }, _, [], rfl, rfl, rfl, fun h => by cases h⟩

theorem meets_runs : ∃ s w f p word, State.warp? s (Warp.core w) w.slot = some w ∧ w.frag? (Fragment.uid f) = some f ∧
    s.codeWord? (cgOfCore w.core) (s.asidOf w) (wordHolding p).toNat = some word ∧ word.getLsbD 29 = true :=
  ⟨sStep 0x39C01201#32, warp0, frag0, 0x8000#56, 0x39C01201#32, rfl, rfl, rfl, by decide⟩

theorem meets_memoryWrites : ∃ s, (State.mem s).wf = true ∧ cellsWf s.hostMem = true := ⟨sM, by decide +kernel, rfl⟩

theorem meets_encoding : ∃ (i : Instr) (w0 : W32) (more : List W32), i.wf = true ∧ encode i = w0 :: more ∧ more ≠ [] :=
  ⟨.macExt ⟨false, 1, .imm 0x3F000000#32, .f32, .rne, 2, none⟩, 0x81881405#32, [0xC0080000#32, 0xFF000000#32], rfl, rfl, by decide⟩

end Sys2Proof.Tests
end

