-- ==== Sys2Proof/Proofs/ScalarUnit.lean ====
section
/-!
PROOFS. The scalar unit: what each row of R128 writes, and when SCMP's condition holds (R127-R129).
-/

namespace Sys2Proof.Machine

open Sys2Proof Sys2Proof.Claims

/-! ### Operand B (R127) and shift amounts (R128) -/

theorem sOperand_eq_ofSOperand (w : Warp) (o : SOperand) : sOperand w o = ofSOperand w o := by
  cases o <;> rfl

theorem zOperand_eq_ofZOperand (w : Warp) (o : ZOperand) : zOperand w o = ofZOperand w o := by
  cases o <;> rfl

/-- B AND 63 is what the low six bits of B hold. -/
theorem shiftAmount_eq_toNat (b : W64) : shiftAmount b = (b.setWidth 6).toNat := by
  simp [shiftAmount]

/-- The sign extension of IMM30 does not reach a shift amount. -/
theorem shiftAmount_signExtend (v : BitVec 30) : shiftAmount (v.signExtend 64) = (v.setWidth 6).toNat := by
  have hlow : (v.signExtend 64).setWidth 6 = v.setWidth 6 := by
    ext j hj
    rw [BitVec.getElem_setWidth, BitVec.getElem_setWidth, BitVec.getLsbD_signExtend]
    simp [show j < 30 by omega, show j < 64 by omega]
  rw [shiftAmount_eq_toNat, hlow]

/-! ### Instructions that write a scalar (R128) -/

/-- The dispatch sends every row of R128 to the shared meaning of the instructions that write a scalar, with the row's value. -/
theorem exec_of_scalarRow {i : Instr} {d : Fin 32} {v : Warp → W64} (h : scalarRow i = some (d, v)) (s : State) :
    exec i s = scalarInstr i d v s := by
  cases i with
  | sadd o | ssub o | smul o | sand o | sor o | smov b d o =>
    cases h
    simp only [exec, execSadd, execSsub, execSmul, execSand, execSor, execSmov, sOperand_eq_ofSOperand]
  | saddExt o | ssubExt o | smulExt o | sandExt o | sorExt o | smovExt b d imm =>
    cases h
    rfl
  | sshl o | sshr o =>
    cases h
    simp only [exec, execSshl, execSshr, shiftAmount_eq_toNat, sOperand_eq_ofSOperand]
    rfl
  | sshlExt o | sshrExt o =>
    cases h
    simp only [exec, execSshlExt, execSshrExt, shiftAmount_signExtend]
    rfl
  | _ => cases h

/-- The write is complete at once: the scalar is present, and the fragment goes on at the next instruction. -/
theorem scalarInstr_next {s : State} {x : Focus} {i : Instr} (h : meetReady s x i) (d : Fin 32) (v : Warp → W64) :
    scalarInstr i d v s = .next (finishMeeting s (x.w.writeS d (v x.w)) x.f x.c.next) := by
  obtain ⟨hx, hi, hc⟩ := h
  exact meetInstr_next hx hi hc _

/-! ### SCMP (R129) -/

/-- Six signed conditions and two unsigned ones. -/
theorem scmpHolds_iff (c : ScmpCond) (a b : W64) : scmpHolds c a b = true ↔ scalarHolds c a b := by
  cases c with
  | eq => exact beq_iff_eq
  | ne => exact bne_iff_ne
  | lt | gt => exact BitVec.slt_iff_toInt_lt
  | le | ge => exact BitVec.sle_iff_toInt_le
  | ltu => exact BitVec.ult_iff_toNat_lt
  | geu => exact BitVec.ule_iff_toNat_le

theorem scmp_next {s : State} {x : Focus} {b : Bool} {p : Fin 8} {c : ScmpCond} {a : Fin 32} {o : ZOperand}
    (h : meetReady s x (.scmp b p c a o)) :
    exec (.scmp b p c a o) s = .next (finishMeeting s
      (x.w.writeWholeP p (scmpHolds c x.w.s[a] (ofZOperand x.w o))) x.f x.c.next) := by
  obtain ⟨hx, hi, hc⟩ := h
  rw [← zOperand_eq_ofZOperand]
  exact meetInstr_next hx hi hc _

/-- Settles O12: each row of R128 is one scalar write, and SCMP's condition chooses between the two whole predicates. -/
theorem scalarUnit : Obligations.ScalarUnit := by
  refine ⟨fun s x i d v hrow hready => ?_, fun s x b p c a o hready => ⟨fun hholds => ?_, fun hfails => ?_⟩⟩
  · rw [exec_of_scalarRow hrow, scalarInstr_next hready]
    rfl
  · rw [scmp_next hready, (scmpHolds_iff c _ _).2 hholds]
    rfl
  · rw [scmp_next hready, Bool.eq_false_iff.2 (mt (scmpHolds_iff c _ _).1 hfails)]
    rfl

end Sys2Proof.Machine
end

