-- ==== Sys2Proof/Proofs/LaneMasks.lean ====
section
/-!
PROOFS. Numbers built from bits, and the lanes of a mask: which lanes the operations on masks give, the lowest of them, and the
lanes an instruction acts in.
-/

namespace Sys2Proof.Machine

open Sys2Proof Sys2Proof.Claims

/-! ### Numbers and masks from their bits -/

/-- Powers of two picked from a list add up on top of what was there before. -/
theorem foldr_addPow (p : Nat → Bool) (is : List Nat) (n : Nat) :
    is.foldr (fun i k => if p i then k + 2 ^ i else k) n = is.foldr (fun i k => if p i then k + 2 ^ i else k) 0 + n := by
  induction is with
  | nil => simp
  | cons i is ih =>
    simp only [List.foldr_cons]
    split <;> omega

theorem ofBits_succ (w : Nat) (p : Nat → Bool) : ofBits (w + 1) p = ofBits w p + (if p w then 2 ^ w else 0) := by
  simp only [ofBits, List.range_succ, List.foldr_append, List.foldr_cons, List.foldr_nil]
  rw [foldr_addPow]
  simp

theorem ofBits_lt (w : Nat) (p : Nat → Bool) : ofBits w p < 2 ^ w := by
  induction w with
  | zero => simp [ofBits]
  | succ w ih =>
    rw [ofBits_succ, pow_succ]
    split <;> omega

theorem testBit_ofBits (w : Nat) (p : Nat → Bool) (i : Nat) : (ofBits w p).testBit i = (decide (i < w) && p i) := by
  induction w with
  | zero => simp [ofBits]
  | succ w ih =>
    have hlt := ofBits_lt w p
    rw [ofBits_succ]
    rcases Nat.lt_trichotomy i w with hi | rfl | hi
    · have hkeep : (ofBits w p + if p w then 2 ^ w else 0).testBit i = (ofBits w p).testBit i := by
        split
        · rw [Nat.add_comm, Nat.testBit_two_pow_add_gt hi]
        · rfl
      rw [hkeep, ih]
      simp [hi, Nat.lt_succ_of_lt hi]
    · cases hp : p i
      · simp [Nat.testBit_lt_two_pow hlt]
      · simp [Nat.add_comm (ofBits i p), Nat.testBit_two_pow_add_eq, Nat.testBit_lt_two_pow hlt]
    · have hall : (ofBits w p + if p w then 2 ^ w else 0) < 2 ^ i := by
        rw [← ofBits_succ]
        exact (ofBits_lt _ _).trans_le (Nat.pow_le_pow_right (by decide) hi)
      rw [Nat.testBit_lt_two_pow hall]
      simp [show ¬ i < w + 1 by omega]

theorem maskOf_eq_ofBits (p : Fin 32 → Bool) : maskOf p = BitVec.ofNat 32 (ofBits 32 fun i => p (Fin.ofNat 32 i)) := by
  simp only [maskOf, ofBits, allLanes, ← List.map_coe_finRange_eq_range, List.foldr_map, Fin.ofNat_val_eq_self]

@[simp] theorem inMask_maskOf (p : Fin 32 → Bool) (l : Fin 32) : inMask (maskOf p) l = p l := by
  rw [maskOf_eq_ofBits, inMask, BitVec.getLsbD_ofNat, testBit_ofBits, Fin.ofNat_val_eq_self]
  simp

@[simp] theorem inMask_and (m n : Mask) (l : Fin 32) : inMask (m &&& n) l = (inMask m l && inMask n l) :=
  BitVec.getLsbD_and

@[simp] theorem inMask_or (m n : Mask) (l : Fin 32) : inMask (m ||| n) l = (inMask m l || inMask n l) :=
  BitVec.getLsbD_or

@[simp] theorem inMask_zero (l : Fin 32) : inMask 0#32 l = false := by simp [inMask]

theorem inMask_allOnes (l : Fin 32) : inMask (BitVec.allOnes 32) l = true := by
  rw [inMask, BitVec.getLsbD_allOnes, decide_eq_true l.isLt]

@[simp] theorem inMask_not (m : Mask) (l : Fin 32) : inMask (~~~m) l = !inMask m l := by
  simp [inMask]

/-- Two masks with the same lanes are the same. -/
theorem mask_ext {m n : Mask} (h : ∀ l, inMask m l = inMask n l) : m = n :=
  BitVec.eq_of_getLsbD_eq fun i hi => h ⟨i, hi⟩

/-- The lowest lane of a mask is its first: no lane below it is in the mask. -/
theorem lowest_eq_some {m : Mask} {l : Fin 32} (hl : inMask m l = true) (hbelow : ∀ j, j < l → inMask m j = false) :
    lowest? m = some l := by
  rw [lowest?, allLanes, List.find?_eq_some_iff_getElem]
  refine ⟨hl, l.val, by simp, by simp, fun j hj => ?_⟩
  simpa using hbelow ⟨j, by omega⟩ hj

theorem lowest_eq_none {m : Mask} (h : ∀ l, inMask m l = false) : lowest? m = none := by
  simp [lowest?, h]

/-- The lanes an instruction acts in are those that the cover, the done mask and the guard leave (R33, R118). -/
theorem inMask_activeLanes (x : Focus) (grd : Option Guard) : inMask (activeLanes x grd) = active x grd := by
  funext l
  rw [activeLanes, inMask_and]
  unfold active
  cases grd with
  | none =>
    simp only [guardMask, inMask_allOnes]
    rfl
  | some g => cases hn : g.n <;> simp [guardMask, inMask, hn]

end Sys2Proof.Machine
end

