-- ==== Sys2Proof/Proofs/StrandValues.lean ====
section
/-!
PROOFS. The values of strand instructions: what the model computes on natural numbers is what the statements say of words of a
type's width (R49, R55, R117, R151).
-/

namespace Sys2Proof.Machine

open Sys2Proof Sys2Proof.Claims

/-! ### Operands (R55, R117) -/

theorem lowBits_eq_toNat (t : Ty) (v : W64) : lowBits t v = (v.setWidth t.width).toNat :=
  (BitVec.toNat_setWidth ..).symm

theorem gValue_eq_toNat (w : Warp) (t : Ty) (r : Fin 64) (l : Fin 32) : gValue w t r l = (ofG t w r l).toNat := by
  unfold gValue ofG
  split
  · next h =>
    have hw : t.width = 64 := by simpa [Ty.is64] using h
    have hlo := ((w.g[r])[l]).isLt
    have hhi := ((w.g[gPartner r])[l]).isLt
    simp only [BitVec.toNat_setWidth, BitVec.toNat_append, hw]
    rw [← Nat.shiftLeft_add_eq_or_of_lt hlo, Nat.shiftLeft_eq]
    omega
  · exact (BitVec.toNat_setWidth ..).symm

theorem sValue_eq_toNat (w : Warp) (t : Ty) (r : Fin 32) : sValue w t r = (ofS t w r).toNat :=
  (BitVec.toNat_setWidth ..).symm

theorem isFloat_eq_false_of_isInt {t : Ty} (h : t.isInt = true) : t.isFloat = false := by
  cases t with
  | f16 | bf16 | f32 | f64 => cases h
  | _ => rfl

theorem gsrcValue_eq_fGSrc (w : Warp) (t : Ty) (l : Fin 32) (src : GSrc) (h : t.isFloat = true) :
    gsrcValue w t l src = fGSrc t w l src := by
  cases src with
  | g r => exact gValue_eq_toNat w t r l
  | imm v =>
    cases t with
    | f16 | bf16 | f32 | f64 => rfl
    | _ => cases h

theorem gsrcValue_eq_toNat (w : Warp) (t : Ty) (l : Fin 32) (src : GSrc) (h : t.isFloat = false) :
    gsrcValue w t l src = (ofGSrc t w l src).toNat := by
  cases src with
  | g r => exact gValue_eq_toNat w t r l
  | imm v =>
    show immX t v = (ofImm t v).toNat
    cases t with
    | f16 | bf16 | f32 | f64 => cases h
    | i8 | i16 => simp [immX, ofImm, Ty.isSigned, Ty.width, BitVec.signExtend_eq_setWidth_of_le]
    | n8 | n16 | e4m3 | e5m2 | si8 | t2 => exact (BitVec.toNat_setWidth ..).symm
    | i32 => exact (Nat.mod_eq_of_lt v.isLt).trans (congrArg BitVec.toNat (BitVec.signExtend_eq v).symm)
    | n32 => exact Nat.mod_eq_of_lt v.isLt
    | i64 | n64 => rfl

theorem ofNat_gValue (w : Warp) (t : Ty) (r : Fin 64) (l : Fin 32) :
    BitVec.ofNat t.width (gValue w t r l) = ofG t w r l := by
  rw [gValue_eq_toNat, BitVec.ofNat_toNat, BitVec.setWidth_eq]

theorem ofNat_gsrcValue (w : Warp) (t : Ty) (l : Fin 32) (src : GSrc) :
    BitVec.ofNat t.width (gsrcValue w t l src) =
      if t.isFloat then BitVec.ofNat t.width (fGSrc t w l src) else ofGSrc t w l src := by
  split
  · next ht => rw [gsrcValue_eq_fGSrc _ _ _ _ ht]
  · next ht => rw [gsrcValue_eq_toNat _ _ _ _ (Bool.eq_false_iff.2 ht), BitVec.ofNat_toNat, BitVec.setWidth_eq]

/-! ### Integers and images (R49, R55, R151) -/

theorem sint_toNat {w : Nat} (h : 0 < w) (v : BitVec w) : sint w v.toNat = v.toInt := by
  have hw : 2 ^ w = 2 * 2 ^ (w - 1) := by rw [← pow_succ']; congr 1; omega
  rw [sint, BitVec.toInt_eq_toNat_cond]
  split <;> split <;> omega

theorem width_pos (t : Ty) : 0 < t.width := by cases t <;> decide

/-- A result as it stands in an accumulator is the image of its low w bits (R151). -/
theorem accImage_eq_image (t : Ty) (n : Nat) : accImage t n = image t (BitVec.ofNat t.width n) := by
  unfold accImage image
  split
  · next h =>
    have := sint_toNat (width_pos t) (BitVec.ofNat t.width n)
    rw [BitVec.toNat_ofNat] at this
    rw [sext64, this, BitVec.signExtend]
    apply BitVec.eq_of_toNat_eq
    simp only [w64, wrapN, BitVec.toNat_ofNat, BitVec.toNat_ofInt]
    omega
  · apply BitVec.eq_of_toNat_eq
    simp [w64]

theorem ival_toNat (t : Ty) (v : BitVec t.width) : ival t v.toNat = if t.isSigned then v.toInt else v.toNat := by
  unfold ival
  rw [sint_toNat (width_pos t)]

/-- Integers of a type are the same where their codes are. -/
theorem ival_inj {t : Ty} {a b : BitVec t.width} : ival t a.toNat = ival t b.toNat ↔ a = b := by
  rw [ival_toNat, ival_toNat]
  split
  · exact BitVec.toInt_inj
  · rw [Int.ofNat_inj, BitVec.toNat_inj]

/-- Signed or unsigned as the type says, one code is below another where its integer is (R194). -/
theorem lt_eq_decide_ival_lt (t : Ty) (a b : BitVec t.width) :
    (if t.isSigned then a.slt b else a.ult b) = decide (ival t a.toNat < ival t b.toNat) := by
  rw [ival_toNat, ival_toNat]
  split
  · exact BitVec.slt_eq_decide
  · simp [BitVec.ult]

theorem gImage_of_is64 {t : Ty} (ht : t.is64 = true) (v : W64) : gImage t (lowBits t v) = v := by
  have hw : t.width = 64 := by simpa [Ty.is64] using ht
  simp [gImage, lowBits, hw, w64, Nat.mod_eq_of_lt v.isLt]

/-- The low half of a value as a register holds it (R55). -/
theorem gImage_setWidth (t : Ty) (v : W64) : (gImage t (lowBits t v)).setWidth 32 = gWord t (v.setWidth t.width) := by
  rw [lowBits_eq_toNat, gImage, gWord, sint_toNat (width_pos t)]
  generalize v.setWidth t.width = u
  apply BitVec.eq_of_toNat_eq
  cases hsigned : t.isSigned with
  | false => simp [w64]
  | true =>
    by_cases hnarrow : t.width < 32
    · simpa [hnarrow, w64, wrapN, BitVec.signExtend] using Int.emod_lt_of_pos u.toInt (by decide)
    · simp [hnarrow, w64, BitVec.signExtend_eq_setWidth_of_le u (Nat.le_of_not_lt hnarrow)]

end Sys2Proof.Machine
end

