-- ==== Sys2Proof/Proofs/StrandCompletion.lean ====
section
/-!
PROOFS. How a strand arithmetic instruction completes where no active lane has a cause or raises an enabled flag (R71, R73).
-/

namespace Sys2Proof.Machine

open Sys2Proof Sys2Proof.Claims

/-! ### Lanes that raise nothing -/

theorem strandReady_wf {s : State} {x : Focus} {i : Instr} {grd : Option Guard} (h : strandReady s x i grd) : i.wf = true :=
  h.2.1

theorem trapLanes_eq_zero {w : Warp} {m : Mask} {r : Fin 32 → LaneRes}
    (h : ∀ l, inMask m l = true → (r l).flags &&& w.fpen.toNat = 0) : trapLanes w m r = 0#32 :=
  mask_ext fun l => by
    cases hl : inMask m l
    · simp [trapLanes, hl]
    · simp [trapLanes, hl, h l hl]

theorem causeLanes_eq_zero {m : Mask} {r : Fin 32 → LaneRes} (h : ∀ l, (r l).cause = none) : causeLanes m r = 0#32 :=
  mask_ext fun l => by simp [causeLanes, h l]

theorem lanesOf_zero : lanesOf 0#32 = [] := by simp [lanesOf]

/-- The union of some lanes' flags, as 32 bits. -/
theorem w32_orFlags (m : Mask) (r : Fin 32 → LaneRes) : w32 (orFlags m r) = flagsOf (inMask m) fun l => (r l).flags := by
  have hfold : ∀ (ls : List (Fin 32)) (n : Nat),
      w32 (ls.foldl (fun n l => if inMask m l = true then n ||| (r l).flags else n) n) =
        ls.foldl (fun n l => if inMask m l = true then n ||| BitVec.ofNat 32 (r l).flags else n) (w32 n) := by
    intro ls
    induction ls with
    | nil => intro n; rfl
    | cons l ls ih =>
      intro n
      rw [List.foldl_cons, List.foldl_cons, ih]
      congr 1
      split
      · exact BitVec.ofNat_or
      · rfl
  rw [orFlags, lanesOf, List.foldl_filter]
  exact hfold allLanes 0

theorem flagsOf_zero (on : Fin 32 → Bool) : flagsOf on (fun _ => 0) = 0 := by simp [flagsOf]

/-- Where no lane has a cause or raises an enabled flag, the instruction completes in all its lanes, and only FPSTAT takes
their flags (R71). -/
theorem commitLanes_untrapped (s : State) (x : Focus) (k : Fin 8) {m : Mask} {r : Fin 32 → LaneRes}
    (hcause : ∀ l, (r l).cause = none) (hflags : ∀ l, inMask m l = true → (r l).flags &&& x.w.fpen.toNat = 0)
    (upd : Warp → Mask → Warp) :
    commitLanes s x k m r upd = finishStrand s x.c
      (upd { x.w with fpstat := x.w.fpstat ||| flagsOf (inMask m) fun l => (r l).flags } m) x.f k := by
  have htrap := trapLanes_eq_zero hflags
  have hc := causeLanes_eq_zero (m := m) hcause
  have hraise : x.w.raiseFlags m r =
      { x.w with fpstat := x.w.fpstat ||| flagsOf (inMask m) fun l => (r l).flags } := by
    simp [Warp.raiseFlags, htrap, orFlags, lanesOf_zero, ← w32_orFlags, w32]
  have hgood : goodLanes x.w m r = m := by
    rw [goodLanes, htrap, hc]
    exact BitVec.and_allOnes
  have hnone : laneCauses x.w m r = [] := by simp [laneCauses, htrap, hc, lanesOf_zero]
  rw [commitLanes, hraise, hgood, hnone, finishLanes]

/-- Where no lane has a cause or raises a flag at all, nothing but the written lanes changes. -/
theorem commitLanes_plain (s : State) (x : Focus) (k : Fin 8) (m : Mask) (v : Fin 32 → Nat) (upd : Warp → Mask → Warp) :
    commitLanes s x k m (fun l => .plain (v l)) upd = finishStrand s x.c (upd x.w m) x.f k := by
  rw [commitLanes_untrapped]
  · simp [LaneRes.plain, flagsOf_zero]
  · exact fun _ => rfl
  · exact fun _ _ => Nat.zero_and _

/-- Writing results into an accumulator's lanes (R151). -/
theorem writeAcc_eq_wroteAcc (w : Warp) (k : Fin 8) (t : Ty) (m : Mask) (v : Fin 32 → Nat) :
    (w.writeAcc k m fun l => accImage t (v l)) = wroteAcc w k t (inMask m) fun l => BitVec.ofNat t.width (v l) := by
  simp only [accImage_eq_image]
  rfl

/-! ### Results in an accumulator (R151, R181) -/

@[simp] theorem plain_val (v : Nat) : (LaneRes.plain v).val = v := rfl

theorem vecArith_plain (s : State) (x : Focus) (k : Fin 8) (tin tout : Ty) (f : Warp → Fin 32 → Nat → Nat) (m : Mask) :
    vecArith s x k tin tout (fun w l a => .plain (f w l a)) m = finishStrand s x.c
      (wroteAcc x.w k tout (inMask m) fun l => BitVec.ofNat tout.width (f x.w l (accOf tin x.w k l).toNat)) x.f k := by
  simp only [vecArith, commitLanes_plain, plain_val, writeAcc_eq_wroteAcc, lowBits_eq_toNat, accOf]

end Sys2Proof.Machine
end

