-- ==== Sys2Proof/Proofs/StrandArithmetic.lean ====
section
/-!
PROOFS. Field insertion, comparison, selection and emission (R193-R195, R201-R203).
-/

namespace Sys2Proof.Machine

open Sys2Proof Sys2Proof.Claims

/-! ### BFI (R193) -/

/-- The positions of a field, among those of a word wide enough. -/
theorem getLsbD_fieldMask (pos len : Nat) {i : Nat} (hi : i < 1024) :
    (BitVec.ofNat 1024 (2 ^ len - 1) <<< pos).getLsbD i = (decide (pos ≤ i) && decide (i < pos + len)) := by
  rw [BitVec.getLsbD_shiftLeft, BitVec.getLsbD_ofNat, Nat.testBit_two_pow_sub_one]
  by_cases h : pos ≤ i
  · simp [h, hi, show ¬ i < pos by omega, show i - pos < 1024 by omega, show i - pos < len ↔ i < pos + len by omega]
  · simp [h, show i < pos by omega]

/-- The field's positions take the operand's low bits, the others keep the accumulator's (R193). -/
theorem ofNat_bfiN (t : Ty) (a b : BitVec t.width) (c : W32) :
    BitVec.ofNat t.width (bfiN t a.toNat b.toNat c.toNat) = inserted t a b c := by
  have hpos : (c.extractLsb' 0 8).toNat = c.toNat % 256 := by simp
  have hlen : (c.extractLsb' 8 8).toNat = c.toNat / 256 % 256 := by simp [Nat.shiftRight_eq_div_pow]
  unfold bfiN inserted
  simp only [hpos, hlen]
  generalize c.toNat % 256 = pos
  generalize c.toNat / 256 % 256 = len
  refine BitVec.eq_of_getLsbD_eq fun i hi => ?_
  have hi1024 : i < 1024 := hi.trans_le (by cases t <;> decide)
  rw [BitVec.getLsbD_ofNat, testBit_ofBits, BitVec.getLsbD_setWidth, BitVec.getLsbD_or, BitVec.getLsbD_and,
    BitVec.getLsbD_and, BitVec.getLsbD_not, getLsbD_fieldMask pos len hi1024]
  cases hin : decide (pos ≤ i) && decide (i < pos + len)
  · simp [hi, hi1024, BitVec.testBit_toNat]
  · have hlow : ¬ i < pos := by
      simp only [Bool.and_eq_true, decide_eq_true_iff] at hin
      omega
    simp [hi, hi1024, hlow, BitVec.testBit_toNat]

/-- The length of a field is in bits 15:8 of its descriptor. -/
theorem fieldLength_eq (w : Warp) (c : Fin 32) :
    sValue w countTy c / 256 % 256 = ((w.s[c]).extractLsb' 8 8).toNat := by
  simp only [sValue, countTy, Ty.width, BitVec.extractLsb'_toNat, Nat.shiftRight_eq_div_pow]
  omega

theorem bfiEff_next {s : State} {x : Focus} {i : Instr} {r : Row} (h : strandReady s x i r.grd)
    (htile : x.w.acc[r.k].tile = none) {b : Warp → Fin 32 → BitVec r.t.width} {d : Fin 32}
    (hval : ∀ w l a, r.val w l a = inserted r.t a (b w l) (ofS .n32 w d)) :
    bfiEff i r.k r.grd r.t (fun w l => (b w l).toNat) d s = .next (
      if ((x.w.s[d]).extractLsb' 8 8).toNat = 0 then finishStrand s x.c x.w x.f r.k else rowDone s x r) := by
  obtain ⟨hx, hi, hg⟩ := h
  rw [bfiEff, strandInstr_next hx hi hg]
  simp only [htile, fieldLength_eq, Option.isSome_none, Bool.false_eq_true, if_false, beq_iff_eq]
  congr 1
  split
  · rfl
  · have hd : sValue x.w countTy d = (ofS .n32 x.w d).toNat := sValue_eq_toNat x.w .n32 d
    have hlane : ∀ l, BitVec.ofNat r.t.width
        (bfiN r.t (accOf r.t x.w r.k l).toNat (b x.w l).toNat (sValue x.w countTy d)) =
          r.val x.w l (accOf r.t x.w r.k l) := fun l => by
      rw [hval, hd]
      exact ofNat_bfiN ..
    rw [vecArith_plain, inMask_activeLanes]
    simp only [hlane]
    rfl

/-- Both forms of BFI are carried out by its shared meaning. -/
theorem exec_of_bfiRow {i : Instr} {r : Row} {d : Fin 32} (hrow : bfiRow i = some (r, d)) (hi : i.wf = true) (s : State) :
    ∃ b : Warp → Fin 32 → BitVec r.t.width, exec i s = bfiEff i r.k r.grd r.t (fun w l => (b w l).toNat) d s ∧
      ∀ w l a, r.val w l a = inserted r.t a (b w l) (ofS .n32 w d) := by
  cases i with
  | bfi o =>
    cases hrow
    simp only [exec, execBfi, gValue_eq_toNat]
    exact ⟨_, rfl, fun _ _ _ => rfl⟩
  | bfiExt o =>
    cases hrow
    have hwf : (o.t.isInt && o.src.okFor o.t) = true := hi
    have hfloat := isFloat_eq_false_of_isInt (Bool.and_eq_true_iff.1 hwf).1
    simp only [exec, execBfiExt, gsrcValue_eq_toNat _ _ _ _ hfloat]
    exact ⟨_, rfl, fun _ _ _ => rfl⟩
  | _ => cases hrow

/-- Settles O3: bit by bit, the result is the operand's inside the field and the accumulator's outside it. -/
theorem fieldInsertion : Obligations.FieldInsertion := by
  intro s x i r d hrow hready htile
  obtain ⟨b, hexec, hval⟩ := exec_of_bfiRow hrow (strandReady_wf hready) s
  rw [hexec, bfiEff_next hready htile hval]

/-! ### CMP and EMITP (R194, R202) -/

theorem intHolds_eq_condOrd {t : Ty} {c : Cond} (hc : c.code < 6) (a b : BitVec t.width) :
    intHolds t c a b = condOrd c (compare (ival t a.toNat) (ival t b.toNat)) := by
  rw [Bool.eq_iff_iff]
  cases c with
  | ord | unord => exact absurd hc (by decide)
  | eq => simp [intHolds, condOrd, ival_inj]
  | ne => simp [intHolds, condOrd, bne, ival_inj]
  | lt | le | gt | ge => simp [intHolds, condOrd, lt_eq_decide_ival_lt, compare_lt_iff_lt, compare_gt_iff_gt]

theorem sigFlag_pair (x y : FVal) : sigFlag [x, y] = if x = .nan true ∨ y = .nan true then fIV else 0 := by
  simp [sigFlag]

/-- The table of R194: every condition at every order of two values, or at none. -/
theorem fcmp_eq_floatHolds (f : Fmt) (c : Cond) (a b : Nat) : fcmp f c a b = floatHolds f c a b := by
  simp only [fcmp, floatHolds, sigFlag_pair]
  cases cmpV (f.decode a) (f.decode b) with
  | none => cases c <;> rfl
  | some o => cases c <;> cases o <;> rfl

theorem b2n_bne_zero (b : Bool) : (b2n b != 0) = b := by cases b <;> rfl

/-- A lane's result as a predicate takes it: a bit and flags, and no cause. -/
structure GivesBit (r : LaneRes) (v : Bool × Nat) : Prop where
  bit : (r.val != 0) = v.1
  flags : r.flags = v.2
  cause : r.cause = none

theorem plain_givesBit (n : Nat) : GivesBit (.plain n) (n != 0, 0) := ⟨rfl, rfl, rfl⟩

theorem cmpR_givesBit_float {t : Ty} (ht : t.isFloat = true) (c : Cond) (a b : Nat) :
    GivesBit (cmpR t c a b) (floatHolds (fmtOf t) c a b) := by
  rw [← fcmp_eq_floatHolds, cmpR, if_pos ht]
  exact ⟨b2n_bne_zero _, rfl, rfl⟩

theorem cmpR_givesBit_int {t : Ty} (ht : t.isFloat = false) {c : Cond} (hc : c.code < 6) (a b : BitVec t.width) :
    GivesBit (cmpR t c a.toNat b.toNat) (intHolds t c a b, 0) := by
  rw [intHolds_eq_condOrd hc, cmpR, if_neg (by simp [ht])]
  exact ⟨b2n_bne_zero _, rfl, rfl⟩

/-- What writeP leaves in a predicate. -/
theorem predAfter_writeP (old m v : Mask) : predAfter old (inMask m) (inMask v) ((old &&& ~~~m) ||| (v &&& m)) := by
  intro l
  change inMask ((old &&& ~~~m) ||| (v &&& m)) l = if inMask m l = true then inMask v l else inMask old l
  cases h : inMask m l <;> simp [h]

/-- FPEN enables a flag alike whether it is read as a number or as a word (R73). -/
theorem and_toNat_eq_zero {n : Nat} {e : W32} (h : BitVec.ofNat 32 n &&& e = 0) : n &&& e.toNat = 0 := by
  have hmod : n % 2 ^ 32 &&& e.toNat = 0 := congrArg BitVec.toNat h
  rwa [← Nat.mod_eq_of_lt e.isLt, ← Nat.and_mod_two_pow, Nat.mod_eq_of_lt (Nat.and_lt_two_pow n e.isLt)] at hmod

/-- An instruction that writes a predicate, on a vector-mode accumulator and with no enabled flag raised. -/
theorem predArith_next {s : State} {x : Focus} {i : Instr} (r : PRow) (h : strandReady s x i r.grd)
    (htile : x.w.acc[r.k].tile = none) (f : LaneFn) (hf : ∀ l a, GivesBit (f x.w l a.toNat) (r.val x.w l a))
    (huntrapped : untrapped x r.grd fun l => (r.val x.w l (accOf r.t x.w r.k l)).2) (rowOk : Bool) :
    ∃ m : Mask, predAfter x.w.p[r.d] (active x r.grd) (fun l => (r.val x.w l (accOf r.t x.w r.k l)).1) m ∧
      predArith i r.k r.grd r.t r.d rowOk f s = .next (finishStrand s x.c
        (wroteP x.w r.d m (flagsOf (active x r.grd) fun l => (r.val x.w l (accOf r.t x.w r.k l)).2)) x.f r.k) := by
  obtain ⟨hx, hi, hg⟩ := h
  have hlane : ∀ l, GivesBit (f x.w l (lowBits r.t (x.w.acc[r.k].val)[l])) (r.val x.w l (accOf r.t x.w r.k l)) :=
    fun l => by
      rw [lowBits_eq_toNat]
      exact hf l _
  refine ⟨(x.w.p[r.d] &&& ~~~activeLanes x r.grd) |||
    (maskOf (fun l => (r.val x.w l (accOf r.t x.w r.k l)).1) &&& activeLanes x r.grd), ?_, ?_⟩
  · have hafter := predAfter_writeP x.w.p[r.d] (activeLanes x r.grd)
      (maskOf fun l => (r.val x.w l (accOf r.t x.w r.k l)).1)
    rwa [inMask_activeLanes, funext (inMask_maskOf _)] at hafter
  · rw [predArith, strandInstr_next hx hi hg]
    simp only [htile, Option.isSome_none, Bool.false_and, Bool.false_eq_true, if_false]
    rw [commitLanes_untrapped s x r.k (fun l => (hlane l).cause)]
    · simp only [(hlane _).bit, (hlane _).flags, inMask_activeLanes]
      rfl
    · intro l hl
      rw [(hlane l).flags]
      rw [inMask_activeLanes] at hl
      exact and_toNat_eq_zero (huntrapped l hl)

/-- Every type CMP takes has its comparison: ORD and UNORD only compare floats (R194). -/
theorem cmpR_givesBit {t : Ty} {c : Cond} (hc : (t.isFloat || decide (c.code < 6)) = true) (a b : BitVec t.width)
    {n y : Nat} (hfloat : t.isFloat = true → n = y) (hint : t.isFloat = false → n = b.toNat) :
    GivesBit (cmpR t c a.toNat n)
      (if t.isFloat then floatHolds (fmtOf t) c a.toNat y else (intHolds t c a b, 0)) := by
  cases ht : t.isFloat with
  | true =>
    rw [hfloat ht, if_pos rfl]
    exact cmpR_givesBit_float ht c _ _
  | false =>
    rw [hint ht, if_neg Bool.false_ne_true]
    exact cmpR_givesBit_int ht (by simpa [ht] using hc) a b

theorem toNat_bne_zero {n : Nat} (a : BitVec n) : (a.toNat != 0) = (a != 0) := by
  rw [Bool.eq_iff_iff]
  simp [← BitVec.toNat_inj]

theorem emitp_givesBit {n : Nat} (a : BitVec n) : GivesBit (.plain a.toNat) (a != 0, 0) := by
  rw [← toNat_bne_zero]
  exact plain_givesBit _

/-- CMP and EMITP are carried out by the shared meaning of the instructions that write a predicate. -/
theorem exec_of_predRow {i : Instr} {r : PRow} (hrow : predRow i = some r) (hi : i.wf = true) (s : State) :
    ∃ (f : LaneFn) (rowOk : Bool), exec i s = predArith i r.k r.grd r.t r.d rowOk f s ∧
      ∀ w l a, GivesBit (f w l a.toNat) (r.val w l a) := by
  cases i with
  | cmp o =>
    cases hrow
    have hwf : (o.t.arith && evenG o.t o.g && (o.t.isFloat || decide (o.c.code < 6))) = true := hi
    simp only [exec, execCmp]
    exact ⟨_, _, rfl, fun w l a => cmpR_givesBit (Bool.and_eq_true_iff.1 hwf).2 a _
      (fun _ => gValue_eq_toNat w o.t o.g l) (fun _ => gValue_eq_toNat w o.t o.g l)⟩
  | cmpExt o =>
    cases hrow
    have hwf : (o.t.arith && o.src.okFor o.t && (o.t.isFloat || decide (o.c.code < 6))) = true := hi
    simp only [exec, execCmpExt]
    exact ⟨_, _, rfl, fun w l a => cmpR_givesBit (Bool.and_eq_true_iff.1 hwf).2 a _
      (gsrcValue_eq_fGSrc w o.t l o.src) (gsrcValue_eq_toNat w o.t l o.src)⟩
  | emitp o | emitpExt o =>
    cases hrow
    simp only [exec, execEmitp, execEmitpExt, emitpEff]
    exact ⟨_, _, rfl, fun _ _ a => emitp_givesBit a⟩
  | _ => cases hrow

/-- Settles O8: every lane's result is one bit, which the masked write puts into the active lanes of the predicate. -/
theorem compareAndEmitPredicate : Obligations.CompareAndEmitPredicate := by
  intro s x i r hrow hready htile huntrapped
  obtain ⟨f, rowOk, hexec, hf⟩ := exec_of_predRow hrow (strandReady_wf hready) s
  rw [hexec]
  exact predArith_next r hready htile f (hf x.w) huntrapped rowOk

/-! ### SEL (R195) -/

theorem selEff_next {s : State} {x : Focus} {i : Instr} {k : Fin 8} {grd : Option Guard} (h : strandReady s x i grd)
    (htile : x.w.acc[k].tile = none) (t : Ty) (p : Fin 8) (n : Bool) (b : Warp → Fin 32 → Nat) :
    selEff i k grd t p n b s = .next (finishStrand s x.c
      (wroteAcc x.w k t (fun l => active x grd l && ((x.w.p[p]).getLsbD l.val != n))
        fun l => BitVec.ofNat t.width (b x.w l)) x.f k) := by
  obtain ⟨hx, hi, hg⟩ := h
  have hpicked : inMask (activeLanes x grd &&& maskOf (selLane x.w p n)) =
      fun l => active x grd l && ((x.w.p[p]).getLsbD l.val != n) := funext fun l => by
    rw [inMask_and, inMask_maskOf, inMask_activeLanes]
    rfl
  rw [selEff, strandInstr_next hx hi hg]
  simp only [htile, Option.isSome_none, Bool.false_eq_true, if_false, writeAcc_eq_wroteAcc, hpicked]

/-- Both forms of SEL are carried out by its shared meaning. -/
theorem exec_of_selRow {i : Instr} {r : Row} {p : Fin 8} {n : Bool} (hrow : selRow i = some (r, p, n)) (s : State) :
    ∃ b : Warp → Fin 32 → Nat, exec i s = selEff i r.k r.grd r.t p n b s ∧
      ∀ w l a, BitVec.ofNat r.t.width (b w l) = r.val w l a := by
  cases i with
  | sel o =>
    cases hrow
    simp only [exec, execSel]
    exact ⟨_, rfl, fun w l _ => ofNat_gValue w o.t o.g l⟩
  | selExt o =>
    cases hrow
    simp only [exec, execSelExt]
    exact ⟨_, rfl, fun w l _ => ofNat_gsrcValue w o.t l o.src⟩
  | _ => cases hrow

/-- Settles O9: the lanes written are the active ones whose predicate bit differs from N. -/
theorem selectMoves : Obligations.SelectMoves := by
  intro s x i r p n hrow hready htile
  obtain ⟨b, hexec, hb⟩ := exec_of_selRow hrow s
  rw [hexec, selEff_next hready htile]
  simp only [← hb]

/-! ### EMIT and EMITS (R201, R203) -/

theorem emitEff_next {s : State} {x : Focus} {i : Instr} {k : Fin 8} {grd : Option Guard} (h : strandReady s x i grd)
    (t : Ty) (g : Fin 64) :
    emitEff i k grd t g s = .next (finishStrand s x.c ((x.w.writeG t.is64 g (activeLanes x grd)
      fun l => gImage t (lowBits t (x.w.acc[k].val)[l])).setAllPresent (activeLanes x grd) (gRegs t g)) x.f k) := by
  obtain ⟨hx, hi, hg⟩ := h
  exact strandInstr_next hx hi hg k _

/-- EMIT's write, as R201 has it. -/
theorem writeG_gImage (w : Warp) (k : Fin 8) (t : Ty) (g : Fin 64) (m : Mask) :
    let g1 := w.g.set g (gAfter w.g[g] (inMask m)
      fun l => if t.is64 then ((w.acc[k].val)[l]).setWidth 32 else gWord t (accOf t w k l))
    let q : Fin 64 := gPartner g
    let g2 := if t.is64 then g1.set q (gAfter g1[q] (inMask m) fun l => ((w.acc[k].val)[l]).extractLsb' 32 32) else g1
    w.writeG t.is64 g m (fun l => gImage t (lowBits t (w.acc[k].val)[l])) = { w with g := g2 } := by
  cases ht : t.is64 with
  | true =>
    simp only [gImage_of_is64 ht, if_pos]
    rfl
  | false =>
    simp only [Warp.writeG, gImage_setWidth, Bool.false_eq_true, if_false]
    rfl

theorem emitsEff_next {s : State} {x : Focus} {i : Instr} {k : Fin 8} {grd : Option Guard} (h : strandReady s x i grd)
    (t : Ty) (d : Fin 32) {l : Fin 32} (hl : active x grd l = true) (hbelow : ∀ j, j < l → active x grd j = false) :
    emitsEff i k grd t d s =
      .next (finishStrand s x.c (x.w.writeS d (image t (accOf t x.w k l))) x.f k) := by
  obtain ⟨hx, hi, hg⟩ := h
  rw [← inMask_activeLanes] at hl hbelow
  have himage : accImage t (lowBits t (x.w.acc[k].val)[l]) = image t (accOf t x.w k l) := by
    rw [accImage_eq_image, lowBits_eq_toNat, BitVec.ofNat_toNat, BitVec.setWidth_eq]
    rfl
  rw [emitsEff, strandInstr_next hx hi hg]
  simp only [lowest_eq_some hl hbelow, himage]

theorem emitsEff_next_of_no_lane {s : State} {x : Focus} {i : Instr} {k : Fin 8} {grd : Option Guard}
    (h : strandReady s x i grd) (t : Ty) (d : Fin 32) (hnone : ∀ l, active x grd l = false) :
    emitsEff i k grd t d s = .next (finishStrand s x.c x.w x.f k) := by
  obtain ⟨hx, hi, hg⟩ := h
  rw [← inMask_activeLanes] at hnone
  rw [emitsEff, strandInstr_next hx hi hg]
  simp only [lowest_eq_none hnone]

theorem exec_of_emitRow {i : Instr} {k : Fin 8} {grd : Option Guard} {t : Ty} {g : Fin 64}
    (h : emitRow i = some (k, grd, t, g)) (s : State) : exec i s = emitEff i k grd t g s := by
  cases i with
  | emit o | emitExt o | shortEmit o | shortEmitN64 o =>
    cases h
    rfl
  | _ => cases h

theorem exec_of_emitsRow {i : Instr} {k : Fin 8} {grd : Option Guard} {t : Ty} {d : Fin 32}
    (h : emitsRow i = some (k, grd, t, d)) (s : State) : exec i s = emitsEff i k grd t d s := by
  cases i with
  | emits o | emitsExt o =>
    cases h
    rfl
  | _ => cases h

/-- Settles O10: EMIT's register image is the pair's two halves or one word, and EMITS's lane is the mask's first. -/
theorem emitsToRegisters : Obligations.EmitsToRegisters := by
  refine ⟨fun s x i k grd t g hrow hready => ?_,
    fun s x i k grd t d hrow hready => ⟨fun l hl hbelow => ?_, fun hnone => ?_⟩⟩
  · refine ⟨activeLanes x grd, congrFun (inMask_activeLanes x grd), ?_⟩
    intro g1 q g2
    rw [exec_of_emitRow hrow, emitEff_next hready, writeG_gImage, inMask_activeLanes]
  · rw [exec_of_emitsRow hrow, emitsEff_next hready t d hl hbelow]
    rfl
  · rw [exec_of_emitsRow hrow, emitsEff_next_of_no_lane hready t d hnone]

end Sys2Proof.Machine
end
